-- ==== Sys2Proof/Word.lean ====
section
/-! DEFINITION. The words of the machine: parcels, registers, pairs and lane masks, and how a pair is made of two registers. -/

namespace Sys2Proof

/-- One byte of memory. -/
abbrev Byte := BitVec 8
/-- One parcel of the instruction stream (R123). -/
abbrev Half := BitVec 16
/-- One register (R52). -/
abbrev Word := BitVec 32
/-- A register pair, an address or a time (R52). -/
abbrev Quad := BitVec 64
/-- One bit for each lane of a quarter, bit i for lane i (R52). -/
abbrev Lanes := BitVec 32

/-- The pair whose even register holds `l` and whose odd register holds `h` (R52). -/
def pair (l h : Word) : Quad := h ++ l
/-- The even register of a pair: its low word (R52). -/
def Quad.low (q : Quad) : Word := q.setWidth 32
/-- The odd register of a pair: its high word (R52). -/
def Quad.high (q : Quad) : Word := q.extractLsb' 32 32

end Sys2Proof
end

