-- ==== Sys2Proof/Machine/Bits.lean ====
section
/-! DEFINITION. Small helpers: lane masks, sign extension, bytes of words, lists by index, tables by key. -/

namespace Sys2Proof.Machine

/-! ## Lanes -/

/-- The lanes of a wave, in lane order. -/
def laneOrder : List Nat := List.range 32
/-- The mask of the lanes for which `f` holds. -/
def maskOf (f : Nat → Bool) : Lanes :=
  laneOrder.foldl (fun m i => if f i then m ||| (1#32 <<< i) else m) 0
/-- The lanes of a mask, in lane order. -/
def lanesIn (m : Lanes) : List Nat := laneOrder.filter fun i => m.getLsbD i
/-- The lowest lane of a mask, 0 when it is empty. -/
def lowest (m : Lanes) : Nat := (lanesIn m).headD 0
/-- A value for every lane. -/
def rowOf {α : Type} (f : Nat → α) : List α := laneOrder.map f
/-- A list over the lanes with the lanes of `m` replaced by `f`. -/
def mixRow {α : Type} (m : Lanes) (f : Nat → α) (old : Nat → α) : List α :=
  rowOf fun i => if m.getLsbD i then f i else old i

/-! ## Words, bytes and integers -/

/-- The signed value of the low `w` bits of `x` (R151). -/
def signed (w x : Nat) : Int :=
  let y := x % 2 ^ w
  if 2 * y < 2 ^ w then (y : Int) else (y : Int) - 2 ^ w
/-- The `w`-bit pattern of an integer. -/
def wrap (w : Nat) (x : Int) : Nat := (x % (2 ^ w : Int)).toNat
/-- The nearest value of a range. -/
def clampInt (lo hi x : Int) : Int := if x < lo then lo else if hi < x then hi else x
/-- The `n` low bytes of a number, low byte first (R8). -/
def toBytes (n x : Nat) : List Byte := (List.range n).map fun i => BitVec.ofNat 8 (x / 256 ^ i)
/-- The number that bytes stand for, low byte first (R8). -/
def ofBytes : List Byte → Nat
  | [] => 0
  | b :: bs => b.toNat + 256 * ofBytes bs
/-- The number at an offset of a run of bytes. -/
def numAt (bs : List Byte) (off n : Nat) : Nat := ofBytes ((bs.drop off).take n)
/-- The bits `hi : lo` of a number. -/
def bitsOf (x hi lo : Nat) : Nat := x / 2 ^ lo % 2 ^ (hi + 1 - lo)
/-- A bit of a number. -/
def bitOf (x i : Nat) : Bool := x / 2 ^ i % 2 == 1
/-- 1 for true. -/
def bit (b : Bool) : Nat := if b then 1 else 0
/-- The first `n` bytes of a list, zeros after its end. -/
def padTo (n : Nat) (bs : List Byte) : List Byte := bs.take n ++ List.replicate (n - bs.length) 0
/-- Bytes put over a run of bytes from an offset on. -/
def overlay (bs : List Byte) (off : Nat) (new : List Byte) : List Byte :=
  bs.take off ++ new ++ bs.drop (off + new.length)
/-- Division that rounds up. -/
def ceilDiv (a b : Nat) : Nat := (a + b - 1) / b

/-! ## Lists by index and tables by key -/

/-- A list with its `i`-th entry replaced; unchanged beyond its end. -/
def setAt {α : Type} : List α → Nat → α → List α
  | [], _, _ => []
  | _ :: t, 0, a => a :: t
  | h :: t, i + 1, a => h :: setAt t i a
/-- A list with its `i`-th entry changed by a function. -/
def modAt {α : Type} : List α → Nat → (α → α) → List α
  | [], _, _ => []
  | h :: t, 0, f => f h :: t
  | h :: t, i + 1, f => h :: modAt t i f

/-- The entry of a table with a key. -/
def get? {α : Type} : List (Nat × α) → Nat → Option α
  | [], _ => none
  | (k, a) :: t, i => if k = i then some a else get? t i
/-- A table with the entry of a key replaced, or added in rising order of keys. -/
def put {α : Type} : List (Nat × α) → Nat → α → List (Nat × α)
  | [], i, a => [(i, a)]
  | (k, b) :: t, i, a => if i < k then (i, a) :: (k, b) :: t else if i = k then (i, a) :: t else (k, b) :: put t i a
/-- A table without a key. -/
def del {α : Type} (t : List (Nat × α)) (i : Nat) : List (Nat × α) := t.filter fun p => p.1 != i
/-- A table with the entry of a key changed by a function, if it is there. -/
def upd {α : Type} (t : List (Nat × α)) (i : Nat) (f : α → α) : List (Nat × α) :=
  t.map fun p => if p.1 = i then (p.1, f p.2) else p
/-- The keys whose entries meet a test, in the table's order. -/
def keysWhere {α : Type} (t : List (Nat × α)) (f : α → Bool) : List Nat :=
  (t.filter fun p => f p.2).map (·.1)
/-- A number added to a set kept without repeats. -/
def insertNew (xs : List Nat) (x : Nat) : List Nat := if xs.contains x then xs else xs ++ [x]
/-- The first greatest status of a list, 0 when it is empty (R94). -/
def greatest (xs : List Nat) : Nat := xs.foldl max 0

end Sys2Proof.Machine
end

