-- ==== Sys2Proof/Config.lean ====
section
/-! DEFINITION. What an implementation fixes, and the free values: constants without a body, of which nothing can be
proved but that they are what they are (notes/assumptions names each). -/

namespace Sys2Proof.Config

/-- How far beyond a reader's logical time its lease on a line reaches (R100). -/
opaque leaseLength : Nat
/-- `LTIME` of a response: a line's last write and its latest lease, as the fabric carries them (R370). -/
opaque ltime : Nat → Nat → Quad
/-- The approximations of R175, within the bounds that Machine/Approx.lean imposes: which function (0 `frcp` to 5 `fcos`) of which bits. -/
opaque approx : Nat → Word → Int
/-- The parcel after a word that ends the code, or that cannot be read, as a trap reports it (R249). -/
opaque parcelBeyond : Quad → Half
/-- The two images the flash holds as built, slots A and B (R389). -/
opaque flashA : List Byte
opaque flashB : List Byte
/-- The slot selected at the first power-up, true for B (R389). -/
opaque flashSelected : Bool
/-- The count of blown rollback fuses as built, 0 to 64 (R390). -/
opaque fuses : Fin 65
/-- The Birluam key's point on the curve of R389. -/
opaque birluamKey : Nat × Nat
/-- The signature of the identity key over a report (R391). -/
opaque signature : List Byte → List Byte
/-- The DER X.509 identity certificate (R391). -/
opaque certificate : List Byte
/-- The level of the address-select pins MADR1 and MADR0 (R383). -/
opaque madr : BitVec 2
/-- The Vendor ID of the PCI configuration header (R383). -/
opaque vendorId : Half
/-- Request and data credits that the device grants a neighbour when a port comes up (R371). -/
opaque requestGrant : Half
opaque dataGrant : Half
/-- A free value: the n-th number the spec leaves open where a step needs one. -/
opaque free : Nat → Quad

end Sys2Proof.Config
end

