-- ==== Sys2Proof/Syntax.lean ====
section
/-! DEFINITION. The instructions: one constructor of `Instr` for each row of the opcode table, with the operand fields
of its format (R131 to R142), and the operands of the rows that are steps of the device without a word. -/

namespace Sys2Proof

/-- TRI (R131): three registers. `lit` is the literal of R58, present when field b calls for one. -/
structure Tri where
  (dst a b : BitVec 7) (p : BitVec 3) (u : Bool) (lit : Option Word)
  deriving DecidableEq, Repr
/-- TRI read as a compare (R134): COND, ACC and MASK in place of dst. -/
structure Cmp where
  (cond : BitVec 3) (acc : Bool) (mask : BitVec 3) (a b : BitVec 7) (p : BitVec 3) (u : Bool) (lit : Option Word)
  deriving DecidableEq, Repr
/-- TRI of the mask logic (R156), which takes no U and no literal. -/
structure MaskTri where
  (dst a b : BitVec 7) (p : BitVec 3)
  deriving DecidableEq, Repr
/-- DUO (R131): two registers. `lit` is the literal of R58, present when field a calls for one. -/
structure Duo where
  (dst a : BitVec 7) (p : BitVec 3) (u : Bool) (lit : Option Word)
  deriving DecidableEq, Repr
/-- DUO of `mget` and `qnt`, whose U must be 0 (R157, R177) and whose field a takes no literal. -/
structure DuoPlain where
  (dst a : BitVec 7) (p : BitVec 3)
  deriving DecidableEq, Repr
/-- FLT (R131): two registers and a rounding mode. -/
structure Flt where
  (dst a : BitVec 7) (p : BitVec 3) (u : Bool) (rm : BitVec 3) (lit : Option Word)
  deriving DecidableEq, Repr
/-- FLT of a narrowing conversion: rounding mode and `.sat` (R137). -/
structure CvtSat where
  (dst a : BitVec 7) (p : BitVec 3) (u : Bool) (rm : BitVec 3) (sat : Bool) (lit : Option Word)
  deriving DecidableEq, Repr
/-- FLT of an integer narrowing: `.sat` alone (R137). -/
structure CvtInt where
  (dst a : BitVec 7) (p : BitVec 3) (u : Bool) (sat : Bool) (lit : Option Word)
  deriving DecidableEq, Repr
/-- RRI (R131): register, register, IMM9. -/
structure Rri where
  (dst a : BitVec 7) (p : BitVec 3) (imm : BitVec 9)
  deriving DecidableEq, Repr
/-- RRI of a shift by an immediate (R136). -/
structure ShiftImm where
  (dst a : BitVec 7) (p : BitVec 3) (n : BitVec 5)
  deriving DecidableEq, Repr
/-- RI (R131): register and IMM16. -/
structure Ri where
  (dst : BitVec 7) (p : BitVec 3) (imm : BitVec 16)
  deriving DecidableEq, Repr
/-- BRA of `br` (R160). -/
structure Br where
  (p : BitVec 3) (off : BitVec 16)
  deriving DecidableEq, Repr
/-- BRA of `call` (R160): `l` is the link register. -/
structure Call where
  (p : BitVec 3) (l : BitVec 7) (off : BitVec 16)
  deriving DecidableEq, Repr
/-- DUO of `jmp` and `ret` (R161), whose dst must be 0. -/
structure Jump where
  (a : BitVec 7) (p : BitVec 3) (u : Bool) (lit : Option Word)
  deriving DecidableEq, Repr
/-- DUO of `wbase` and `wbadd` (R165), whose dst and P must be 0. -/
structure WindowMove where
  (a : BitVec 7) (u : Bool) (lit : Option Word)
  deriving DecidableEq, Repr
/-- MEM (R131, R133). -/
structure Mem where
  (d a : BitVec 7) (p : BitVec 3) (u : Bool) (sz : BitVec 3) (off : BitVec 5)
  deriving DecidableEq, Repr
/-- DUO of `atom` (R138). -/
structure Atom where
  (dst a : BitVec 7) (p : BitVec 3) (u loc : Bool) (width : BitVec 2) (oper : BitVec 4)
  deriving DecidableEq, Repr
/-- DUO of `atom2` (R138): WIDTH is 2. -/
structure Atom2 where
  (dst a : BitVec 7) (p : BitVec 3) (u loc : Bool) (oper : BitVec 4)
  deriving DecidableEq, Repr
/-- ASY (R131): three `s` registers. -/
structure Asy where
  (sa sb sc : BitVec 6)
  deriving DecidableEq, Repr
/-- WAIT of `bwait` (R139): `arrive` is K<1>, `parity` is K<0>. -/
structure Bwait where
  (st : BitVec 6) (dl : BitVec 5) (a : BitVec 6) (arrive parity : Bool)
  deriving DecidableEq, Repr
/-- WAIT of `waitc` (R139): threshold and class. -/
structure Waitc where
  (st : BitVec 6) (dl : BitVec 5) (n : BitVec 8) (cls : BitVec 3)
  deriving DecidableEq, Repr
/-- WAIT of `monw` (R139): `wide` is K<3>, `cond` is K<2:0>. -/
structure Monw where
  (st : BitVec 6) (dl : BitVec 5) (a : BitVec 7) (wide : Bool) (cond : BitVec 3)
  deriving DecidableEq, Repr
/-- WAIT of `qsend` (R139). -/
structure Qsend where
  (st : BitVec 6) (a : BitVec 7)
  deriving DecidableEq, Repr
/-- WAIT of `qrecv` and `proc.enter` (R139): status, deadline and A. -/
structure WaitA where
  (st : BitVec 6) (dl : BitVec 5) (a : BitVec 7)
  deriving DecidableEq, Repr
/-- WAIT of `fence` (R139): class mask. -/
structure Fence where
  (st : BitVec 6) (dl : BitVec 5) (mask : BitVec 6)
  deriving DecidableEq, Repr
/-- WAIT of `fbar` (R139): fibre member mask. -/
structure Fbar where
  (st : BitVec 6) (dl : BitVec 5) (k : BitVec 4)
  deriving DecidableEq, Repr
/-- WAIT of `bexp`, `barr` and `proc.leave` (R139): A alone. -/
structure BarA where
  (a : BitVec 7)
  deriving DecidableEq, Repr
/-- WAIT of `gbar` (R139). -/
structure Gbar where
  (st : BitVec 6) (dl : BitVec 5) (a : BitVec 6)
  deriving DecidableEq, Repr
/-- MAT of an 8-bit multiply (R140). -/
structure MmaByte where
  (m n : BitVec 2) (k : BitVec 3) (sp : Bool) (sa sb : BitVec 6)
  deriving DecidableEq, Repr
/-- MAT of a 16-bit multiply (R140). -/
structure MmaHalf where
  (m n : BitVec 2) (k : BitVec 4) (sp : Bool) (sa sb : BitVec 6)
  deriving DecidableEq, Repr
/-- MAT of the QN4 multiply (R140): k is 64. -/
structure MmaQn where
  (m n : BitVec 2) (sp : Bool) (sa sb : BitVec 6)
  deriving DecidableEq, Repr
/-- MAT of `msacc` and `mclear` (R140). -/
structure Macc where
  (m n : BitVec 2) (sa sb : BitVec 6)
  deriving DecidableEq, Repr
/-- MAT of `mdrain` and `mdrain.add` (R140): destination format and SP. -/
structure Mdrain where
  (m n : BitVec 2) (fmt : BitVec 4) (sp : Bool) (sa sb : BitVec 6)
  deriving DecidableEq, Repr
/-- GFX with D and S (R135). -/
structure GfxDS where
  (d : BitVec 7) (s : BitVec 6)
  deriving DecidableEq, Repr
/-- GFX with D, A and S (R135). -/
structure GfxDAS where
  (d a : BitVec 7) (s : BitVec 6)
  deriving DecidableEq, Repr
/-- GFX with D and A (R135). -/
structure GfxDA where
  (d a : BitVec 7)
  deriving DecidableEq, Repr
/-- SYS of `srd` and `swr` (R142): D and the system register number A ∥ IMM6. -/
structure SysReg where
  (d : BitVec 7) (r : BitVec 13)
  deriving DecidableEq, Repr

/-- Where a record is held that could not be posted (R352). -/
inductive Origin where
  | fibre (w f : Nat)           -- a parking fibre keeps its own record
  | core (cluster core : Nat)
  | clusterUnit (cluster : Nat)
  | coe
  | queueManager
  deriving DecidableEq, Repr

/-- A gang that waits to be placed (R334): a SAVED gang by its number, or the next gang of a ready launch. -/
inductive Candidate where
  | saved (g : Nat)
  | next (l : Nat)
  deriving DecidableEq, Repr

/-- The 64 bytes of a flit as they come off a port, sealed or not (R369). -/
abbrev Flit := List Byte

/-- The readings the sensors give in one sample (R384). -/
structure Sample where
  (readings : List (BitVec 32))
  deriving DecidableEq, Repr

/-- A bank of a gang's resident state, as it leaves for the save slot (R48, R49, R356). -/
inductive Bank where
  | regs (m j : Nat)       -- register granule j of member m
  | scratch (m j : Nat)    -- scratch granule j of member m
  | acc (j : Nat)          -- accumulator granule j
  deriving DecidableEq, Repr

/-- A bank of a gang, after the gang's number. -/
abbrev GangBank := Nat × Bank

/-- What the host answers to a translation or line request (R364, R365). -/
inductive HostAnswer where
  | line (data : List Byte)     -- the line, held exclusive from here on
  | writable (page : Nat) (write : Bool)  -- a translation of a host page
  | absent                      -- no translation
  | error                       -- the request failed
  deriving DecidableEq, Repr

/-- The instructions and steps of the opcode table, one constructor a row; each constructor's comment gives the row's
mnemonic and the rule that states it. A packet of the management bus (R383) and a frame of the time input (R379) are the bytes of the
operands, one after another. -/
inductive Instr where
  | addB32 (o : Tri) -- ADD_B32, R152
  | subB32 (o : Tri) -- SUB_B32, R152
  | mulB32 (o : Tri) -- MUL_B32, R152
  | madB32 (o : Tri) -- MAD_B32, R152
  | mulhiS32 (o : Tri) -- MULHI_S32, R152
  | mulhiN32 (o : Tri) -- MULHI_N32, R152
  | andB32 (o : Tri) -- AND_B32, R152
  | orB32 (o : Tri) -- OR_B32, R152
  | xorB32 (o : Tri) -- XOR_B32, R152
  | andnB32 (o : Tri) -- ANDN_B32, R152
  | shlB32 (o : Tri) -- SHL_B32, R152
  | shrN32 (o : Tri) -- SHR_N32, R152
  | shrS32 (o : Tri) -- SHR_S32, R152
  | rotlB32 (o : Tri) -- ROTL_B32, R152
  | minS32 (o : Tri) -- MIN_S32, R152
  | maxS32 (o : Tri) -- MAX_S32, R152
  | minN32 (o : Tri) -- MIN_N32, R152
  | maxN32 (o : Tri) -- MAX_N32, R152
  | addsS32 (o : Tri) -- ADDS_S32, R152
  | subsS32 (o : Tri) -- SUBS_S32, R152
  | addsN32 (o : Tri) -- ADDS_N32, R152
  | subsN32 (o : Tri) -- SUBS_N32, R152
  | bfxN32 (o : Tri) -- BFX_N32, R153
  | bfxS32 (o : Tri) -- BFX_S32, R153
  | bfiB32 (o : Tri) -- BFI_B32, R153
  | absdN32 (o : Tri) -- ABSD_N32, R152
  | addN64 (o : Tri) -- ADD_N64, R154
  | subN64 (o : Tri) -- SUB_N64, R154
  | mulN64 (o : Tri) -- MUL_N64, R154
  | mulwN32 (o : Tri) -- MULW_N32, R154
  | mulwS32 (o : Tri) -- MULW_S32, R154
  | addaS64 (o : Tri) -- ADDA_S64, R154
  | shlN64 (o : Tri) -- SHL_N64, R154
  | shrN64 (o : Tri) -- SHR_N64, R154
  | shrS64 (o : Tri) -- SHR_S64, R154
  | rotlN64 (o : Tri) -- ROTL_N64, R154
  | cmpS32 (o : Cmp) -- CMP_S32, R155
  | cmpN32 (o : Cmp) -- CMP_N32, R155
  | cmpS64 (o : Cmp) -- CMP_S64, R155
  | cmpN64 (o : Cmp) -- CMP_N64, R155
  | addB32Imm (o : Rri) -- ADD_B32_IMM, R158
  | shlB32Imm (o : ShiftImm) -- SHL_B32_IMM, R158
  | shrN32Imm (o : ShiftImm) -- SHR_N32_IMM, R158
  | shrS32Imm (o : ShiftImm) -- SHR_S32_IMM, R158
  | addN64Imm (o : Rri) -- ADD_N64_IMM, R158
  | movB32Imm (o : Ri) -- MOV_B32_IMM, R158
  | movB32ImmS (o : Ri) -- MOV_B32_IMM_S, R158
  | movB32 (o : Duo) -- MOV_B32, R159
  | notB32 (o : Duo) -- NOT_B32, R159
  | negS32 (o : Duo) -- NEG_S32, R159
  | absS32 (o : Duo) -- ABS_S32, R159
  | popcB32 (o : Duo) -- POPC_B32, R159
  | clzB32 (o : Duo) -- CLZ_B32, R159
  | ctzB32 (o : Duo) -- CTZ_B32, R159
  | brevB32 (o : Duo) -- BREV_B32, R159
  | sxbS32 (o : Duo) -- SXB_S32, R159
  | sxhS32 (o : Duo) -- SXH_S32, R159
  | div3N32 (o : Duo) -- DIV3_N32, R159
  | mod3N32 (o : Duo) -- MOD3_N32, R159
  | movN64 (o : Duo) -- MOV_N64, R159
  | negS64 (o : Duo) -- NEG_S64, R159
  | div3N64 (o : Duo) -- DIV3_N64, R159
  | mod3N64 (o : Duo) -- MOD3_N64, R159
  | mset (o : Duo) -- MSET, R157
  | mget (o : DuoPlain) -- MGET, R157
  | mand (o : MaskTri) -- MAND, R156
  | mor (o : MaskTri) -- MOR, R156
  | mxor (o : MaskTri) -- MXOR, R156
  | mandn (o : MaskTri) -- MANDN, R156
  | br (o : Br) -- BR, R160
  | call (o : Call) -- CALL, R160
  | jmp (o : Jump) -- JMP, R161
  | ret (o : Jump) -- RET, R161
  | calli (o : Duo) -- CALLI, R161
  | exit (p : BitVec 3) -- EXIT, R162
  | yield (p : BitVec 3) -- YIELD, R163
  | wbase (o : WindowMove) -- WBASE, R165
  | wbadd (o : WindowMove) -- WBADD, R165
  | nop (p : BitVec 3) -- NOP, R164
  | faddF32 (o : Tri) -- FADD_F32, R171
  | fmulF32 (o : Tri) -- FMUL_F32, R171
  | ffmaF32 (o : Tri) -- FFMA_F32, R171
  | fsubF32 (o : Tri) -- FSUB_F32, R171
  | fminF32 (o : Tri) -- FMIN_F32, R172
  | fmaxF32 (o : Tri) -- FMAX_F32, R172
  | faddF16 (o : Tri) -- FADD_F16, R171
  | fmulF16 (o : Tri) -- FMUL_F16, R171
  | ffmaF16 (o : Tri) -- FFMA_F16, R171
  | fsubF16 (o : Tri) -- FSUB_F16, R171
  | fminF16 (o : Tri) -- FMIN_F16, R172
  | fmaxF16 (o : Tri) -- FMAX_F16, R172
  | faddBf16 (o : Tri) -- FADD_BF16, R171
  | fmulBf16 (o : Tri) -- FMUL_BF16, R171
  | ffmaBf16 (o : Tri) -- FFMA_BF16, R171
  | fsubBf16 (o : Tri) -- FSUB_BF16, R171
  | fminBf16 (o : Tri) -- FMIN_BF16, R172
  | fmaxBf16 (o : Tri) -- FMAX_BF16, R172
  | fcmpF32 (o : Cmp) -- FCMP_F32, R173
  | fcmpF16 (o : Cmp) -- FCMP_F16, R173
  | faddF32Rm (o : Flt) -- FADD_F32_RM, R174
  | fsubF32Rm (o : Flt) -- FSUB_F32_RM, R174
  | fmulF32Rm (o : Flt) -- FMUL_F32_RM, R174
  | fdivF32 (o : Flt) -- FDIV_F32, R174
  | fsqrtF32 (o : Flt) -- FSQRT_F32, R174
  | frndF32 (o : Flt) -- FRND_F32, R174
  | frcp (o : Duo) -- FRCP, R175
  | frsq (o : Duo) -- FRSQ, R175
  | fex2 (o : Duo) -- FEX2, R175
  | flg2 (o : Duo) -- FLG2, R175
  | fsin (o : Duo) -- FSIN, R175
  | fcos (o : Duo) -- FCOS, R175
  | fabsF32 (o : Duo) -- FABS_F32, R174
  | fnegF32 (o : Duo) -- FNEG_F32, R174
  | fsgnF32 (o : Duo) -- FSGN_F32, R174
  | faddF16Rm (o : Flt) -- FADD_F16_RM, R174
  | fsubF16Rm (o : Flt) -- FSUB_F16_RM, R174
  | fmulF16Rm (o : Flt) -- FMUL_F16_RM, R174
  | fdivF16 (o : Flt) -- FDIV_F16, R174
  | fsqrtF16 (o : Flt) -- FSQRT_F16, R174
  | frndF16 (o : Flt) -- FRND_F16, R174
  | fabsF16 (o : Duo) -- FABS_F16, R174
  | fnegF16 (o : Duo) -- FNEG_F16, R174
  | fsgnF16 (o : Duo) -- FSGN_F16, R174
  | faddBf16Rm (o : Flt) -- FADD_BF16_RM, R174
  | fsubBf16Rm (o : Flt) -- FSUB_BF16_RM, R174
  | fmulBf16Rm (o : Flt) -- FMUL_BF16_RM, R174
  | fdivBf16 (o : Flt) -- FDIV_BF16, R174
  | fsqrtBf16 (o : Flt) -- FSQRT_BF16, R174
  | frndBf16 (o : Flt) -- FRND_BF16, R174
  | fabsBf16 (o : Duo) -- FABS_BF16, R174
  | fnegBf16 (o : Duo) -- FNEG_BF16, R174
  | fsgnBf16 (o : Duo) -- FSGN_BF16, R174
  | cvtF16F32 (o : CvtSat) -- CVT_F16_F32, R176
  | cvtBf16F32 (o : CvtSat) -- CVT_BF16_F32, R176
  | cvtE4m3F32 (o : CvtSat) -- CVT_E4M3_F32, R176
  | cvtE5m2F32 (o : CvtSat) -- CVT_E5M2_F32, R176
  | cvtF32F16 (o : Duo) -- CVT_F32_F16, R176
  | cvtF32Bf16 (o : Duo) -- CVT_F32_BF16, R176
  | cvtF32E4m3 (o : Duo) -- CVT_F32_E4M3, R176
  | cvtF32E5m2 (o : Duo) -- CVT_F32_E5M2, R176
  | cvtS32F32 (o : Flt) -- CVT_S32_F32, R176
  | cvtN32F32 (o : Flt) -- CVT_N32_F32, R176
  | cvtF32S32 (o : Flt) -- CVT_F32_S32, R176
  | cvtF32N32 (o : Flt) -- CVT_F32_N32, R176
  | cvtS64F32 (o : Flt) -- CVT_S64_F32, R176
  | cvtF32S64 (o : Flt) -- CVT_F32_S64, R176
  | cvtS8S32 (o : CvtInt) -- CVT_S8_S32, R176
  | cvtS16S32 (o : CvtInt) -- CVT_S16_S32, R176
  | qntQn4 (o : DuoPlain) -- QNT_QN4, R177
  | dqnQn4 (o : Duo) -- DQN_QN4, R178
  | shflB32 (o : Tri) -- SHFL_B32, R180
  | shflxB32 (o : Tri) -- SHFLX_B32, R180
  | voteAny (o : Duo) -- VOTE_ANY, R181
  | voteAll (o : Duo) -- VOTE_ALL, R181
  | ballot (o : Duo) -- BALLOT, R181
  | scanAddS32 (o : Duo) -- SCAN_ADD_S32, R182
  | scanxAddS32 (o : Duo) -- SCANX_ADD_S32, R182
  | wredAddS32 (o : Duo) -- WRED_ADD_S32, R182
  | wredMinS32 (o : Duo) -- WRED_MIN_S32, R182
  | wredMaxS32 (o : Duo) -- WRED_MAX_S32, R182
  | wredMinN32 (o : Duo) -- WRED_MIN_N32, R182
  | wredMaxN32 (o : Duo) -- WRED_MAX_N32, R182
  | wredAndB32 (o : Duo) -- WRED_AND_B32, R182
  | wredOrB32 (o : Duo) -- WRED_OR_B32, R182
  | wredXorB32 (o : Duo) -- WRED_XOR_B32, R182
  | firstB32 (o : Duo) -- FIRST_B32, R181
  | ldg (o : Mem) -- LDG, R188
  | stg (o : Mem) -- STG, R188
  | ldl (o : Mem) -- LDL, R190
  | stl (o : Mem) -- STL, R190
  | ldgTry (o : Mem) -- LDG_TRY, R189
  | stgTry (o : Mem) -- STG_TRY, R189
  | atom (o : Atom) -- ATOM, R192
  | atom2 (o : Atom2) -- ATOM2, R193
  | redF32 (o : Duo) -- RED_F32, R195
  | redF16 (o : Duo) -- RED_F16, R195
  | redBf16 (o : Duo) -- RED_BF16, R195
  | redS32 (o : Duo) -- RED_S32, R195
  | redS64 (o : Duo) -- RED_S64, R195
  | red2F16 (o : Duo) -- RED2_F16, R195
  | red2Bf16 (o : Duo) -- RED2_BF16, R195
  | rfinF32 (o : Flt) -- RFIN_F32, R196
  | rfinF16 (o : Flt) -- RFIN_F16, R196
  | rfinBf16 (o : Flt) -- RFIN_BF16, R196
  | rfinS32 (o : Flt) -- RFIN_S32, R196
  | rfinS64 (o : Flt) -- RFIN_S64, R196
  | tcopyGl (o : Asy) -- TCOPY_GL, R201
  | tcopyLg (o : Asy) -- TCOPY_LG, R201
  | tcopyLl (o : Asy) -- TCOPY_LL, R201
  | collRed (o : Asy) -- COLL_RED, R203
  | collBcast (o : Asy) -- COLL_BCAST, R203
  | collAgat (o : Asy) -- COLL_AGAT, R203
  | bwait (o : Bwait) -- BWAIT, R110
  | waitc (o : Waitc) -- WAITC, R107
  | monw (o : Monw) -- MONW, R112
  | qsend (o : Qsend) -- QSEND, R115
  | qrecv (o : WaitA) -- QRECV, R115
  | fence (o : Fence) -- FENCE, R119
  | fbar (o : Fbar) -- FBAR, R166
  | bexp (o : BarA) -- BEXP, R205
  | barr (o : BarA) -- BARR, R205
  | procEnter (o : WaitA) -- PROC_ENTER, R226
  | procLeave (o : BarA) -- PROC_LEAVE, R227
  | gbar (o : Gbar) -- GBAR, R212
  | mmaS8 (o : MmaByte) -- MMA_S8, R217
  | mmaE4m3 (o : MmaByte) -- MMA_E4M3, R217
  | mmaE5m2 (o : MmaByte) -- MMA_E5M2, R217
  | mmaQn4 (o : MmaQn) -- MMA_QN4, R217
  | mmaF16 (o : MmaHalf) -- MMA_F16, R217
  | mmaBf16 (o : MmaHalf) -- MMA_BF16, R217
  | msacc (o : Macc) -- MSACC, R219
  | mdrain (o : Mdrain) -- MDRAIN, R220
  | mdrainAdd (o : Mdrain) -- MDRAIN_ADD, R220
  | mclear (o : Macc) -- MCLEAR, R221
  | cover (o : GfxDS) -- COVER, R224
  | flins (o : GfxDAS) -- FLINS, R231
  | flrep (o : GfxDAS) -- FLREP, R232
  | flget (o : GfxDAS) -- FLGET, R232
  | flclr (o : GfxDAS) -- FLCLR, R232
  | trace (o : GfxDAS) -- TRACE, R233
  | boxu (o : GfxDA) -- BOXU, R236
  | sah (o : GfxDA) -- SAH, R236
  | npack (o : GfxDAS) -- NPACK, R237
  | sampleD (o : GfxDAS) -- SAMPLE_D, R239
  | sampleC (o : GfxDAS) -- SAMPLE_C, R239
  | sampleL (o : GfxDAS) -- SAMPLE_L, R239
  | rmapinv (o : GfxDS) -- RMAPINV, R240
  | trap (n : BitVec 6) -- TRAP, R249
  | tret -- TRET, R252
  | srd (o : SysReg) -- SRD, R245
  | swr (o : SysReg) -- SWR, R245
  | halt -- HALT, R253
  | brk (n : BitVec 6) -- BRK, R253
  | prog (n : BitVec 2) -- PROG, R253
  | ckmark (n : BitVec 6) -- CKMARK, R253
  | dictionaryParcel (k : BitVec 10) -- DICTIONARY_PARCEL, R127
  | scoutEnd (w : Nat) (f : Nat) -- SCOUT_END, R38
  | heldRecordPost (origin : Origin) -- HELD_RECORD_POST, R352
  | urgent (w : Nat) (f : Nat) -- URGENT, R23
  | waitEnd (w : Nat) (f : Nat) -- WAIT_END, R33
  | waitDeadline (w : Nat) (f : Nat) -- WAIT_DEADLINE, R33
  | idesPoint (w : Nat) (f : Nat) -- IDES_POINT, R36
  | monitorPoll (w : Nat) (f : Nat) -- MONITOR_POLL, R113
  | processionAdmit (w : Nat) (f : Nat) -- PROCESSION_ADMIT, R226
  | lentHoldExpiry (w : Nat) (f : Nat) -- LENT_HOLD_EXPIRY, R309
  | engineUnitRead (op : Nat) (k : Nat) -- ENGINE_UNIT_READ, R102
  | copyCompletion (op : Nat) -- COPY_COMPLETION, R201
  | matrixCompletion (op : Nat) -- MATRIX_COMPLETION, R222
  | drainCompletion (op : Nat) -- DRAIN_COMPLETION, R220
  | traceCompletion (op : Nat) -- TRACE_COMPLETION, R235
  | coverResult (w : Nat) (r : Nat) -- COVER_RESULT, R224
  | sampleResult (w : Nat) (r : Nat) -- SAMPLE_RESULT, R239
  | fleResult (w : Nat) (r : Nat) -- FLE_RESULT, R230
  | rmapinvComplete (w : Nat) (f : Nat) -- RMAPINV_COMPLETE, R240
  | mapCopyExpiry (core : Nat) (unit : Nat) -- MAP_COPY_EXPIRY, R279
  | collectiveDecision (handle : Nat) -- COLLECTIVE_DECISION, R376
  | collectiveDeadline (op : Nat) -- COLLECTIVE_DEADLINE, R204
  | collectiveDecisionTimeout (op : Nat) -- COLLECTIVE_DECISION_TIMEOUT, R376
  | qmDoorbell (q : (BitVec 10)) (tail : Word) -- QM_DOORBELL, R332
  | nopEntry (q : (BitVec 10)) -- NOP_ENTRY, R331
  | launch (q : (BitVec 10)) -- LAUNCH, R18
  | fenceEntry (q : (BitVec 10)) -- FENCE_ENTRY, R331
  | queueEnable (q : (BitVec 10)) -- QUEUE_ENABLE, R332
  | queueDisable (q : (BitVec 10)) -- QUEUE_DISABLE, R332
  | queueClearError (q : (BitVec 10)) -- QUEUE_CLEAR_ERROR, R337
  | qmEnable (on : Bool) -- QM_ENABLE, R329
  | deviceHalt (on : Bool) -- DEVICE_HALT, R308
  | launchReady (l : Nat) -- LAUNCH_READY, R333
  | dependencePoll (l : Nat) (second : Bool) -- DEPENDENCE_POLL, R333
  | priorityAging (l : Nat) -- PRIORITY_AGING, R334
  | reserving (g : Candidate) -- RESERVING, R335
  | swapEligible (g : Nat) -- SWAP_ELIGIBLE, R336
  | gangPlacement (first : Nat) -- GANG_PLACEMENT, R334
  | stopComplete (g : Nat) -- STOP_COMPLETE, R356
  | saveBankWrite (b : GangBank) -- SAVE_BANK_WRITE, R356
  | gangHaltComplete (g : Nat) -- GANG_HALT_COMPLETE, R304
  | install (t : (BitVec 6)) -- INSTALL, R341
  | update (t : (BitVec 6)) -- UPDATE, R341
  | ctxEnd (t : (BitVec 6)) -- END, R342
  | rightsinv (t : (BitVec 6)) -- RIGHTSINV, R343
  | replay (t : (BitVec 6)) -- REPLAY, R353
  | replayall (t : (BitVec 6)) -- REPLAYALL, R341
  | stop (t : (BitVec 6)) -- STOP, R304
  | dbgsave (t : (BitVec 6)) -- DBGSAVE, R341
  | dbgload (t : (BitVec 6)) -- DBGLOAD, R341
  | suspend (t : (BitVec 6)) -- SUSPEND, R341
  | resume (t : (BitVec 6)) -- RESUME, R341
  | resumegang (t : (BitVec 6)) -- RESUMEGANG, R341
  | invalidateRange (wb : Bool) (discard : Bool) -- INVALIDATE_RANGE, R347
  | completeMigration -- COMPLETE_MIGRATION, R348
  | fbEnable (v : Word) -- FB_ENABLE, R339
  | fbRd (v : Word) -- FB_RD, R349
  | interruptStatusClear (vector : Bool) (v : Word) -- INTERRUPT_STATUS_CLEAR, R361
  | msixUnmask (vector : Bool) -- MSIX_UNMASK, R361
  | registerWrite (off : Nat) (bytes : Nat) (v : (BitVec 64)) -- REGISTER_WRITE, R329
  | physicalWindowRead (x : Nat) (bytes : Nat) -- PHYSICAL_WINDOW_READ, R362
  | physicalWindowWrite (x : Nat) (units : (List Byte)) -- PHYSICAL_WINDOW_WRITE, R362
  | hostAtomicop (bar : Nat) (x : Nat) -- HOST_ATOMICOP, R360
  | hostSnoop (line : Nat) -- HOST_SNOOP, R365
  | atsInvalidation (start : Nat) (bytes : Nat) -- ATS_INVALIDATION, R364
  | functionLevelReset (linkDown : Bool) -- FUNCTION_LEVEL_RESET, R366
  | mrstN -- MRST_N, R366
  | pwrenRise -- PWREN_RISE, R388
  | pwrenFall -- PWREN_FALL, R388
  | railOutOfTolerance -- RAIL_OUT_OF_TOLERANCE, R388
  | idle (port : Nat) (flit : Flit) -- IDLE, R369
  | read (port : Nat) (flit : Flit) -- READ, R370
  | write (port : Nat) (flit : Flit) (units : (List Flit)) -- WRITE, R370
  | atomic (port : Nat) (flit : Flit) -- ATOMIC, R370
  | contrib (port : Nat) (flit : Flit) -- CONTRIB, R370
  | cellmerge (port : Nat) (flit : Flit) (units : (List Flit)) -- CELLMERGE, R370
  | monarm (port : Nat) (flit : Flit) -- MONARM, R370
  | moncancel (port : Nat) (flit : Flit) -- MONCANCEL, R370
  | sliceop (port : Nat) (flit : Flit) -- SLICEOP, R370
  | unitop (port : Nat) (flit : Flit) (units : (List Flit)) -- UNITOP, R370
  | rsp (port : Nat) (flit : Flit) -- RSP, R370
  | nackResend (req : Nat) -- NACK_RESEND, R371
  | data (port : Nat) (flit : Flit) -- DATA, R369
  | credit (port : Nat) (flit : Flit) -- CREDIT, R369
  | retry (port : Nat) (flit : Flit) -- RETRY, R369
  | down (port : Nat) (flit : Flit) -- DOWN, R372
  | probe (port : Nat) (flit : Flit) -- PROBE, R372
  | probeans (port : Nat) (flit : Flit) -- PROBEANS, R372
  | flitDrop (port : Nat) (flit : Flit) -- FLIT_DROP, R369
  | collContributionData (port : Nat) (flit : Flit) (units : (List Flit)) -- COLL_CONTRIBUTION_DATA, R370
  | collReadsDone (port : Nat) (flit : Flit) -- COLL_READS_DONE, R370
  | collCommit (port : Nat) (flit : Flit) (units : (List Flit)) -- COLL_COMMIT, R203
  | collCancel (port : Nat) (flit : Flit) -- COLL_CANCEL, R204
  | portDown (port : Nat) -- PORT_DOWN, R367
  | portUp (port : Nat) (peer : (BitVec 7)) -- PORT_UP, R367
  | requestTimeout (req : Nat) -- REQUEST_TIMEOUT, R372
  | rejoin (d : (BitVec 7)) -- REJOIN, R372
  | markDown (d : (BitVec 7)) -- MARK_DOWN, R372
  | probeTimeout (d : (BitVec 7)) -- PROBE_TIMEOUT, R372
  | calStep (ns : (BitVec 64)) -- CAL_STEP, R378
  | ptpEventMessage (headers : (List Byte)) (message : (List Byte)) -- PTP_EVENT_MESSAGE, R379
  | locked -- LOCKED, R377
  | sensorSample (sample : Sample) -- SENSOR_SAMPLE, R386
  | sensors -- SENSORS, R384
  | log -- LOG, R385
  | fwstage -- FWSTAGE, R389
  | fwcommit -- FWCOMMIT, R389
  | fwconfirm -- FWCONFIRM, R390
  | attest -- ATTEST, R391
  | setcap -- SETCAP, R387
  | idcert -- IDCERT, R382
  | timecfg -- TIMECFG, R380
  | vendorDefinedMessage (headers : (List Byte)) (body : (List Byte)) -- VENDOR_DEFINED_MESSAGE, R383
  | setEndpointId (headers : (List Byte)) (control : (List Byte)) (data : (List Byte)) -- SET_ENDPOINT_ID, R383
  | getEndpointId (packet : (List Byte)) -- GET_ENDPOINT_ID, R383
  | getMctpVersionSupport (headers : (List Byte)) (body : (List Byte)) -- GET_MCTP_VERSION_SUPPORT, R383
  | getMessageTypeSupport (packet : (List Byte)) -- GET_MESSAGE_TYPE_SUPPORT, R383
  | getVendorDefinedMessageSupport (headers : (List Byte)) (body : (List Byte)) -- GET_VENDOR_DEFINED_MESSAGE_SUPPORT, R383
  | illegalInstruction (w : Word) -- ILLEGAL_INSTRUCTION, R141
  | badentry (q : (BitVec 10)) -- BADENTRY, R337
  | mrstNDrivenLow -- MRST_N_DRIVEN_LOW, R388
  | hostLinkUp -- HOST_LINK_UP, R359
  | hostRequestCompletion (req : Nat) (answer : HostAnswer) -- HOST_REQUEST_COMPLETION, R364
  | ptmResponse (offset : (BitVec 64)) -- PTM_RESPONSE, R379
  deriving DecidableEq, Repr

end Sys2Proof
end

