-- ==== Sys2Proof/Machine/State.lean ====
section
/-! DEFINITION. The state of one Thrumlo 9 module as plain data, the reasons a step can stop, and the state after reset. -/

namespace Sys2Proof.Machine

/-- A register across the 32 lanes, lane 0 first. -/
abbrev Row := List Word
/-- Bytes by address, in rising order; what is not listed reads as zero (see `Memory.wf`). -/
abbrev Memory := List Host.Cell

/-! ## Strands, fibres and waves -/

/-- R45. -/
inductive FibreState where
  | ready | holding | stalled | waiting | fbarrier | scout | parked | trap | done | halted
  deriving DecidableEq, Repr

/-- A deadline operand as R31 reads it. -/
inductive Deadline where
  | poll | never
  | wall (t : Nat)
  | context (t : Nat)
  deriving DecidableEq, Repr

/-- What a resource stall lacks (R29). -/
inductive Resource where
  | register (sup : Bool) (r : Nat)   -- a result not yet written
  | counter (cls : Nat)               -- an outstanding counter at 255 (R106)
  | ace | mxe | cvu                   -- slots of the core's ACE, queue of the MXE, the CVU
  deriving DecidableEq, Repr

/-- What a fibre waits for. -/
inductive WaitKind where
  | bwait (off : Word) (parity : Bool) (arrived : Option Nat)  -- R110: the arrival's count when it made one
  | waitc (cls n : Nat)                                        -- R107
  | monw (addr : Quad) (wide : Bool) (cond : BitVec 3) (operand : Quad) (a : Nat)  -- R112
  | qrecv (off : Word) (a : Nat)                               -- R115
  | fence (mask : BitVec 6)                                    -- R119
  | fbar (mask : BitVec 4)                                     -- R30
  | procEnter                                                  -- R226
  | gbar (addr : Quad) (gen : Word)                            -- R212
  | rmapinv (lo hi : Nat) (d : Nat) (samples : List Nat)       -- R240: the samples that read the map before
  | resource (r : Resource)                                    -- R29: reissues the same instruction
  | answers                                                    -- a peer or the host has still to answer; the instruction is then performed
  | hold (until_ : Nat)                                        -- R309
  deriving DecidableEq, Repr

/-- A wait in progress (R33, R357). -/
structure Wait where
  kind     : WaitKind
  pc       : Quad              -- address of the instruction
  next     : Quad              -- its next address
  lanes    : Lanes             -- the group
  st       : Nat               -- the status register
  sup      : Bool              -- made in supervisor mode
  deadline : Deadline
  ides     : Nat               -- Ides point, in context time
  gen      : Nat               -- generation of the arrival
  last     : Quad              -- value of the last read (R112)
  since    : Nat               -- clk in which the wait began
  monitor  : Option Nat        -- its monitor entry; none while POLLING (R113)
  polled   : Nat := 0          -- clk of the last poll
  won      : Option Nat := none    -- LAST of the phase whose completion has made it ready (R111)
  ending   : Option Bool := none   -- a withdrawal that a peer has still to answer: whether its Ides point began it (R212)
  stale    : Bool := false         -- POLLING when its gang was restored or resumed, and not read since (R35)
  deriving DecidableEq, Repr

/-- The trap registers (R247). -/
structure TrapRegs where
  cause : Nat := 0
  pc    : Quad := 0
  ret   : Quad := 0
  lanes : Lanes := 0
  info  : Quad := 0
  seq   : Word := 0
  deriving DecidableEq, Repr

/-- A checkpoint (R37): program counters, `s`, `m`, `wbase`, and the registers of the declared range; with it, how the fibre
stood in the choice of its groups (R24) when the faulting instruction was served. -/
structure Checkpoint where
  pcs    : List Quad
  exited : Lanes
  s      : List Word
  m      : List Lanes
  wbase  : Nat
  regs   : List Row            -- from `win.lo` on
  bad    : List (Nat × Lanes) := []   -- lanes of them that hold poison (R392)
  cursor : Quad := 0
  ages   : List Nat := []
  again  : Option Quad := none -- address of the group that the faulting instruction served
  deriving DecidableEq, Repr

/-- A page collected in scout mode (R38, R350). -/
structure FaultPage where
  page  : Nat                  -- its first address
  attr  : Nat                  -- PATTR
  deriving DecidableEq, Repr

/-- An answer from a peer, held until the instruction that asked is performed (R370). -/
structure Answer where
  key    : Nat                 -- lane and unit of the access
  status : Nat
  attr   : Nat := 0            -- walk level and write bit of a translation fault
  value  : List Byte := []
  deriving DecidableEq, Repr

/-- Scout mode (R37, R38): which halves of which registers are invalid, and what the run has collected. -/
structure Scout where
  cp     : Checkpoint
  lowBad  : List (Nat × Lanes) := []   -- allocation registers whose low halves are invalid, by lane
  highBad : List (Nat × Lanes) := []
  sBad   : List Nat := []              -- invalid `s` registers
  mBad   : List (Nat × Lanes) := []    -- invalid mask bits
  pages  : List FaultPage
  count  : Nat := 0                    -- instructions issued since the checkpoint
  ended  : Bool := false               -- something has ended the run; `scoutEnd` comes next
  code   : Nat                         -- 14, of the first fault
  addr   : Quad                        -- address of the faulting instruction
  info   : Quad                        -- the faulting address
  lanes  : Lanes                       -- the faulting group
  hint   : Nat := 0                    -- the hint of its prefix (R29)
  kept   : List Answer := []           -- what peers have performed of the faulting instruction
  deriving DecidableEq, Repr

/-- A record of the fault buffer (R350). -/
structure Record where
  code       : Nat
  replayable : Bool := false
  parked     : Bool := false
  async      : Bool := false
  ended      : Bool := false
  status     : Nat := 0
  tag        : Nat
  addr       : Quad := 0
  gang       : Nat := 0xFFFFFFFF
  wmf        : Nat := 0
  lanes      : Lanes := 0
  seq        : Word := 0
  time       : Quad := 0
  info       : Quad := 0
  token      : Nat := 0
  xkind      : Nat := 0
  xsrc       : Quad := 0
  pages      : List FaultPage := []
  launch     : Quad := 0
  deriving DecidableEq, Repr

/-- A strand's place in the procession (R225); `floor` none is unbounded, 2 ^ 32 admits every order. -/
structure ProcEntry where
  key        : Word := 0
  order      : Nat := 0
  floor      : Option Nat := some 0
  registered : Bool := false
  inside     : Bool := false
  stamp      : Nat := 0        -- when it registered, in the device's count
  deriving DecidableEq, Repr

/-- One fibre of a wave (R27). -/
structure Fibre where
  pcs      : List Quad         -- program counters, lane 0 first
  exited   : Lanes := 0
  sup      : Lanes := 0        -- strands in supervisor mode
  s        : List Word         -- s0 to s63
  m        : List Lanes        -- m0 to m7
  wbase    : Nat
  state    : FibreState := .ready
  before   : FibreState := .ready          -- the state a halt left
  stopReq  : Bool := false                 -- the driver has asked for a precise stop of it (R304)
  replayed : Bool := false                 -- replayed while its gang was SAVED (R353)
  wait     : Option Wait := none
  escalate : Option TrapRegs := none       -- an ESCALATE trap still to be taken (R36)
  retry    : Option Quad := none           -- the group a stall must issue again
  trialed  : Option Quad := none           -- the group that a Lent trial has held and that issues next (R309)
  answers  : List Answer := []             -- of the instruction being retried
  safe     : Bool := false                 -- `FAB_CTL` SAFE when the instruction issued first (R373)
  cursor   : Quad := 0                     -- service cursor (R24)
  ages     : List Nat := []                -- issues since each strand was served, lane 0 first
  urgency  : Nat := 0                      -- R23
  urgent   : Bool := false
  counts   : List Nat := []                -- copy, matrix, trace, collective, drain (R106)
  trap     : TrapRegs := {}
  last     : List (Nat × Nat × Quad) := [] -- by lane: kind and source of the last control transfer (R306)
  scout    : Option Scout := none
  park     : Option (Checkpoint × Record) := none  -- the parked state and the record of the fault
  parkedAt : Nat := 0
  vigil    : Nat := 0                      -- Vigil records made (R301)
  proc     : List (Nat × ProcEntry) := []  -- by lane; unlisted is the default entry
  time     : Nat := 0                      -- logical clock of its accesses (R100)
  mapTime  : Nat := 0                      -- that of the residency-map reads that a TXU makes for it (R279)
  deriving DecidableEq, Repr

/-- Where a unit's result goes: an allocation register, or a register of the supervisor file. -/
structure PendingWrite where
  sup   : Bool
  reg   : Nat
  lanes : Lanes
  row   : Row
  deriving DecidableEq, Repr

/-- Which unit still owes a result (R224, R230, R239). -/
inductive UnitKind where
  | cover | list | sample
  deriving DecidableEq, Repr

/-- A result still to be written. -/
structure Pending where
  kind   : UnitKind
  writes : List PendingWrite
  fibre  : Nat
  maps   : List Nat := []        -- map lines the sample read (R240)
  deriving DecidableEq, Repr

/-- One wave in its slot (R15, R20). -/
structure Wave where
  gang    : Nat
  member  : Nat
  index   : Nat
  slot    : Nat
  created : Quad
  alloc   : List Row
  fibres  : List Fibre
  holder  : Option Nat := none
  lastHolder : Option Nat := none
  supV    : List Row             -- supervisor v0 to v31 (R244)
  supS    : List Word
  supM    : List Lanes
  seq     : Word := 0            -- command sequence count (R298)
  pending : List (Nat × Pending) := []
  bad     : List (Nat × Lanes) := []       -- lanes of allocation registers that an error has poisoned (R392)
  deriving DecidableEq, Repr

/-! ## Launches and gangs -/

/-- What the device keeps of a kernel object's header (R143). -/
structure Header where
  addr    : Quad
  regs    : Nat
  fibres  : Nat
  members : Nat
  scratch : Nat                  -- bytes per member
  acc     : Nat
  stages  : List Nat             -- stage of each member
  waves   : List Nat             -- waves of each member
  win     : List (Nat × Nat)
  shared  : List (Nat × Nat × Nat)   -- first, first after, fibre mask
  entry   : List Nat             -- ENTRY(s, f) at 4 s + f
  coff    : Nat
  clen    : Nat
  dict    : List Word
  doff    : Nat := 0             -- place of the dictionary
  deriving DecidableEq, Repr

/-- A dependence of a launch (R333). -/
structure Dep where
  addr    : Quad
  value   : Nat
  held    : Bool := false
  monitor : Option Nat := none   -- none: read again every 2,048 clk
  polled  : Nat := 0             -- clk of the last read
  deriving DecidableEq, Repr

/-- An accepted launch (R17, R18, R43, R333, R334). -/
structure Launch where
  desc     : Quad
  queue    : Nat
  tag      : Nat
  hdr      : Header
  prio     : Nat                 -- base priority, lowered to PMAX
  replay   : Bool
  digest   : Bool
  gx : Nat
  gy : Nat
  gz : Nat
  args     : List Word
  start    : Quad
  signalVa : Quad
  signalValue : Quad
  deps     : List Dep
  digestVa : Quad
  outs     : List (Quad × Quad)
  lentLo   : Quad
  lentHi   : Quad
  lentDelay : Nat
  entryIdx : Nat                 -- HEAD of its ring entry, and the entry's address
  ready    : Option Nat := none  -- clk in which it became ready
  logical  : Nat := 0            -- the latest logical time then: its accesses come after the writes that it depended on (R100, R333)
  raised   : Nat := 0            -- levels that waiting has raised it (R334)
  agedAt   : Nat := 0            -- clk from which the next level counts
  nextGang : Nat := 0
  candSince : Option Nat := none
  reserving : Option Nat := none -- clk in which it became reserving (R335)
  retired  : Nat := 0
  phase    : Nat := 0            -- step of R43 that is being carried out, 0 before the last gang retires
  heldStep : Option Record := none   -- completion step 1 waits for a replay (R355)
  deriving DecidableEq, Repr

/-- R46; a retired or ended gang is no longer in the state. -/
inductive GangState where
  | running | stopping | saved | halted
  deriving DecidableEq, Repr

/-- One gang that has been placed (R14, R46). -/
structure Gang where
  launch  : Nat
  tag     : Nat
  index   : Nat
  state   : GangState := .running
  waitSwapped : Bool := false
  wasHalted : Bool := false      -- halted when its stop began: saved and restored HALTED (R305)
  byDevice : Bool := false       -- halted, or to be, by a device halt and by nothing else (R308)
  cluster : Nat
  core    : Nat
  dicts   : List (Nat × List Word × List Word) := []   -- by core: its copies of the kernel's and the handler's dictionary (R129)
  placed  : Nat                  -- clk of the last placement or restore
  savedAt : Nat := 0
  savedTime : Quad := 0          -- Calends at the end of STOPPING (R357)
  slot    : Option Quad := none  -- save slot
  written : Bool := false        -- the save slot holds the image
  away    : List Bank := []      -- banks that are in the save slot and nowhere else (R356)
  eligible : Option Nat := none  -- clk from which it waits for placement
  reserving : Option Nat := none
  swapAt  : Option Nat := none   -- clk in which it became swap-eligible (R336)
  mem     : Memory := []         -- local memory (R62)
  stray   : Word := 0
  strayLast : Word := 0
  strayAt : Option (Nat × Nat) := none   -- clk of the last stray access, and 32 × member + wave (R51)
  acc     : List (Nat × Word) := []  -- accumulator elements by 1,024 subtile + 32 i + j; unlisted is 0
  badMem  : List Nat := []       -- 16-byte units of local memory that an error has poisoned (R392)
  badAcc  : List Nat := []       -- the same of accumulator memory, four elements a unit
  hdr     : Header
  deriving DecidableEq, Repr

/-! ## Memory -/

/-- A sector held dirty in L2 (R118, R347, R394). -/
structure DirtySector where
  bytes   : List Byte            -- 48
  cell    : Bool                 -- cell-tagged
  poison  : Option Nat           -- poisoned, with the units marked
  sys     : Bool                 -- system-shared
  latent  : Bool := false        -- with an error not yet found (R392)
  writers : List (Nat × Nat × Nat)   -- launch, wave and fibre whose writes it holds
  deriving DecidableEq, Repr

/-- Logical times of a line (R100). -/
structure LineTime where
  wrote : Nat := 0               -- of its last write
  lease : Nat := 0               -- the latest lease granted to a reader
  deriving DecidableEq, Repr

/-- A sector kept by a core's L1 under a lease (R100). -/
structure L1Copy where
  cluster : Nat
  core    : Nat
  bytes   : List Byte            -- 48
  wrote   : Nat
  lease   : Nat
  deriving DecidableEq, Repr

/-- A unit of a residency map kept by a TXU under a lease (R100, R279). -/
structure MapCopy where
  txu   : Nat                    -- 4 cluster + core
  unit  : Nat                    -- its address
  taken : Nat                    -- clk in which it was taken
  lease : Nat
  bytes : List Byte
  deriving DecidableEq, Repr

/-- A walked page kept by a memory-side TLB (R346). -/
structure TlbEntry where
  va    : Nat                    -- first offset of the page in this device's space
  size  : Nat
  pa    : Nat                    -- physical byte of its first byte (bit 47 selects LPDDR-6)
  write : Bool
  sys   : Bool
  nr    : Bool
  mig   : Option Nat             -- migration entry
  deriving DecidableEq, Repr

/-- Whose a monitor entry is (R113, R333, R370). -/
inductive Watcher where
  | fibre (w f : Nat)
  | dependence (l k : Nat)
  | peer (port dev tag num : Nat)
  deriving DecidableEq, Repr

/-- A monitor entry (R113); `woken` holds the value that satisfied it. -/
structure Monitor where
  addr    : Quad
  wide    : Bool
  cond    : BitVec 3
  operand : Quad
  who     : Watcher
  woken   : Option Quad := none
  bad     : Bool := false        -- its read has met poison (R394)
  entry   : Bool := true         -- it takes an entry of its slice's table; not one that holds what a POLLING read has found
  deriving DecidableEq, Repr

/-- A host line held exclusive or modified (R365). -/
structure HostLine where
  bytes    : List Byte           -- 192
  modified : Bool := false
  writers  : List (Nat × Nat × Nat) := []
  deriving DecidableEq, Repr

/-- What has been asked of the host (R364, R365). -/
inductive HostAsk where
  | translate (page : Nat) (write : Bool)
  | line (n : Nat)
  | pageRequest (page : Nat) (write : Bool)   -- PRI
  deriving DecidableEq, Repr

/-! ## Engines -/

/-- What an asynchronous operation is to do. -/
inductive OpKind where
  | copy (form : Nat) (base : Quad) (esz dims : Nat) (tile : Bool) (n : List Nat) (st : List Int) (dense : Word)
  | mma (fmt m n k : Nat) (sp : Bool) (a b : Word) (t : Nat) (zero : Bool) (map : Word)
  | msacc (m n u t : Nat) (int : Bool) (rs cs : Option Word)
  | mclear (m n t : Nat)
  | drain (add : Bool) (m n u : Nat) (int : Bool) (fmt : Nat) (toGlobal linear sat : Bool) (rm : Nat) (clear : Bool)
      (stride : Nat) (dest : Quad) (seed : Word)
  | trace (rays : List (Nat × Quad × Quad)) (root : Quad) (table : Quad) (count : Word) (first append cull : Bool) (ctx : List Word)
  | coll (op : Nat) (src dst : Quad) (c fmt root : Nat) (handle : Nat) (epoch count rank : Nat) (devs : List Nat) (deadline : Deadline)
  deriving DecidableEq, Repr

/-- A 16-byte unit that an operation has read, or the status with which it failed (R102). -/
structure UnitRead where
  unit   : Nat                   -- its first byte: a global address, or 2 ^ 64 + a local offset
  status : Nat
  row5   : Bool := false
  attr   : Nat := 0
  bytes  : List Byte
  deriving DecidableEq, Repr

/-- An asynchronous operation between its issue and its completion (R102, R298). -/
structure Op where
  kind    : OpKind
  gang    : Nat
  launch  : Nat
  tag     : Nat
  wave    : Nat
  fibre   : Nat
  pc      : Quad
  lanes   : Lanes
  seq     : Word
  cls     : Nat                  -- 0 copy, 1 matrix, 2 trace, 3 collective, 4 drain
  bar     : Option Word          -- the barrier object named
  issued  : Nat                  -- clk of the issue
  safe    : Bool := false        -- `FAB_CTL` SAFE then (R373)
  cluster : Nat                  -- the unit that carries it out
  core    : Nat
  reads   : List UnitRead := []
  status  : Nat := 0             -- a status decided before completion
  captured : Option (List Word) := none  -- a drain's accumulator elements once read
  remote  : List Answer := []    -- what peers answered to its writes
  sent    : Bool := false        -- its remote writes have left
  held    : List Nat := []       -- devices where its writes are to be one step (R102)
  begun   : Bool := false        -- it has the way to them to itself
  decided : Option Nat := none   -- a collective's decision (R376)
  expired : Option Nat := none   -- clk in which its own deadline passed
  parts   : List (Nat × List Byte) := []   -- bytes received of other members, by rank
  deriving DecidableEq, Repr

/-! ## Contexts, queues, fabric, management -/

/-- An entry of a rights table (R343). -/
structure Right where
  start : Nat
  pages : Nat
  bits  : Nat
  deriving DecidableEq, Repr

/-- An installed context (R340). -/
structure Context where
  dbg      : Bool
  ides     : Nat
  handlerAddr : Quad             -- `sup.handler`
  handler  : Header              -- the handler object; its dictionary is copied with each placed gang (R340)
  harvest  : Quad
  vigil    : Quad
  pool     : Quad
  poolPages : Nat
  rightsAt : Quad
  rcount   : Nat
  rights   : List Right
  malformed : Bool
  time     : Nat := 0            -- context time (R32)
  progs    : List Quad := []     -- prog.count0 to prog.count3
  suspended : Bool := false
  deriving DecidableEq, Repr

/-- A hardware queue as enabled (R330). -/
structure Queue where
  state   : Nat := 0             -- 0 disabled, 1 idle, 2 active, 3 at a FENCE, 4 error
  ring    : Quad := 0
  size    : Nat := 0
  owner   : Option Nat := none   -- tag of its context, once its table entry has been read
  pmax    : Nat := 0
  irq     : Bool := false
  weight  : Nat := 0
  head    : Word := 0
  done    : Word := 0
  tail    : Word := 0
  err     : Nat := 0
  errIdx  : Word := 0
  errAddr : Quad := 0
  atEnable : Bool := false       -- the error was raised at enable (R337)
  deriving DecidableEq, Repr

/-- A flit sent and not yet acknowledged (R369). -/
structure SentFlit where
  seq     : Nat
  flit    : Flit
  resent  : Nat := 0
  deriving DecidableEq, Repr

/-- One port of the peer fabric (R367, R369). -/
structure Port where
  up      : Bool := false
  enable  : Bool := false
  peer    : BitVec 7 := 0
  errs    : Nat := 0
  nextSeq : Nat := 0
  lastIn  : Option Nat := none   -- the last SEQ accepted
  unacked : List SentFlit := []
  queued  : List Flit := []      -- sequenced flits still to be sent
  retrying : Bool := false       -- the flits since the last accepted one have been asked for again
  deriving DecidableEq, Repr

/-- On whose behalf a request is out. -/
inductive Requester where
  | fibre (w f key : Nat)
  | engine (op unit : Nat)
  | engineWrite (op key : Nat)
  | monitor (w f : Nat)
  | dependence (l k : Nat)
  | device (key : Nat)           -- the device itself: a unit to read, or 2 ^ 64 + an address written
  | flush (launch w f dev : Nat) -- for a fence or a completing launch: what it wrote at a peer is written back there (R118)
  | cancelled                    -- nobody any more; the answer, or the wake, may still come until the cancellation is answered
  | cancel (req : Nat)           -- the cancellation of that request's monitor
  | none
  deriving DecidableEq, Repr

/-- A peer at which writes of a fibre may stand in dirty lines that the host shares (R118, R119); wave 0 is the launch itself. -/
structure Far where
  launch : Nat
  wave   : Nat
  fibre  : Nat
  dev    : Nat
  asked  : Bool := false         -- the peer has been asked to write back, and nothing has been written since
  deriving DecidableEq, Repr

/-- A request to a peer that has not been answered (R370, R371). -/
structure Request where
  dev    : Nat
  tag    : Nat
  opc    : Nat
  size   : Nat
  who    : Requester
  flits  : List Flit             -- the request and its data, to be sent again after a NACK
  sentAt : Nat
  nacked : Option Nat := none    -- clk of the NACK
  status : Option (Nat × Nat) := none  -- status and attribute of a RSP whose DATA is still to come
  value  : List Byte := []
  units  : List (Nat × List Byte) := []
  deriving DecidableEq, Repr

/-- What a request asks: operation, size in bytes, sub-operation, operands and data. -/
structure Ask where
  opc  : Nat
  size : Nat
  addr : Nat
  sub  : Nat := 0
  imm  : List Byte := []
  data : List Byte := []
  noResp : Bool := false
  deriving DecidableEq, Repr

/-- A request or collective message that has arrived and whose data has not come whole (R369). -/
structure Inbound where
  port  : Nat
  flit  : Flit
  units : List (Nat × List Byte) := []
  deriving DecidableEq, Repr

/-- A member's issue of a collective as rank 0 has received it (R375), or a decision that a member has still to ask for. -/
structure CollIssue where
  handle : Nat
  rank   : Nat
  epoch  : Nat
  count  : Nat
  op     : Nat
  fmt    : Nat
  c      : Nat
  root   : Nat
  ready  : Bool := false         -- its reads are done
  owed   : Bool := false         -- cancelled before the member's issue arrived
  cancel : Option Nat := none    -- the status it reported
  gone   : Bool := false         -- its member has completed it already (R374)
  units  : List (Nat × List Byte) := []
  deriving DecidableEq, Repr

/-- The record kept for a handle (R375). -/
structure CollGroup where
  epoch : Nat := 0
  count : Nat := 0
  made  : Option (Nat × Nat) := none   -- as rank 0: EPOCH of the last decision, and the count after it
  deriving DecidableEq, Repr

/-- A record of the event log (R385). -/
structure LogRecord where
  seq    : Nat
  time   : Quad
  code   : Nat
  source : Nat := 0
  tag    : Option Nat := none
  addr   : Quad := 0
  extra  : List Byte := []
  deriving DecidableEq, Repr

/-- A message of the management bus of which packets have still to come (R383). -/
structure BusPart where
  eid  : Byte                    -- its sender
  tag  : Nat                     -- tag owner and message tag
  next : Nat                     -- sequence number of the next packet
  body : List Byte
  deriving DecidableEq, Repr

/-- Where a message of the management bus came from, and so where its answer goes (R383). -/
structure BusFrom where
  addr : Nat                     -- 7-bit SMBus address
  eid  : Byte
  tag  : Nat
  deriving DecidableEq, Repr

/-- A mailbox command that the MGC has still to carry out (R382). -/
structure Job where
  op   : Nat
  arg  : Quad
  data : List Byte := []         -- bytes for MB_DATA that came with it
  bus  : Option BusFrom := none  -- the endpoint that asked; none for the host
  at_  : Nat                     -- clk of its arrival
  deriving DecidableEq, Repr

/-- The slave clock of the time input (R379). -/
structure Ptp where
  rank   : Nat := 0              -- the grandmaster's attributes and its distance, most significant first
  master : List Byte := []       -- port identity of the master; none is followed while it is empty
  heard  : Nat := 0              -- clk of its last Announce
  sync   : Option (Nat × Quad × Int) := none   -- sequence number, reception and correction of a Sync without its Follow_Up
  origin : Option (Quad × Quad) := none        -- departure and reception of the last Sync
  request : Option (Nat × Quad) := none        -- sequence number and departure of the last Delay_Req
  nextSeq : Nat := 0
  deriving DecidableEq, Repr

/-- The management controller (R381 to R391). -/
structure Mgc where
  cmd      : Byte := 0
  arg      : Quad := 0
  result   : Byte := 0
  buf      : List Byte := []     -- MB_DATA; unlisted bytes are 0
  sample   : List Byte := []     -- the latest sample (R384)
  throttle : Nat := 0
  cap      : Nat := 1500
  log      : List LogRecord := []
  logSeq   : Nat := 0
  slotA    : List Byte
  slotB    : List Byte
  selected : Bool                -- slot chosen for the next module reset, true for B
  running  : Option Bool         -- slot the running image booted from; none when both failed
  committed : Option Bool := none -- slot FWCOMMIT last selected
  fuses    : Nat
  owner    : Option Nat := none  -- path that owns the update: 0 host, 1 management bus
  timecfg  : Option (List Byte) := none
  eid      : Byte := 0
  jobs     : List Job := []      -- in the order in which they are carried out
  parts    : List BusPart := []
  ptp      : Ptp := {}
  deriving DecidableEq, Repr

/-- An MSI-X vector (R361). -/
structure Vector where
  addr    : Quad := 0
  data    : Word := 0
  mask    : Bool := true
  pending : Bool := false
  cond    : Bool := false        -- the condition as last seen
  deriving DecidableEq, Repr

/-- An entry on its way to a ring in memory. -/
inductive Note where
  | vigil (tag w f : Nat) (body : List Byte)     -- R301
  | harvest (tag txu : Nat) (desc : Quad) (level tile : Nat)   -- R284
  | writing (parts : List (Nat × List Byte)) (instead : List (Nat × List Byte)) (who : Option (Nat × Nat)) (key : Option (Nat × Nat))
    -- the writes that either has come to, those made if they fail, the fibre that waits, the filter's key
  deriving DecidableEq, Repr

/-- What leaves the device. -/
inductive Message where
  | flit (port : Nat) (f : Flit)
  | msix (addr : Quad) (data : Word)
  | smbus (packet : List Byte)                   -- a block write on the management bus (R383)
  | lane (frame : List Byte)                     -- a frame on the time input's lane (R380)
  | hostAsk (n : Nat) (a : HostAsk)
  | hostWrite (line : Nat) (bytes : List Byte)   -- a modified line given back
  | atsDone (start bytes : Nat)                  -- an ATS invalidation is complete (R364)
  | readData (bytes : List Byte)                 -- the answer to a host read
  | unsupported                                  -- Unsupported Request (R360)
  | pgood (on : Bool)
  deriving DecidableEq, Repr

/-! ## The turn, the issue, the whole state -/

/-- The steps that fall due inside the device, each named as its row of the opcode table. -/
inductive Due where
  | scoutEnd (w f : Nat)
  | heldRecordPost (origin : Origin)
  | urgent (w f : Nat)
  | waitEnd (w f : Nat)
  | waitDeadline (w f : Nat)
  | idesPoint (w f : Nat)
  | monitorPoll (w f : Nat)
  | processionAdmit (w f : Nat)
  | lentHoldExpiry (w f : Nat)
  | engineUnitRead (op k : Nat)
  | copyCompletion (op : Nat)
  | matrixCompletion (op : Nat)
  | drainCompletion (op : Nat)
  | traceCompletion (op : Nat)
  | coverResult (w r : Nat)
  | sampleResult (w r : Nat)
  | fleResult (w r : Nat)
  | rmapinvComplete (w f : Nat)
  | mapCopyExpiry (core unit : Nat)
  | collectiveDecision (handle : Nat)
  | collectiveDeadline (op : Nat)
  | collectiveDecisionTimeout (op : Nat)
  | nopEntry (q : BitVec 10)
  | launch (q : BitVec 10)
  | fenceEntry (q : BitVec 10)
  | badentry (q : BitVec 10)
  | queueEnable (q : BitVec 10)
  | queueClearError (q : BitVec 10)
  | launchReady (l : Nat)
  | dependencePoll (l : Nat) (second : Bool)
  | priorityAging (l : Nat)
  | reserving (g : Candidate)
  | swapEligible (g : Nat)
  | gangPlacement (first : Nat)
  | stopComplete (g : Nat)
  | saveBankWrite (g : Nat) (b : Bank)
  | gangHaltComplete (g : Nat)
  | install (t : BitVec 6)
  | update (t : BitVec 6)
  | rightsinv (t : BitVec 6)
  | nackResend (req : Nat)
  | requestTimeout (req : Nat)
  | probeTimeout (d : BitVec 7)
  | locked
  | mailbox
  deriving DecidableEq, Repr

/-- Where an uncorrectable error arises (R392). -/
inductive ErrorAt where
  | dram (sector : Nat)          -- a physical sector, by first byte
  | l2 (key : Nat)               -- a dirty sector of L2
  | store (g unit : Nat)         -- a 16-byte unit of a gang's local memory
  | register (w r : Nat) (quad : Fin 8)   -- four lanes of an allocation register
  | acc (g unit : Nat)           -- four accumulator elements
  deriving DecidableEq, Repr

/-- Who moves next: time alone, a wave's holder, a step that has fallen due, or a step that the outside world brings. -/
inductive Turn where
  | elapse (clk : Nat)
  | issue (w : Nat)
  | due (d : Due)
  | event (i : Instr)
  | bitError (e : ErrorAt)       -- an uncorrectable error arises (R392)
  | corrected (source : Nat)     -- an error corrected in a cluster or slice (R385, R392)
  | correctedLog (source : Nat)  -- the errors corrected there since the last record are logged (R385)
  | writeBack (sector : Nat)     -- L2 writes a dirty sector back of its own accord (R118)
  deriving DecidableEq, Repr

/-- The instruction being issued: whose it is and where it stands (R22, R125, R126). -/
structure Issue where
  wave  : Nat
  fibre : Nat
  lanes : Lanes
  sup   : Bool
  pc    : Quad                   -- its address, the prefix included
  opc   : Quad                   -- its opcode parcel
  next  : Quad
  swp   : Bool
  hint  : Nat
  lit   : Word := 0              -- the literal after a dictionary parcel
  deriving DecidableEq, Repr

/-- The device. -/
structure State where
  -- the model's own (log 1, 2)
  agenda  : List Turn
  planned : Option Nat           -- clk whose turns the agenda holds
  issue   : Option Issue
  fresh   : Nat
  nextUid : Nat
  outbox  : List Message
  waiting : List Due             -- steps of the device that a peer or the host has still to answer
  deviceAnswers : List Answer    -- what they have answered to accesses of the device itself
  reading : List Nat             -- keys of the answers that the step of the device being made has read
  posting : List (Origin × Record)   -- records being written
  notes   : List Note            -- ring entries being written
  tablesDirty : List Nat         -- queues whose table entry is being written
  -- time
  clk     : Nat
  calends : Quad
  calFrac : Nat
  calSrc  : Nat
  calLocked : Bool
  calRate : Word
  calOffset : Quad
  calGood : Option Nat           -- clk from which every measured offset has been within the bound (R377)
  -- work
  launches : List (Nat × Launch)
  gangs   : List (Nat × Gang)
  waves   : List (Nat × Wave)
  ops     : List (Nat × Op)
  -- memory
  dram    : Memory
  cells   : List Nat             -- physical sectors, by first byte, that are cell-tagged (R117)
  poison  : List (Nat × Nat)     -- poisoned physical sectors, with the units marked (R394)
  latent  : List Nat             -- physical sectors with an error not yet found (R392)
  l2      : List (Nat × DirtySector)   -- by virtual sector index
  logical : Nat                  -- the latest logical time given to a write (R100)
  lines   : List (Nat × LineTime)      -- by line of this device's space
  l1      : List (Nat × L1Copy)        -- by virtual sector index, the oldest first
  tlb     : List TlbEntry
  atc     : List (Nat × Bool)    -- host pages translated, and whether writable (R364)
  hostLines : List (Nat × HostLine)
  hostAsks : List (Nat × HostAsk × Option HostAnswer)
  atsWaits : List (Nat × Nat)    -- ATS invalidations whose completion waits: first page, and bytes
  monitors : List (Nat × Monitor)
  maps    : List MapCopy         -- residency-map units that TXUs keep (R279)
  filters : List (Nat × List Nat)  -- Harvest filters by TXU (R284)
  -- queue manager
  qmEnable : Bool
  haltAll : Bool
  qtBase  : Quad
  qcmd    : Word
  qmIntStat : BitVec 2
  qmIntEn : BitVec 2
  queues  : List (Nat × Queue)
  turnQueue : Nat
  turnUsed : Nat
  making  : Option (Candidate × Nat)   -- the candidate for which gangs are stopping, and the cluster where it goes (R336)
  -- contexts and translation
  cxBase  : Quad
  cxTag   : BitVec 6
  cxOp    : BitVec 4
  cxResult : Byte
  cxArg0  : Quad
  cxArg1  : Quad
  trOp    : BitVec 4
  trWb    : Bool
  trDiscard : Bool
  trResult : Byte
  trArg0  : Quad
  trArg1  : Quad
  ptFrame : Word
  ptLen   : Nat
  migFrame : Word
  migCount : Nat
  contexts : List (Nat × Context)
  -- fault buffer
  fbBase  : Quad
  fbSize  : Nat
  fbEnable : Bool
  fbWr    : Word
  fbRd    : Word
  fbOvf   : Word
  fbStop  : Bool                 -- BUFERR has stopped posting (R339)
  fxIntStat : BitVec 4
  fxIntEn : BitVec 4
  held    : List (Origin × Record)
  tokens  : List Nat             -- live tokens
  nextToken : Nat
  -- host link
  linkUp  : Bool
  phyBase : Word
  vectors : List Vector
  -- fabric
  devId   : BitVec 7
  fabEnable : Bool
  safe    : Bool
  domain  : BitVec 16
  ports   : List Port
  routes  : List (Nat × BitVec 16)
  reach   : List Nat             -- devices whose reach bit is 1
  safeCount : Quad
  credits : List (Nat × Nat × Nat × Nat)   -- port, device, request credits, data credits
  requests : List (Nat × Request)
  unsent  : List (Nat × Nat × Ask)   -- cancellations that wait for a credit: device, request, what is asked (R371)
  far     : List Far             -- peers whose lines wait for a fence or for the end of a launch (R118)
  barred  : List Nat             -- devices for which something waits until an operation's writes there are made (R102)
  keptBack : List Flit           -- responses of monitors that wait for the same
  inbound : List Inbound
  probes  : List (Nat × Nat)     -- devices being probed, and since when
  colBase : Quad
  colCount : Nat
  collGroups : List (Nat × CollGroup)
  collIssues : List CollIssue
  -- management
  mgc     : Mgc
  correctedErrors : List (Nat × Nat × Nat)   -- source, errors not yet logged, clk after the last record or 0 (R385)
  pwren   : Bool
  pgood   : Bool
  mrstN   : Bool
  power   : Bool                 -- the die is powered
  live    : Bool                 -- the die is out of reset
  deriving DecidableEq, Repr

/-! ## Stopping -/

/-- Why the model stops. -/
inductive Fault where
  /-- Raised by a word instruction that is performed in a state whose issue names no live fibre of a placed gang. Safe:
  no hardware state is like that, since only an issue performs a word. -/
  | noIssuer
  deriving DecidableEq, Repr

/-- Why the model refuses. -/
inductive Refusal where
  /-- Raised by an arm of `exec` that has no meaning yet. Safe. -/
  | notModelled (mnemonic : String)
  deriving DecidableEq, Repr

/-- The management controller right after a module reset with an image running (R366, R387, R389). -/
def Mgc.reset : Mgc where
  slotA := Config.flashA
  slotB := Config.flashB
  selected := Config.flashSelected
  running := some Config.flashSelected
  fuses := Config.fuses.val

/-- The machine right after a module reset (R366 and the Reset columns of R329, R339, R362, R367, R374, R377, R381). -/
def State.reset : State where
  agenda := []
  planned := none
  issue := none
  fresh := 0
  nextUid := 1
  outbox := []
  waiting := []
  deviceAnswers := []
  reading := []
  posting := []
  notes := []
  tablesDirty := []
  clk := 0
  calends := 0
  calFrac := 0
  calSrc := 0
  calLocked := false
  calRate := 0
  calOffset := 0
  calGood := none
  launches := []
  gangs := []
  waves := []
  ops := []
  dram := []
  cells := []
  poison := []
  latent := []
  l2 := []
  logical := 0
  lines := []
  l1 := []
  tlb := []
  atc := []
  hostLines := []
  hostAsks := []
  atsWaits := []
  monitors := []
  maps := []
  filters := []
  qmEnable := false
  haltAll := false
  qtBase := 0
  qcmd := 0
  qmIntStat := 0
  qmIntEn := 0
  queues := []
  turnQueue := 0
  turnUsed := 0
  making := none
  cxBase := 0
  cxTag := 0
  cxOp := 0
  cxResult := 0
  cxArg0 := 0
  cxArg1 := 0
  trOp := 0
  trWb := false
  trDiscard := false
  trResult := 0
  trArg0 := 0
  trArg1 := 0
  ptFrame := 0
  ptLen := 0
  migFrame := 0
  migCount := 0
  contexts := []
  fbBase := 0
  fbSize := 0
  fbEnable := false
  fbWr := 0
  fbRd := 0
  fbOvf := 0
  fbStop := false
  fxIntStat := 0
  fxIntEn := 0
  held := []
  tokens := []
  nextToken := 1
  linkUp := true
  phyBase := 0
  vectors := [{}, {}]
  devId := 0
  fabEnable := false
  safe := false
  domain := 0
  ports := List.replicate 16 {}
  routes := []
  reach := []
  safeCount := 0
  credits := []
  requests := []
  unsent := []
  far := []
  barred := []
  keptBack := []
  inbound := []
  probes := []
  colBase := 0
  colCount := 0
  collGroups := []
  collIssues := []
  mgc := Mgc.reset
  correctedErrors := []
  pwren := true
  pgood := true
  mrstN := true
  power := true
  live := true

end Sys2Proof.Machine
end

