-- ==== Sys2Proof/Machine/Ram.lean ====
section
/-! DEFINITION. Bytes by address in their canonical form, the event log, and the passing of time. -/

namespace Sys2Proof.Machine

/-! ## Bytes by address -/

/-- The byte at an address; an address that is not listed reads as zero, as module reset leaves it (R366, R50). -/
def Memory.read : Memory → Nat → Byte
  | [], _ => 0
  | (k, b) :: t, a => if k = a then b else if a < k then 0 else Memory.read t a
/-- Memory with one byte written; the form stays canonical. -/
def Memory.write : Memory → Nat → Byte → Memory
  | [], a, b => if b = 0 then [] else [(a, b)]
  | (k, c) :: t, a, b =>
    if a < k then (if b = 0 then (k, c) :: t else (a, b) :: (k, c) :: t)
    else if a = k then (if b = 0 then t else (k, b) :: t)
    else (k, c) :: Memory.write t a b
/-- `n` bytes from an address on. -/
def Memory.readN (m : Memory) (a n : Nat) : List Byte := (List.range n).map fun i => m.read (a + i)
/-- Bytes written from an address on. -/
def Memory.writeN (m : Memory) (a : Nat) : List Byte → Memory
  | [] => m
  | b :: bs => Memory.writeN (m.write a b) (a + 1) bs
/-- The canonical form: addresses strictly rising, no entry equal to what an unlisted address reads as. -/
def Memory.wfFrom : Nat → Memory → Bool
  | _, [] => true
  | lo, (k, b) :: t => decide (lo ≤ k) && b != 0 && Memory.wfFrom (k + 1) t
def Memory.wf (m : Memory) : Bool := Memory.wfFrom 0 m

/-! ## Log and outbox -/

/-- A record entered in the event log, which keeps the latest 4,096 (R385). -/
def State.log (s : State) (code : Nat) (source : Nat := 0) (tag : Option Nat := none) (addr : Quad := 0)
    (extra : List Byte := []) : State :=
  let r : LogRecord := { seq := s.mgc.logSeq, time := s.calends, code, source, tag, addr, extra }
  let all := s.mgc.log ++ [r]
  { s with mgc := { s.mgc with log := all.drop (all.length - 4096), logSeq := s.mgc.logSeq + 1 } }
/-- A message that leaves the device. -/
def State.send (s : State) (m : Message) : State := { s with outbox := s.outbox ++ [m] }
/-- A number that nothing in the device has yet. -/
def State.takeUid (s : State) : State × Nat := ({ s with nextUid := s.nextUid + 1 }, s.nextUid)
/-- The next free value, and the state that has used it up (log 2). -/
def State.takeFree (s : State) : State × Quad := ({ s with fresh := s.fresh + 1 }, Config.free s.fresh)

/-! ## Time -/

/-- Whether a context's time runs: a gang of it is placed, or swapped out by its own wait (R32). -/
def contextRuns (s : State) (t : Nat) : Bool :=
  s.gangs.any fun p => p.2.tag == t &&
    (p.2.state != .saved || (p.2.waitSwapped && s.waves.any fun w => w.2.gang == p.1 && w.2.fibres.any (·.wait.isSome)))

/-- Nanoseconds that pass in `n` clk: a clk of 1.05 GHz is 20/21 ns, corrected by `CAL_RATE` (R2, R377). The rest is
kept in `calFrac`, in units of 1 / (21 · 10^9) ns. -/
def ticksOf (s : State) (n : Nat) : Nat × Nat :=
  let rate : Int := clampInt (-200000) 200000 s.calRate.toInt
  let whole := s.calFrac + n * 20 * (1000000000 + rate).toNat
  (whole / 21000000000, whole % 21000000000)

/-- `n` clk pass: the Calends and the running contexts' times advance (R2, R32, R377). -/
def State.elapse (s : State) (n : Nat) : State :=
  if s.live then
    let t := ticksOf s n
    { s with
      clk := s.clk + n
      calends := s.calends + BitVec.ofNat 64 t.1
      calFrac := t.2
      contexts := s.contexts.map fun c =>
        (c.1, if contextRuns s c.1 then { c.2 with time := (c.2.time + t.1) % 2 ^ 63 } else c.2) }
  else { s with clk := s.clk + n }

/-- Context time of a context, 0 when it is not installed. -/
def contextTime (s : State) (t : Nat) : Nat := ((get? s.contexts t).map (·.time)).getD 0

/-- A deadline operand as R31 reads it. -/
def readDeadline (d : Quad) : Deadline :=
  let t := bitsOf d.toNat 62 0
  if t = 0 then .poll
  else if bitOf d.toNat 63 then .context t
  else if t = 2 ^ 63 - 1 then .never
  else .wall t

/-- Whether a deadline is reached: its clock's value is at or beyond it (R31). -/
def reached (s : State) (t : Nat) : Deadline → Bool
  | .poll => true
  | .never => false
  | .wall d => decide (d ≤ s.calends.toNat)
  | .context d => decide (d ≤ contextTime s t)

end Sys2Proof.Machine
end

