-- ==== Sys2Proof/Machine/Access.lean ====
section
/-! DEFINITION. Global memory as a device reaches it: whose an address is (R96), rights (R343), page walk and TLB (R344 to
R346), migration (R348), the dirty sectors of L2 with cell tags and poison (R117, R394), monitors (R113), and the
conditions of R186 in their order. -/

namespace Sys2Proof.Machine

/-! ## Places -/

/-- Whose an address is (R96). -/
inductive Place where
  | own (o : Nat)
  | peer (d o : Nat)
  | host (o : Nat)
  | bad
  deriving DecidableEq, Repr

/-- The reading of a global address by R96. -/
def placeOf (s : State) (a : Nat) : Place :=
  let d := bitsOf a 63 57
  let o := a % 2 ^ 56
  if bitOf a 56 then (if d = 127 then .host o else .bad)
  else if d = s.devId.toNat then .own o else .peer d o

/-- The outcome of the checks of R186. -/
inductive Acc where
  | ok
  /-- Rows 2 to 6; for row 5 the level that failed and whether the page was present but not writable. -/
  | fail (row level : Nat) (readOnly : Bool)
  /-- The host has still to answer. -/
  | host (a : HostAsk)
  /-- The owner is another device. -/
  | peer (d : Nat)
  deriving DecidableEq, Repr

/-! ## Rights -/

/-- Rights bits (R343). -/
def rightRead : Nat := 1
def rightWrite : Nat := 2
def rightAtomic : Nat := 4

/-- The entry of a rights table that holds an address (R343). -/
def findRight (rs : List Right) (a : Nat) : Option Right :=
  rs.find? fun r => decide (r.start ≤ a ∧ a < r.start + 49152 * r.pages)
/-- Whether a context has a right at an address; a malformed table denies every access (R343). -/
def hasRight (s : State) (tag a need : Nat) : Bool :=
  match get? s.contexts tag with
  | none => false
  | some c => !c.malformed &&
    match findRight c.rights a with
    | none => false
    | some r => r.bits &&& need != 0

/-! ## Physical memory and the page walk -/

/-- Where LPDDR-6 begins among the model's physical bytes: above every GDDR-7 byte. -/
def lpBase : Nat := 2 ^ 47
/-- Frames of a tier (R344): 96 GiB of GDDR-7, and the whole frames of 2,048 GB of LPDDR-6 (R1, R2), which `PT_LPFRAMES`
gives (R339, log 7). -/
def tierFrames (lp : Bool) : Nat := if lp then 2048 * 10 ^ 9 / 49152 else 2097152
/-- Whether `n` frames from frame number `f` on lie in its tier (R344). -/
def framesOk (f n : Nat) : Bool := decide (bitsOf f 30 0 + n ≤ tierFrames (bitOf f 31))
/-- The first physical byte of a frame (R344). -/
def frameBase (f : Nat) : Nat := (if bitOf f 31 then lpBase else 0) + 49152 * bitsOf f 30 0
/-- The physical sector of a byte, by its first byte. Tiers begin on sector boundaries of their own. -/
def sectorBase (pa : Nat) : Nat := if pa < lpBase then pa / 48 * 48 else lpBase + (pa - lpBase) / 48 * 48

/-- What a walk finds. -/
inductive Walk where
  | page (e : TlbEntry)
  | absent (level : Nat)
  | refused               -- a malformed or NR entry: cause access, not replayable
  | poisoned (pa : Nat)   -- an entry at this physical byte that cannot be read (R346)
  deriving DecidableEq, Repr

/-- The leaf of a walk at one level: page of `size` bytes from `FRAME` on, checked by R345. Pages are counted from the offset
in the device's space, as R345 has it, and sectors from virtual address 0, as R5 has it: for a device whose number is no
multiple of 3 a sector can lie in two pages (DESIGN CHOICE, log 22). -/
def leafOf (s : State) (e level o : Nat) : Walk :=
  let frame := bitsOf e 47 16
  let frames := 64 ^ level
  let size := 49152 * frames
  if bitsOf e 15 13 != 0 || bitsOf e 63 60 != 0 || frame % frames != 0
      || (bitOf e 5 && level != 0) || decide (95 < bitsOf e 12 6) || !(framesOk frame frames)
      || (bitOf e 5 && decide (s.migCount ≤ bitsOf e 59 48)) then .refused
  else .page { va := o / size * size, size := size, pa := frameBase frame, write := bitOf e 2, sys := bitOf e 3,
               nr := bitOf e 4, mig := if bitOf e 5 then some (bitsOf e 59 48) else none }

/-- Whether the physical sector that holds a byte is poisoned, or will be when it is read (R392). -/
def unreadable (s : State) (pa : Nat) : Bool := (get? s.poison (sectorBase pa)).isSome || s.latent.contains (sectorBase pa)
/-- The eight bytes of a page-table entry, none when the sector that holds it is poisoned (R346). -/
def readPte (s : State) (pa : Nat) : Option Nat := if unreadable s pa then none else some (ofBytes (s.dram.readN pa 8))

/-- One level of the walk of R345: the entry at a physical byte, and what follows when it points to a table. -/
def walkEntry (s : State) (pa level o : Nat) (down : Nat → Walk) : Walk :=
  match readPte s pa with
  | none => .poisoned pa
  | some e =>
    if !(bitOf e 0) then (if bitOf e 4 then .refused else .absent level)
    else if bitOf e 1 then leafOf s e level o
    else if level = 0 || bitsOf e 15 13 != 0 || bitsOf e 63 60 != 0 || bitOf e 5 || decide (95 < bitsOf e 12 6)
      || !(framesOk (bitsOf e 47 16) 1) then .refused
    else down (frameBase (bitsOf e 47 16) + 512 * bitsOf e 12 6)

/-- The walk of R345 over offset `o` of this device's space. -/
def walk (s : State) (o : Nat) : Walk :=
  let i2 := o / 2 ^ 26 / 3
  if s.ptLen ≤ i2 then .absent 2
  else walkEntry s (frameBase s.ptFrame.toNat + 8 * i2) 2 o fun t1 =>
    walkEntry s (t1 + 8 * (o / 2 ^ 20 / 3 % 64)) 1 o fun t0 =>
      walkEntry s (t0 + 8 * (o / 2 ^ 14 / 3 % 64)) 0 o fun _ => .refused

/-- The kept entry that translates an offset (R346). The spec gives neither the number of memory controllers nor which of them
serves an address: the model keeps one TLB for the device (DESIGN CHOICE, log 23). -/
def tlbFind (s : State) (o : Nat) : Option TlbEntry :=
  s.tlb.find? fun e => decide (e.va ≤ o ∧ o < e.va + e.size)
/-- A translation: a kept entry, or a walk whose page is then kept (R346). -/
def translate (s : State) (o : Nat) : State × Walk :=
  match tlbFind s o with
  | some e => (s, .page e)
  | none =>
    match walk s o with
    | .page e => ({ s with tlb := s.tlb ++ [e] }, .page e)
    | w => (s, w)

/-- The lines of a migrating page that have been pulled, bit l for line l (R348). -/
def migEntry (s : State) (j : Nat) : Nat := frameBase s.migFrame.toNat + 64 * j
/-- The byte of a migration entry that holds the VALID bit of a line. -/
def migValid (s : State) (j l : Nat) : Nat := migEntry s j + 32 + l / 8
/-- The byte of a page's migration entry at which an access to a line meets an error: its VALID bit cannot be read, or its OLDFRAME
while the line has still to be pulled. The spec does not say what such an access does: it meets row 6, as at a page-table entry
(R346, R348, R392, DESIGN CHOICE, log 62). -/
def migBad (s : State) (e : TlbEntry) (l : Nat) : Option Nat :=
  match e.mig with
  | none => none
  | some j =>
    if unreadable s (migValid s j l) then some (migValid s j l)
    else if !((s.dram.read (migValid s j l)).getLsbD (l % 8)) && unreadable s (migEntry s j) then some (migEntry s j)
    else none
/-- Whether a physical sector begins in the line at a byte. -/
def inLine (line p : Nat) : Bool := decide (line ≤ p ∧ p < line + 192)
/-- One line of a migrating page copied from its old frame, unless it has been (R348); poison comes with it. -/
def pullLine (s : State) (e : TlbEntry) (l : Nat) : State :=
  match e.mig with
  | none => s
  | some j =>
    let m := migEntry s j
    let old := frameBase (ofBytes (s.dram.readN m 4)) + 192 * l
    let new := e.pa + 192 * l
    let valid := s.dram.read (migValid s j l)
    if valid.getLsbD (l % 8) then s
    else
      { s with
        dram := (s.dram.writeN new (s.dram.readN old 192)).write (migValid s j l) (valid ||| (1#8 <<< (l % 8)))
        poison := (s.poison.filter fun p => !(inLine new p.1))
          ++ (s.poison.filter fun p => inLine old p.1).map fun p => (p.1 - old + new, p.2)
        cells := (s.cells.filter fun p => !(inLine new p)) ++ (s.cells.filter (inLine old)).map fun p => p - old + new
        latent := s.latent ++ (s.latent.filter (inLine old)).map fun p => p - old + new }

/-- The physical byte that an offset of a page reaches. -/
def TlbEntry.phys (e : TlbEntry) (o : Nat) : Nat := e.pa + (o - e.va)

/-! ## Sectors -/

/-- Sector boundaries are counted from virtual address 0 (R5): what an offset of this device's space adds to them. -/
def sectorShift (s : State) : Nat := s.devId.toNat * 2 ^ 57 % 48
/-- The sector of an offset, numbered within the space, the place of the offset in it, and the offset at which it begins. -/
def secKey (s : State) (o : Nat) : Nat := (o + sectorShift s) / 48
def secOff (s : State) (o : Nat) : Nat := (o + sectorShift s) % 48
def secStart (s : State) (k : Nat) : Nat := 48 * k - sectorShift s
/-- The offsets of the 16-byte units of a sector that lie in the space, with their places. -/
def secUnits (s : State) (k : Nat) : List (Nat × Nat) :=
  [0, 1, 2].filterMap fun u => if sectorShift s ≤ 48 * k + 16 * u then some (16 * u, 48 * k + 16 * u - sectorShift s) else none
/-- The lines in which the units of a sector lie pulled from their old frames (R348), as far as their pages can be found; the
physical byte of a migration entry that cannot be read. -/
def pullSector (s : State) (k : Nat) : State × Option Nat :=
  (secUnits s k).foldl (fun r u =>
    match r.2 with
    | some _ => r
    | none =>
      let t := translate r.1 u.2
      match t.2 with
      | .page e =>
        let l := (u.2 - e.va) / 192
        match migBad t.1 e l with
        | some p => (t.1, some p)
        | none => (pullLine t.1 e l, none)
      | _ => (t.1, none)) (s, none)
/-- The physical byte of an offset, where its page can be found. -/
def physOf (s : State) (o : Nat) : Option Nat :=
  match (translate s o).2 with
  | .page e => some (e.phys o)
  | _ => none
/-- The physical byte of a sector's first unit, under which its tag and its poison are kept. -/
def tagKey (s : State) (k : Nat) : Option Nat := ((secUnits s k).head?).bind fun u => physOf s u.2
/-- The sector's image beneath L2. -/
def dramSector (s : State) (e : TlbEntry) (k : Nat) : DirtySector :=
  let bytes := (secUnits s k).foldl (fun bs u =>
    match physOf s u.2 with
    | some p => overlay bs u.1 (s.dram.readN p 16)
    | none => bs) (List.replicate 48 0)
  { bytes, cell := (tagKey s k).any s.cells.contains, poison := (tagKey s k).bind (get? s.poison), sys := e.sys, writers := [] }
/-- The sector at an offset as the device sees it: the dirty one in L2, or the image beneath. -/
def sectorAt (s : State) (o : Nat) : DirtySector :=
  match get? s.l2 (secKey s o) with
  | some d => d
  | none =>
    match tlbFind s o with
    | some e => dramSector s e (secKey s o)
    | none => { bytes := List.replicate 48 0, cell := false, poison := none, sys := false, writers := [] }

/-- Bytes of this device's memory as a device access reads them: a tagged sector reads as zeros (R117). -/
def readOwn (s : State) (o n : Nat) : List Byte :=
  let d := sectorAt s o
  if d.cell then List.replicate n 0 else padTo n (d.bytes.drop (secOff s o))

/-- An error that an access finds in a sector of physical memory makes it poisoned (R392, R394). -/
def foundAt (s : State) (p : Nat) : State :=
  if s.latent.contains p then { s with latent := s.latent.filter (· != p), poison := put s.poison p 0 } else s
/-- An error that an access finds in the sector of an offset, dirty in L2 or beneath it; a dirty sector has no clean copy
from which it could be fetched again (R392). -/
def findError (s : State) (o : Nat) : State :=
  match get? s.l2 (secKey s o), tagKey s (secKey s o) with
  | some d, _ => if d.latent then { s with l2 := put s.l2 (secKey s o) { d with latent := false, poison := some (d.poison.getD 0) } } else s
  | none, some p => foundAt s p
  | none, none => s
/-- The slice at which an address of this device or the host window lives (R4). -/
def sliceOf (a : Nat) : Nat := a % 2 ^ 56 / 192 % 128
/-- An access that meets poison is logged: its slice, its context, its address (R385, R393). -/
def logPoison (s : State) (tag : Option Nat) (a : Nat) : State := s.log 4 (sliceOf a) tag (BitVec.ofNat 64 a)

/-- The units of a poisoned sector that a write marks; with all three marked the poison is cleared (R394). -/
def markUnits (poison : Option Nat) (off len : Nat) : Option Nat :=
  poison.bind fun m =>
    let m' := (List.range 3).foldl (fun m u => if off ≤ 16 * u ∧ 16 * u + 16 ≤ off + len then m ||| 2 ^ u else m) m
    if m' = 7 then none else some m'

/-! ## Monitors -/

/-- The comparisons of R208. -/
def monTrue (cond : BitVec 3) (w v : Nat) : Bool :=
  match cond.toNat with
  | 0 => w == v
  | 1 => w != v
  | 2 => decide (w < v)
  | 3 => decide (w ≤ v)
  | 4 => decide (v < w)
  | 5 => decide (v ≤ w)
  | 6 => w &&& v != 0
  | _ => w &&& v == 0

/-- Bytes of a host line that the device holds. -/
def readHost (s : State) (o n : Nat) : List Byte :=
  match get? s.hostLines (o / 192) with
  | some l => padTo n (l.bytes.drop (o % 192))
  | none => List.replicate n 0
/-- Bytes at a global address of this device or the host window, once the access has passed its checks. -/
def readGlobal (s : State) (a n : Nat) : List Byte :=
  match placeOf s a with
  | .own o => readOwn s o n
  | .host o => readHost s o n
  | _ => List.replicate n 0

/-- Whether the sector of an address of this device is poisoned (R394). -/
def poisonedAt (s : State) (a : Nat) : Bool :=
  match placeOf s a with
  | .own o => (sectorAt s o).poison.isSome
  | _ => false
/-- ARMED monitors whose word a write has touched read it: they wake when it makes the comparison true (R113), and their
read meets the poison of its sector (R394). A read that leaves it false is not taken for the last read whose value TIMEOUT and ESCALATE
return (R112): that is the one of the instruction, or of a POLLING wait's latest poll (DESIGN CHOICE, log 68). -/
def wakeMonitors (s : State) (a len : Nat) : State :=
  { s with monitors := s.monitors.map fun p =>
      let m := p.2
      let n := if m.wide then 8 else 4
      if m.woken.isNone && decide (a < m.addr.toNat + n) && decide (m.addr.toNat < a + len) then
        let w := ofBytes (readGlobal s m.addr.toNat n)
        if poisonedAt s m.addr.toNat then (p.1, { m with woken := some 0, bad := true })
        else if monTrue m.cond w m.operand.toNat then (p.1, { m with woken := some (BitVec.ofNat 64 w) }) else p
      else p }

/-! ## Logical times (R100) -/

/-- The address of an offset of this device's space. -/
def ownAddr (s : State) (o : Nat) : Nat := s.devId.toNat * 2 ^ 57 + o
/-- The times of an offset's line. -/
def lineTime (s : State) (o : Nat) : LineTime := (get? s.lines (ownAddr s o / 192)).getD {}
/-- A write takes a logical time later than every write before it and than every lease that it supersedes. -/
def stampLine (s : State) (o : Nat) : State :=
  let t := max s.logical (lineTime s o).lease + 1
  { s with logical := t, lines := put s.lines (ownAddr s o / 192) { wrote := t, lease := t } }
/-- The home slice grants a reader a lease on a line, from the reader's time or the line's last write on. -/
def grantLease (s : State) (o now : Nat) : State × LineTime :=
  let x := lineTime s o
  let y : LineTime := { x with lease := max x.lease (max now x.wrote + Config.leaseLength) }
  ({ s with lines := put s.lines (ownAddr s o / 192) y }, y)

/-! ## Writes -/

/-- One writer added to those whose writes a line holds. -/
def addWriter (ws : List (Nat × Nat × Nat)) (w : Nat × Nat × Nat) : List (Nat × Nat × Nat) :=
  if ws.contains w then ws else ws ++ [w]

/-- A write that is no contribution, within one sector of this device's memory: a tagged sector is first set to zero and
loses its tag (R117), poison is marked (R394), monitors see the write (R113). -/
def writeOwn (s : State) (o : Nat) (bs : List Byte) (who : Nat × Nat × Nat) : State :=
  let d := sectorAt s o
  let base := if d.cell then List.replicate 48 0 else padTo 48 d.bytes
  let d' : DirtySector := { d with
    bytes := overlay base (secOff s o) bs, cell := false, poison := markUnits d.poison (secOff s o) bs.length,
    writers := addWriter d.writers who }
  wakeMonitors { stampLine s o with l2 := put s.l2 (secKey s o) d' } (ownAddr s o) bs.length

/-- A cell's sector with its image replaced by a contribution (R116, R117). -/
def writeCell (s : State) (o : Nat) (img : List Byte) (who : Nat × Nat × Nat) : State :=
  let d := sectorAt s o
  wakeMonitors { stampLine s o with l2 := put s.l2 (secKey s o) { d with bytes := img, cell := true, writers := addWriter d.writers who } }
    (ownAddr s (secStart s (secKey s o))) 48

/-- A write to a host line that the device holds (R365). -/
def writeHost (s : State) (o : Nat) (bs : List Byte) (who : Nat × Nat × Nat) : State :=
  wakeMonitors { s with hostLines := upd s.hostLines (o / 192) fun l =>
      { l with bytes := overlay l.bytes (o % 192) bs, modified := true, writers := addWriter l.writers who } }
    (0xFF00000000000000 + o) bs.length

/-- A write at a global address of this device or the host window, once the access has passed its checks. -/
def writeGlobal (s : State) (a : Nat) (bs : List Byte) (who : Nat × Nat × Nat) : State :=
  match placeOf s a with
  | .own o => writeOwn s o bs who
  | .host o => writeHost s o bs who
  | _ => s

/-! ## The checks of R186 -/

/-- How a page refuses writes: its row, its level, and whether it is present but not writable (R345). -/
def TlbEntry.refuses (e : TlbEntry) : Option (Nat × Nat × Bool) :=
  if e.write then none else if e.nr then some (2, 0, false) else some (5, Nat.log2 (e.size / 49152) / 6, true)
/-- Rows 5 and 6 at this device for an access within one sector. -/
def checkOwn (s : State) (o : Nat) (reads writes : Bool) : State × Acc :=
  let t := translate s o
  match t.2 with
  | .absent l => (t.1, .fail 5 l false)
  | .refused => (t.1, .fail 2 0 false)
  | .poisoned pa => (foundAt t.1 (sectorBase pa), .fail 6 0 false)
  | .page e =>
    match if writes then e.refuses else none with
    | some (row, level, ro) => (t.1, .fail row level ro)
    | none =>
      let y := pullSector t.1 (secKey s o)
      match y.2 with
      | some pa => (foundAt y.1 (sectorBase pa), .fail 6 0 false)
      | none =>
        let s1 := findError y.1 o
        if reads && (sectorAt s1 o).poison.isSome then (s1, .fail 6 0 false) else (s1, .ok)

/-- The answer of the host to a question, when it has come. -/
def hostAnswer (s : State) (a : HostAsk) : Option HostAnswer :=
  match s.hostAsks.find? fun p => p.2.1 = a && p.2.2.isSome with
  | some p => p.2.2
  | none => none

/-- Rows 4 to 6 for the host window: a translation (R364), then the line held exclusive (R365). A host page is 4 KiB. -/
def checkHost (s : State) (o : Nat) (writes : Bool) : Acc :=
  if !s.linkUp then .fail 4 0 false
  else match get? s.atc (o / 4096) with
    | some w =>
      if writes && !w then .fail 5 0 true
      else if (get? s.hostLines (o / 192)).isSome then .ok
      else match hostAnswer s (.line (o / 192)) with
        | some _ => .fail 2 0 false
        | none => .host (.line (o / 192))
    | none =>
      match hostAnswer s (.translate (o / 4096) writes) with
      | some .absent => .fail 5 0 false
      | some _ => .fail 2 0 false
      | none => .host (.translate (o / 4096) writes)

/-- A port, the empty one beyond the last. -/
def portOf (s : State) (p : Nat) : Port := s.ports.getD p {}
/-- The ports of a device's route that are UP, in rising order (R368). -/
def upPorts (s : State) (d : Nat) : List Nat :=
  let r := (get? s.routes d).getD 0
  (List.range 16).filter fun p => r.getLsbD p && (portOf s p).up
/-- Whether a device can be reached: its reach bit is 1 and a port of its route is UP (R120, R372). -/
def reachable (s : State) (d : Nat) : Bool := s.fabEnable && s.reach.contains d && upPorts s d != []

/-- The checks of R186, rows 2 to 6, for an access of a context (`tag` none: the device itself, whose rights are not
checked, R343). `hostOk` says that the entry accepts the host window. -/
def check (s : State) (tag : Option Nat) (a need : Nat) (reads writes hostOk : Bool) : State × Acc :=
  match placeOf s a with
  | .bad => (s, .fail 2 0 false)
  | p =>
    if (match p with | .host _ => !hostOk | _ => false) then (s, .fail 2 0 false)
    else if (match tag with | some t => !(hasRight s t a need) | none => false) then (s, .fail 3 3 false)
    else match p with
      | .own o => checkOwn s o reads writes
      | .host o => (s, checkHost s o writes)
      | .peer d _ => (s, if reachable s d then .peer d else .fail 4 0 false)
      | .bad => (s, .fail 2 0 false)

/-- The row that a peer's status stands for (R186). A malformed or NR entry at the owner, which is row 2, answers FAULT with
walk level 3, which no walk has (DESIGN CHOICE, log 24). -/
def statusRow (st attr : Nat) : Nat := if st = 13 then 3 else if st = 12 then 4 else if st = 15 then 6 else if attr % 4 = 3 then 2 else 5
/-- The status that a failing row gives where no fibre faults (R186). -/
def rowStatus : Nat → Nat
  | 3 => 13
  | 4 => 12
  | 6 => 15
  | _ => 14

/-! ## Write-back -/

/-- What keeps a line from being written back: an address in it, and the row that it meets there. -/
structure Unwritten where
  addr     : Nat
  row      : Nat
  level    : Nat := 0
  readOnly : Bool := false
  deriving DecidableEq, Repr

/-- What keeps a unit of this device's space from being written back: its page is absent, not writable, malformed, or cannot be
looked up (R345, R346). -/
def unitRefuses (s : State) (o : Nat) : State × Option Unwritten :=
  let t := translate s o
  (t.1, match t.2 with
    | .page e => e.refuses.map fun x => { addr := ownAddr s o, row := x.1, level := x.2.1, readOnly := x.2.2 }
    | .absent l => some { addr := ownAddr s o, row := 5, level := l }
    | .refused => some { addr := ownAddr s o, row := 2 }
    | .poisoned _ => some { addr := ownAddr s o, row := 6 })
/-- What keeps a sector from being written back, its lines pulled where nothing does (R348). -/
def sectorRefuses (s : State) (k : Nat) : State × Option Unwritten :=
  let r := (secUnits s k).foldl (fun r u => match r.2 with | some _ => r | none => unitRefuses r.1 u.2) (s, none)
  match r.2 with
  | some x => (r.1, some x)
  | none =>
    let y := pullSector r.1 k
    match y.2 with
    | some pa => (foundAt y.1 (sectorBase pa), some { addr := ownAddr s (secStart s k), row := 6 })
    | none => (y.1, none)
/-- A dirty sector written back through the entry now in force, or what keeps it from that; it then stays dirty (R347, R354). -/
def writeBack (s : State) (k : Nat) : State × Option Unwritten :=
  match get? s.l2 k with
  | none => (s, none)
  | some d0 =>
    -- the ECC check on the way out finds an error
    let d := if d0.latent then { d0 with poison := some (d0.poison.getD 0) } else d0
    let r := sectorRefuses s k
    match r.2 with
    | some x => (r.1, some x)
    | none =>
      let s1 := r.1
      let dram := (secUnits s k).foldl (fun m u =>
        match physOf s1 u.2 with | some p => m.writeN p ((d.bytes.drop u.1).take 16) | none => m) s1.dram
      match tagKey s1 k with
      | none => ({ s1 with dram, l2 := del s1.l2 k }, none)
      | some p =>
        ({ s1 with
          dram
          cells := if d.cell then insertNew s1.cells p else s1.cells.filter (· != p)
          poison := match d.poison with | some u => put s1.poison p u | none => del s1.poison p
          latent := s1.latent.filter (· != p)
          l2 := del s1.l2 k }, none)
/-- Dirty sectors written back in turn, up to the first that cannot be. -/
def writeBackSectors (s : State) (ks : List Nat) : State × Option Unwritten :=
  ks.foldl (fun r k => match r.2 with | some _ => r | none => writeBack r.1 k) (s, none)

/-- The modified host lines that meet a test given back to the host's memory; they stay held, unmodified (R365). -/
def writeBackHost (s : State) (f : Nat → HostLine → Bool) : State :=
  let out := (s.hostLines.filter fun p => p.2.modified && f p.1 p.2).map fun p => Message.hostWrite p.1 p.2.bytes
  { s with
    outbox := s.outbox ++ out
    hostLines := s.hostLines.map fun p =>
      (p.1, if p.2.modified && f p.1 p.2 then { p.2 with modified := false, writers := [] } else p.2) }

end Sys2Proof.Machine
end

