-- ==== Sys2Proof/Machine/Link.lean ====
section
/-! DEFINITION. The ways out of the device: flits and the link layer of a port (R367 to R369), requests to peers with their
tags and credits (R370, R371), and what is asked of the host (R364, R365). -/

namespace Sys2Proof.Machine

/-! ## Flits -/

/-- One bit of the CRC-32C register (R369). -/
def crcBit (c : Nat) : Nat := if c % 2 = 1 then (c / 2) ^^^ 0x82F63B78 else c / 2
/-- One byte folded into the CRC-32C register, least significant bit first. -/
def crcByte (c : Nat) (b : Byte) : Nat :=
  crcBit (crcBit (crcBit (crcBit (crcBit (crcBit (crcBit (crcBit (c ^^^ b.toNat))))))))
/-- CRC-32C, with initial and final value 0xFFFF_FFFF (R369). -/
def crc32c (bs : List Byte) : Nat := (bs.foldl crcByte 0xFFFFFFFF) ^^^ 0xFFFFFFFF

/-- Fields of a flit (R369). -/
def flitType (f : Flit) : Nat := numAt f 0 2 % 16
def flitSeq (f : Flit) : Nat := numAt f 0 2 / 16
def flitDomain (f : Flit) : Nat := numAt f 2 2
def flitSrc (f : Flit) : Nat := numAt f 4 1 % 128
def flitDst (f : Flit) : Nat := numAt f 5 1
def flitAck (f : Flit) : Option Nat := if bitOf (numAt f 6 2) 15 then some (numAt f 6 2 % 4096) else none
def flitBody (f : Flit) : List Byte := padTo 52 (f.drop 8)
/-- Whether a flit is whole: 64 bytes whose CRC is right (R369). -/
def flitWhole (f : Flit) : Bool := f.length == 64 && crc32c (f.take 60) == numAt f 60 4
/-- Whether a flit takes a sequence number (R369). -/
def sequenced (ty : Nat) : Bool := [1, 2, 3, 6, 7, 8, 9].contains ty
/-- A flit of 64 bytes (R369). -/
def buildFlit (ty seq domain src dst : Nat) (ack : Option Nat) (body : List Byte) : Flit :=
  let b := toBytes 2 (ty + 16 * (seq % 4096)) ++ toBytes 2 domain ++ toBytes 1 src ++ toBytes 1 dst
    ++ toBytes 2 (match ack with | some a => a % 4096 + 2 ^ 15 | none => 0) ++ padTo 52 body
  b ++ toBytes 4 (crc32c b)

/-! ## The link layer of a port -/

/-- A port changed. -/
def modPort (s : State) (p : Nat) (f : Port → Port) : State := { s with ports := modAt s.ports p f }
/-- A flit that takes no sequence number leaves at once (R369). -/
def sendLocal (s : State) (p ty : Nat) (body : List Byte) : State :=
  s.send (.flit p (buildFlit ty 0 s.domain.toNat s.devId.toNat 0xFF (portOf s p).lastIn body))
/-- A sequenced flit leaves, or waits while 1,024 are unacknowledged (R369). The origin and the body are those of `f`. -/
def transmit (s : State) (p : Nat) (f : Flit) : State :=
  let x := portOf s p
  if 1024 ≤ x.unacked.length then modPort s p fun x => { x with queued := x.queued ++ [f] }
  else
    let g := buildFlit (flitType f) x.nextSeq s.domain.toNat (flitSrc f) (flitDst f) x.lastIn (flitBody f)
    (modPort s p fun x => { x with nextSeq := (x.nextSeq + 1) % 4096, unacked := x.unacked ++ [{ seq := x.nextSeq, flit := g }] }).send
      (.flit p g)
/-- A flit of this device's own, before the link layer numbers it. -/
def ownFlit (s : State) (ty dst : Nat) (body : List Byte) : Flit := buildFlit ty 0 s.domain.toNat s.devId.toNat dst none body

/-! ## Routing (R368) -/

/-- The port on which a request for an address leaves (R368). -/
def choosePort (s : State) (d addr : Nat) : Option Nat :=
  let ps := upPorts s d
  if ps = [] then none else ps[addr / 192 % ps.length]?
/-- Routed flits leave for a device, all on one port. -/
def sendRouted (s : State) (d addr : Nat) (fs : List Flit) : State :=
  match choosePort s d addr with
  | none => s
  | some p => fs.foldl (fun s f => transmit s p f) s

/-! ## Requests (R370, R371) -/

/-- Request and data credits for a device through a port. -/
def creditsOf (s : State) (p d : Nat) : Nat × Nat :=
  match s.credits.find? fun c => c.1 = p && c.2.1 = d with
  | some c => (c.2.2.1, c.2.2.2)
  | none => (0, 0)
/-- Credits set. -/
def setCredits (s : State) (p d r n : Nat) : State :=
  { s with credits := (s.credits.filter fun c => !(c.1 = p && c.2.1 = d)) ++ [(p, d, r, n)] }

/-- The code of a size in a request (R370). -/
def sizeCode (n : Nat) : Nat :=
  if n ≤ 1 then 0 else if n = 2 then 1 else if n ≤ 4 then 2 else if n ≤ 8 then 3 else if n ≤ 16 then 4 else if n ≤ 48 then 5 else 6
/-- The bytes that a size code stands for (R370); none for 7 to 255. -/
def sizeOf (c : Nat) : Option Nat := [1, 2, 4, 8, 16, 48, 192][c]?
/-- The body of a request (R370). -/
def reqBody (opc size tag addr flags sub : Nat) (imm : List Byte) : List Byte :=
  toBytes 1 opc ++ toBytes 1 size ++ toBytes 2 tag ++ toBytes 8 addr ++ toBytes 1 flags ++ toBytes 1 sub ++ toBytes 2 0 ++ padTo 36 imm
/-- The body of a data flit (R369). -/
def dataBody (tag unit : Nat) (bs : List Byte) : List Byte := toBytes 2 tag ++ toBytes 2 unit ++ padTo 48 bs
/-- Bytes cut into 48-byte units, from a unit index on. -/
def unitsOf (bs : List Byte) : List (List Byte) := (List.range (ceilDiv bs.length 48)).map fun k => padTo 48 (bs.drop (48 * k))

/-- A tag that no unanswered request to the device carries (R370). -/
def freeTag (s : State) (d : Nat) : Nat :=
  let used := (s.requests.filter fun r => r.2.dev = d).map (·.2.tag)
  ((List.range (used.length + 1)).find? fun t => !(used.contains t)).getD 0

/-- Whether a request travels in safe mode: as `FAB_CTL` stood when the instruction on whose behalf it leaves issued (R373). -/
def safeFor (s : State) (who : Requester) : Bool :=
  match who with
  | .fibre w k _ => ((get? s.waves w).bind fun x => x.fibres[k]?).any (·.safe)
  | .engine op _ => (get? s.ops op).any (·.safe)
  | .engineWrite op _ => (get? s.ops op).any (·.safe)
  | _ => s.safe
/-- Whether an operation holds a device: its writes there are one step of the order, so that nothing else of this device comes between
them (R102). -/
def heldDev (s : State) (d : Nat) : Bool := s.ops.any fun p => p.2.held.contains d
/-- Whether a request has to wait for such an operation: all but its own and cancellations do. -/
def barredBy (s : State) (d : Nat) (who : Requester) (opc : Nat) : Bool :=
  opc != 7 && heldDev s d && !(match who with
    | .engineWrite id _ => (get? s.ops id).any fun o => o.begun && o.held.contains d
    | _ => false)
/-- Whose write a request is, when it may change a peer's memory: launch, wave and fibre. -/
def writerFor (s : State) (who : Requester) (q : Ask) : Option (Nat × Nat × Nat) :=
  if !([2, 3, 4, 5, 8, 9].contains q.opc) then none
  else match who with
    | .fibre w k _ => (get? s.waves w).bind fun x => (get? s.gangs x.gang).map fun g => (g.launch, w, k)
    | .engineWrite op _ => (get? s.ops op).map fun o => (o.launch, o.wave, o.fibre)
    | _ => none
/-- A peer at which somebody has written, noted until its lines have been written back. -/
def noteFar (s : State) (x : Nat × Nat × Nat) (d : Nat) : State :=
  { s with far := (s.far.filter fun f => !(f.launch == x.1 && f.wave == x.2.1 && f.fibre == x.2.2 && f.dev == d))
      ++ [{ launch := x.1, wave := x.2.1, fibre := x.2.2, dev := d }] }
/-- A request leaves, if the way is free and the port and destination have the credits (R371); otherwise nothing happens. -/
def sendRequest (s : State) (d : Nat) (who : Requester) (q : Ask) : State :=
  match choosePort s d q.addr, barredBy s d who q.opc with
  | none, _ => s
  | some _, true => { s with barred := insertNew s.barred d }
  | some p, false =>
    let us := unitsOf q.data
    let c := creditsOf s p d
    if c.1 = 0 || decide (c.2 < us.length) then s
    else
      let tag := freeTag s d
      let body := reqBody q.opc (sizeCode q.size) tag q.addr (bit (safeFor s who) + 2 * bit q.noResp) q.sub q.imm
      let fs := ownFlit s 1 d body :: (us.zipIdx.map fun u => ownFlit s 3 d (dataBody tag u.2 u.1))
      let u := (setCredits s p d (c.1 - 1) (c.2 - us.length)).takeUid
      let r : Request := { dev := d, tag, opc := q.opc, size := q.size, who, flits := fs, sentAt := s.clk }
      let s0 := fs.foldl (fun s f => transmit s p f) { u.1 with requests := put u.1.requests u.2 r }
      let s1 := match writerFor s who q with | some x => noteFar s0 x d | none => s0
      -- remote stores, atomics and contributions are counted in safe mode (R373)
      if safeFor s who && [2, 3, 4, 5].contains q.opc then { s1 with safeCount := s1.safeCount + 1 } else s1

/-- A peer is asked to write back the lines that its host shares, on behalf of a fence or of a completing launch: the spec has the fence
wait for them (R119) and names no request for it, which is a SLICEOP with SUB 3 here (DESIGN CHOICE, log 64). The lines of a peer that has
become unreachable are gone. -/
def askFlush (s : State) (f : Far) : State :=
  let who := Requester.flush f.launch f.wave f.fibre f.dev
  if !(reachable s f.dev) then { s with far := s.far.erase f }
  else if f.asked || s.requests.any fun r => r.2.who = who then s
  else
    let t := sendRequest s f.dev who { opc := 8, size := 16, addr := f.dev * 2 ^ 57, sub := 3 }
    if t.nextUid = s.nextUid then t else { t with far := t.far.map fun g => if g = f then { g with asked := true } else g }
/-- The peers that a fibre has written at. -/
def farOf (s : State) (w k : Nat) : List Far := s.far.filter fun f => f.wave == w && f.fibre == k
/-- All of them are asked. -/
def flushFar (s : State) (w k : Nat) : State := (farOf s w k).foldl askFlush s
/-- The peers at which a launch has written, each asked once on behalf of the launch itself. -/
def flushLaunch (s : State) (l : Nat) : State :=
  let own := s.far.filter fun f => f.launch == l && f.wave == 0
  let more := ((s.far.filter fun f => f.launch == l && !(own.any fun g => g.dev == f.dev)).map (·.dev)).eraseDups
  let mine := own ++ more.map fun d => { launch := l, wave := 0, fibre := 0, dev := d }
  mine.foldl askFlush { s with far := s.far.filter (fun f => f.launch != l) ++ mine }

/-! ## Asking the host (R364, R365) -/

/-- A question put to the host, unless it is already out. -/
def askHost (s : State) (a : HostAsk) : State :=
  if s.hostAsks.any fun p => p.2.1 = a then s
  else
    let u := s.takeUid
    { u.1 with hostAsks := u.1.hostAsks ++ [(u.2, a, none)] }.send (.hostAsk u.2 a)
/-- Answers of the host that refuse are dropped once what asked has acted on them. -/
def dropRefused (s : State) : State := { s with hostAsks := s.hostAsks.filter fun p => p.2.2.isNone }

/-- Refusals that an access to an address has acted on. -/
def forgetRefused (s : State) (a : Nat) : State :=
  match placeOf s a with
  | .host o => { s with hostAsks := s.hostAsks.filter fun p => p.2.2.isNone || (match p.2.1 with
      | .line n => n != o / 192
      | .translate n _ => n != o / 4096
      | .pageRequest .. => true) }
  | _ => s

/-! ## The device's own accesses -/

/-- What an access of the device itself came to. -/
inductive Done (α : Type) where
  | ok (a : α)
  /-- Row, walk level, present but not writable, failing address. -/
  | fail (row level : Nat) (readOnly : Bool) (addr : Nat)
  /-- A peer or the host has been asked. -/
  | pending
  deriving DecidableEq, Repr

/-- Answers to the device's own accesses dropped once what they belong to has been done; one that is still out is no longer
wanted. -/
def forgetAnswers (s : State) (mine : Nat → Bool) : State :=
  { s with
    deviceAnswers := s.deviceAnswers.filter fun x => !(mine x.key)
    requests := s.requests.map fun r => match r.2.who with
      | .device k => if mine k then (r.1, { r.2 with who := .none }) else r
      | _ => r }
/-- An answer to an access of the device itself. -/
def deviceAnswer (s : State) (key : Nat) : Option Answer := s.deviceAnswers.find? fun x => x.key == key
/-- A peer asked on the device's behalf, unless it has been. -/
def askDevice (s : State) (d key : Nat) (q : Ask) : State :=
  if s.requests.any fun r => r.2.who == .device key then s else sendRequest s d (.device key) q
/-- The cancellation of a request's monitor leaves for a peer, or waits for a credit (R371). -/
def sendOrKeep (s : State) (d req : Nat) (q : Ask) : State :=
  if !(reachable s d) then { s with requests := del s.requests req }
  else
    let t := sendRequest s d (.cancel req) q
    if t.nextUid = s.nextUid then { s with unsent := s.unsent ++ [(d, req, q)] } else t
/-- Cancellations that waited for a credit leave as far as they can, in their order. -/
def sendUnsent (s : State) : State := s.unsent.foldl (fun s x => sendOrKeep s x.1 x.2.1 x.2.2) { s with unsent := [] }

/-! ### Reads -/

/-- The 16-byte units that a range of bytes touches: the first byte in it, and how many. -/
def unitsIn (a n : Nat) : List (Nat × Nat) :=
  if n = 0 then []
  else (List.range ((a + n - 1) / 16 - a / 16 + 1)).map fun k =>
    let lo := max a (16 * (a / 16 + k))
    (lo, min (a + n) (16 * (a / 16 + k) + 16) - lo)
/-- A failing unit: its address, row, walk level, and whether it was present but not writable. -/
abbrev BadUnit := Nat × Nat × Nat × Bool
/-- What a range of bytes read by the device came to: whether answers are missing, the bytes, the units that failed. -/
structure Units where
  wait : Bool := false
  bytes : List Byte := []
  bad : List BadUnit := []
/-- The key of a unit's answer. -/
def readKey (raw : Bool) (a : Nat) : Nat := a / 16 * 16 + 2 ^ 66 * bit raw
/-- One unit read; `raw` asks for the image of a tagged sector as it lies (R296), which a peer is asked for with SUB 1
(DESIGN CHOICE, log 25). -/
def readUnit (tag : Option Nat) (need : Nat) (raw : Bool) (r : State × Units) (u : Nat × Nat) : State × Units :=
  let c := check r.1 tag u.1 need true false true
  match c.2 with
  | .ok =>
    let bs := match placeOf c.1 u.1, raw with
      | .own o, true => padTo u.2 ((sectorAt c.1 o).bytes.drop (secOff c.1 o))
      | _, _ => readGlobal c.1 u.1 u.2
    (c.1, { r.2 with bytes := r.2.bytes ++ bs })
  | .fail row level ro => (c.1, { r.2 with bad := r.2.bad ++ [(u.1, row, level, ro)] })
  | .host q => (askHost c.1 q, { r.2 with wait := true })
  | .peer d =>
    let key := readKey raw u.1
    match deviceAnswer c.1 key with
    | some x =>
      if x.status = 0 then (c.1, { r.2 with bytes := r.2.bytes ++ padTo u.2 (x.value.drop (u.1 % 16)) })
      else (c.1, { r.2 with bad := r.2.bad ++ [(u.1, statusRow x.status x.attr, x.attr % 4, false)] })
    | none => (askDevice c.1 d key { opc := 1, size := 16, addr := u.1 / 16 * 16, sub := bit raw }, { r.2 with wait := true })
/-- Device reads of a context (`tag`) or for itself, unit by unit; poison that is met is logged (R393). The answers stay. -/
def readUnits (s : State) (tag : Option Nat) (us : List (Nat × Nat)) (need : Nat) (raw : Bool) : State × Units :=
  let r := us.foldl (readUnit tag need raw) (s, {})
  if r.2.wait then r
  else
    let s1 := us.foldl (fun s u => forgetRefused s u.1) r.1
    (match r.2.bad.find? fun b => b.2.1 == 6 with | some b => logPoison s1 tag b.1 | none => s1, r.2)
/-- The answers to some units dropped. -/
def forgetUnits (s : State) (us : List (Nat × Nat)) (raw : Bool) : State := forgetAnswers s fun k => us.any fun u => k == readKey raw u.1
/-- What some units came to, as a whole: their bytes, or the first failing one. -/
def Units.done (r : Units) : Done (List Byte) :=
  if r.wait then .pending
  else match r.bad with
    | (u, row, level, ro) :: _ => .fail row level ro u
    | [] => .ok r.bytes
/-- A range read: its bytes, or its first failing row. -/
def readRange (s : State) (tag : Option Nat) (a n need : Nat) : State × Done (List Byte) :=
  let us := unitsIn a n
  let r := readUnits s tag us need false
  (if r.2.wait then r.1 else forgetUnits r.1 us false, r.2.done)
/-- A range read by a step that reads several in turn: its answers stay until the step is done. -/
def readKeep (s : State) (tag : Option Nat) (a n need : Nat) : State × Done (List Byte) :=
  let us := unitsIn a n
  let r := readUnits s tag us need false
  ({ r.1 with reading := r.1.reading ++ us.map fun u => readKey false u.1 }, r.2.done)
/-- The step that has read ranges in turn waits for an answer, or is done and its answers are dropped. -/
def endReads (s : State) (waits : Bool) : State :=
  let t := if waits then s else forgetAnswers s fun k => s.reading.contains k
  { t with reading := [] }

/-! ### Writes -/

/-- The parts of some runs of bytes that lie in one 16-byte unit each. -/
def writeParts (ps : List (Nat × List Byte)) : List (Nat × List Byte) :=
  ps.flatMap fun p => (unitsIn p.1 p.2.length).map fun u => (u.1, (p.2.drop (u.1 - p.1)).take u.2)
/-- Keys of a peer's answers to a write of the device, and to the read that comes before it. -/
def writeKey (a : Nat) : Nat := 2 ^ 64 + a
def probeKey (a : Nat) : Nat := 2 ^ 65 + a
/-- What the checks of a write's parts came to: whether answers are missing, and the first failing unit. -/
structure Cleared where
  wait : Bool := false
  bad : Option BadUnit := none
/-- One part checked; a peer is asked first whether its page can be written when there are several parts, so that none is written
unless all can be (SUB bit 2 of a READ, log 25). -/
def clearPart (several : Bool) (r : State × Cleared) (p : Nat × List Byte) : State × Cleared :=
  let fail (s : State) (b : BadUnit) : State × Cleared := (s, { r.2 with bad := r.2.bad.or (some b) })
  let c := check r.1 none p.1 0 false true true
  match c.2 with
  | .ok => (c.1, r.2)
  | .fail row level ro => fail c.1 (p.1, row, level, ro)
  | .host q => (askHost c.1 q, { r.2 with wait := true })
  | .peer d =>
    if !several then (c.1, r.2)
    else match deviceAnswer c.1 (probeKey p.1) with
      | some x => if x.status = 0 then (c.1, r.2) else fail c.1 (p.1, statusRow x.status x.attr, x.attr % 4, false)
      | none => (askDevice c.1 d (probeKey p.1) { opc := 1, size := 16, addr := p.1 / 16 * 16, sub := 4 }, { r.2 with wait := true })
/-- One part that lies with a peer sent to it, or its answer read. -/
def sendPart (r : State × Cleared) (p : Nat × List Byte) : State × Cleared :=
  match placeOf r.1 p.1 with
  | .peer d _ =>
    match deviceAnswer r.1 (writeKey p.1) with
    | some x =>
      (r.1, if x.status = 0 then r.2 else { r.2 with bad := r.2.bad.or (some (p.1, statusRow x.status x.attr, x.attr % 4, false)) })
    | none => (askDevice r.1 d (writeKey p.1) { opc := 2, size := p.2.length, addr := p.1, data := p.2 }, { r.2 with wait := true })
  | _ => r
/-- Device writes for itself, all of them in one step or none (R284, R301, R343): every part is checked before any is made,
and the parts that lie with peers are made before those made here. -/
def writeAll (s : State) (ps : List (Nat × List Byte)) : State × Done Unit :=
  let us := writeParts ps
  let ended (s : State) (r : Done Unit) : State × Done Unit :=
    (us.foldl (fun s p => forgetRefused s p.1)
      (forgetAnswers s fun k => us.any fun p => k == writeKey p.1 || k == probeKey p.1), r)
  let sent := us.any fun p => (deviceAnswer s (writeKey p.1)).isSome || s.requests.any fun r => r.2.who == .device (writeKey p.1)
  let c := us.foldl (clearPart (decide (1 < us.length) && !sent)) (s, {})
  match c.2.bad with
  | some b => ended c.1 (.fail b.2.1 b.2.2.1 b.2.2.2 b.1)
  | none =>
    if c.2.wait then (c.1, .pending)
    else
      let d := us.foldl sendPart (c.1, {})
      match d.2.bad, d.2.wait with
      | _, true => (d.1, .pending)
      | some b, _ => ended d.1 (.fail b.2.1 b.2.2.1 b.2.2.2 b.1)
      | none, _ => ended (us.foldl (fun s p => writeGlobal s p.1 p.2 (0, 0, 0)) d.1) (.ok ())
/-- A range written by the device for itself. -/
def writeRange (s : State) (a : Nat) (bs : List Byte) : State × Done Unit := writeAll s [(a, bs)]

end Sys2Proof.Machine
end

