-- ==== Sys2Proof/Machine/Records.lean ====
section
/-! DEFINITION. Interrupts (R361), fault records and the fault buffer (R349 to R352), tokens (R353), the queue table's
device fields (R330, R337), and the end of a context (R342). -/

namespace Sys2Proof.Machine

/-! ## Interrupts -/

/-- A vector's condition: a bit set in its status register and in its enable register (R361). -/
def vectorCond (s : State) (v : Nat) : Bool :=
  if v = 0 then s.qmIntStat &&& s.qmIntEn != 0 else s.fxIntStat &&& s.fxIntEn != 0

/-- One vector's message, or its pending bit while it is masked (R361). -/
def sendVector (s : State) (v : Nat) : State :=
  match s.vectors[v]? with
  | none => s
  | some x =>
    if x.mask then { s with vectors := modAt s.vectors v fun y => { y with pending := true } }
    else s.send (.msix x.addr x.data)

/-- The vectors whose condition has become true send their messages (R361). -/
def interrupts (s : State) : State :=
  [0, 1].foldl (fun s v =>
    let c := vectorCond s v
    let old := ((s.vectors[v]?).map (·.cond)).getD false
    let s1 := if c && !old then sendVector s v else s
    { s1 with vectors := modAt s1.vectors v fun y => { y with cond := c } }) s

/-- Status bits raised in `FX_INTSTAT` (R339). -/
def raiseFx (s : State) (b : BitVec 4) : State := interrupts { s with fxIntStat := s.fxIntStat ||| b }
/-- Status bits raised in `QM_INTSTAT` (R329). -/
def raiseQm (s : State) (b : BitVec 2) : State := interrupts { s with qmIntStat := s.qmIntStat ||| b }

/-! ## Records -/

/-- The 192 bytes of a record (R350). -/
def Record.bytes (s : State) (r : Record) : List Byte :=
  let n := r.pages.length
  let hdr := r.code + 2 ^ 8 * bit r.replayable + 2 ^ 9 * bit r.parked + 2 ^ 10 * bit r.async + 2 ^ 11 * bit r.ended
    + 2 ^ 12 * n + 2 ^ 16 * r.status
  toBytes 4 hdr ++ toBytes 4 (r.tag + 2 ^ 8 * s.devId.toNat) ++ toBytes 8 r.addr.toNat ++ toBytes 4 r.gang
    ++ toBytes 4 r.wmf ++ toBytes 4 r.lanes.toNat ++ toBytes 4 r.seq.toNat ++ toBytes 8 r.time.toNat ++ toBytes 8 r.info.toNat
    ++ toBytes 4 r.token ++ toBytes 4 r.xkind ++ toBytes 8 r.xsrc.toNat
    ++ padTo 64 (r.pages.flatMap fun p => toBytes 8 p.page) ++ padTo 8 (r.pages.map fun p => BitVec.ofNat 8 p.attr)
    ++ toBytes 8 r.launch.toNat ++ List.replicate 48 0

/-- Dirty sectors of a range written back, as the device does before it announces what it wrote (R363). -/
def flushRange (s : State) (a n : Nat) : State :=
  match placeOf s a with
  | .own o => (List.range (n / 48 + 2)).foldl (fun s k =>
      if secStart s (secKey s o + k) < o + n then (writeBack s (secKey s o + k)).1 else s) s
  | .host o => writeBackHost s fun k _ => decide (o / 192 ≤ k ∧ k ≤ (o + n - 1) / 192)
  | _ => s

/-- Whether the buffer takes a record now (R352). -/
def bufferOpen (s : State) : Bool :=
  s.fbEnable && !s.fbStop && decide ((s.fbWr - s.fbRd).toNat < 2 ^ s.fbSize)

/-- A record held at its origin (R352), before those that are younger when it is the oldest there. -/
def holdRecord (s : State) (o : Origin) (r : Record) (oldest : Bool := false) : State :=
  raiseFx { s with
    held := if oldest then (o, r) :: s.held else s.held ++ [(o, r)]
    fbOvf := if s.fbOvf = 0xFFFFFFFF#32 then s.fbOvf else s.fbOvf + 1 } 2#4

/-- The records on their way written in order (R349): `FB_WR` rises with each; one that finds no room is held; a write that
fails stops posting (BUFERR, R339); one that waits for the host or a peer keeps the others behind it. Records of one origin
that have come so far are older than those held there, but for those that follow one just held. -/
def drainPosting (s : State) : State :=
  let rec go (fuel : Nat) (s : State) (back : List Origin) : State :=
    match fuel, s.posting with
    | 0, _ => s
    | _, [] => s
    | f + 1, (o, r) :: rest =>
      let s1 := { s with posting := rest }
      if back.contains o || !(bufferOpen s) then go f (holdRecord s1 o r (!(back.contains o))) (o :: back)
      else
        let a := s.fbBase.toNat + 192 * (s.fbWr.toNat % 2 ^ s.fbSize)
        let w := writeRange s a (r.bytes s)
        match w.2 with
        | .ok _ => go f (raiseFx { flushRange w.1 a 192 with fbWr := s.fbWr + 1, posting := rest } 1#4) back
        | .fail .. => go f (holdRecord (raiseFx { w.1 with fbStop := true, posting := rest } 4#4) o r true) (o :: back)
        | .pending => w.1
  go (s.posting.length + 1) s []

/-- A record posted, or held at its origin when there is no room or older ones wait there (R349, R352). -/
def postRecord (s : State) (o : Origin) (r : Record) : State :=
  if s.held.any fun h => h.1 = o then holdRecord s o r
  else drainPosting { s with posting := s.posting ++ [(o, r)] }

/-- A replay token that no live token equals; never 0 (R353). -/
def takeToken (s : State) : State × Nat :=
  let rec pick (fuel n : Nat) : Nat :=
    match fuel with
    | 0 => n
    | f + 1 => if n % 2 ^ 32 = 0 || s.tokens.contains (n % 2 ^ 32) then pick f (n + 1) else n
  let n := pick (s.tokens.length + 2) s.nextToken
  ({ s with nextToken := n + 1, tokens := s.tokens ++ [n % 2 ^ 32] }, n % 2 ^ 32)

/-! ## Queues -/

/-- A queue's state, the disabled one when it has never been enabled. -/
def queueOf (s : State) (q : Nat) : Queue := (get? s.queues q).getD {}

/-- The device fields of the queue-table entries that have changed, written when they can be (R330, R332). -/
def flushTables (s : State) : State :=
  s.tablesDirty.foldl (fun s q =>
    let x := queueOf s q
    let w := writeRange s (s.qtBase.toNat + 64 * q + 16)
      (toBytes 4 x.head.toNat ++ toBytes 4 x.done.toNat ++ toBytes 4 (x.state + 2 ^ 8 * x.err) ++ toBytes 4 x.errIdx.toNat
        ++ toBytes 8 x.errAddr.toNat)
    match w.2 with
    | .pending => { w.1 with tablesDirty := insertNew w.1.tablesDirty q }
    | _ => w.1) { s with tablesDirty := [] }
/-- A queue changed, and its table entry with it. -/
def setQueue (s : State) (q : Nat) (x : Queue) : State :=
  flushTables { s with queues := put s.queues q x, tablesDirty := insertNew s.tablesDirty q }
/-- Launches of a queue that have been accepted and have not completed. -/
def queueLaunches (s : State) (q : Nat) : Nat := (s.launches.filter fun p => p.2.queue == q).length
/-- A queue's entry state as its launches and its ring leave it: idle, active, or still at a FENCE (R330, R331). -/
def settled (s : State) (q : Nat) (x : Queue) : Queue :=
  let busy := queueLaunches s q != 0
  if x.state = 3 && busy then x
  else if x.state = 1 || x.state = 2 || x.state = 3 then { x with state := if x.head = x.tail && !busy then 1 else 2 }
  else x
/-- A queue enters the error state (R337). -/
def queueError (s : State) (q err : Nat) (idx : Word) (addr : Quad) (atEnable : Bool := false) : State :=
  raiseQm (setQueue s q { queueOf s q with state := 4, err := err, errIdx := idx, errAddr := addr, atEnable := atEnable }) 1#2

/-- Whether more entries have been produced than the ring holds (R337). -/
def overrun (x : Queue) : Bool := decide (2 ^ x.size < (x.tail - x.head).toNat)
/-- OVERRUN is met where entries would be read (R332, R337). -/
def checkOverrun (s : State) (q : Nat) : State :=
  let x := queueOf s q
  if s.qmEnable && (x.state = 1 || x.state = 2) && overrun x then queueError s q 2 x.head 0 else s

/-- A step of the device that has begun and waits for an answer. -/
def holdDue (s : State) (d : Due) : State := if s.waiting.contains d then s else { s with waiting := s.waiting ++ [d] }

/-- The cluster from which a placement searches. -/
def Due.placing : Due → Option Nat
  | .gangPlacement n => some n
  | _ => none

/-! ## Gangs and contexts leave -/

/-- The waves of a gang. -/
def wavesOf (s : State) (g : Nat) : List Nat := keysWhere s.waves fun w => w.gang == g

/-- The number of a fibre's monitor and of a dependence's, as requests to peers name them (R370). -/
def fibreMonitor (w f : Nat) : Nat := 4 * w + f
def dependenceMonitor (l k : Nat) : Nat := 2 ^ 31 + 2 * l + k
/-- A peer is told that monitors there are no longer wanted (R370, R371). A request for one keeps its tag until the cancellation is
answered, since its answer or a wake may still come; one that the peer has refused has armed nothing. -/
def cancelRequests (s : State) (mine : Request → Bool) (num : Nat) : State :=
  (s.requests.filter fun r => mine r.2).foldl (fun s r =>
    if r.2.nacked.isSome then { s with requests := del s.requests r.1 }
    else sendOrKeep { s with requests := put s.requests r.1 { r.2 with who := .cancelled } } r.2.dev r.1
      { opc := 7, size := 1, addr := numAt (flitBody (r.2.flits.headD [])) 4 8, imm := toBytes 8 0 ++ toBytes 4 num }) s
/-- Whether a request is for the monitor of a fibre: of its wait, or of an instruction that is to begin one. -/
def Request.monitors (r : Request) (w f : Nat) : Bool :=
  match r.who with
  | .monitor w' f' => w' == w && f' == f
  | .fibre w' f' _ => w' == w && f' == f && r.opc == 6
  | _ => false
/-- The monitor of a fibre at a peer is no longer wanted. -/
def cancelMonitor (s : State) (w f : Nat) : State := cancelRequests s (·.monitors w f) (fibreMonitor w f)
/-- The monitors of a launch's dependences are no longer wanted, here and at peers. -/
def cancelDependences (s : State) (l : Nat) : State :=
  [0, 1].foldl (fun s k => cancelRequests s (fun r => r.who == .dependence l k) (dependenceMonitor l k))
    { s with monitors := s.monitors.filter fun m => match m.2.who with | .dependence j _ => j != l | _ => true }

/-- A gang leaves the state: its slots and granules are free, its waves, operations and monitors gone, and with the last gang
of an ended context what was kept of the context (R42, R46). -/
def removeGang (s : State) (g : Nat) : State :=
  let ws := wavesOf s g
  let s := ws.foldl (fun s w => (List.range 4).foldl (fun s f => cancelMonitor s w f) s) s
  { s with
    gangs := del s.gangs g
    waves := s.waves.filter fun p => p.2.gang != g
    ops := s.ops.filter fun p => p.2.gang != g
    monitors := s.monitors.filter fun p => match p.2.who with | .fibre w _ => !(ws.contains w) | _ => true
    contexts := s.contexts.filter fun c => decide (c.1 < 64) || s.gangs.any fun p => p.1 != g && p.2.tag == c.1 }

/-- The tokens that a context's fibres and launches hold. -/
def tokensOf (s : State) (t : Nat) : List Nat :=
  (s.waves.flatMap fun p =>
    if ((get? s.gangs p.2.gang).map (·.tag)) = some t then
      p.2.fibres.filterMap fun f => f.park.map fun k => k.2.token
    else [])
  ++ s.launches.filterMap fun p => if p.2.tag = t then p.2.heldStep.map (·.token) else none

/-- Whether a waiting step of the device belongs to a context. -/
def ofContext (t : Nat) : Due → Bool
  | .update u => u.toNat == t
  | .rightsinv u => u.toNat == t
  | _ => false

/-- A fibre of an ended context: it waits for nothing and issues nothing. -/
def Fibre.idle (f : Fibre) : Fibre := { f with wait := none, retry := none, answers := [], escalate := none, stopReq := false }
/-- The gangs of an ended context that are STOPPING complete their stop, under a tag that no context has (R46, log 26). -/
def detach (s : State) (t : Nat) : State :=
  let gs := keysWhere s.gangs fun g => g.tag == t && g.state == .stopping
  match gs, get? s.contexts t with
  | _ :: _, some c =>
    let u := s.takeUid
    let key := 64 + u.2
    { u.1 with
      contexts := put u.1.contexts key c
      gangs := u.1.gangs.map fun p => if gs.contains p.1 then (p.1, { p.2 with tag := key, wasHalted := false }) else p
      waves := u.1.waves.map fun p => if gs.contains p.2.gang then (p.1, { p.2 with fibres := p.2.fibres.map Fibre.idle }) else p
      ops := u.1.ops.map fun p => if gs.contains p.2.gang then (p.1, { p.2 with tag := key }) else p
      monitors := u.1.monitors.filter fun p => match p.2.who with
        | .fibre w _ => !((get? u.1.waves w).any fun x => gs.contains x.gang)
        | _ => true }
  | _, _ => s
/-- Whether a context is installed; one that has ended is not, though a gang of it may still be STOPPING (R339, R367). -/
def contextsLeft (s : State) : Bool := s.contexts.any fun c => decide (c.1 < 64)
/-- Whether a gang's context has ended and the gang only completes its stop. -/
def Gang.detached (g : Gang) : Bool := decide (64 ≤ g.tag)
/-- A context ends (R342): its gangs, launches, monitors and tokens go, its queues enter CTXENDED; a gang that is STOPPING
first completes its stop (R46). -/
def endContext (s : State) (t : Nat) : State :=
  let toks := tokensOf s t
  let ls := keysWhere s.launches fun l => l.tag == t
  let s0 := detach s t
  let s1 := (keysWhere s0.gangs fun g => g.tag == t).foldl removeGang s0
  let s2 := { ls.foldl cancelDependences s1 with
    launches := s1.launches.filter fun p => p.2.tag != t
    far := s1.far.filter fun f => !(ls.contains f.launch)
    tokens := s1.tokens.filter fun k => !(toks.contains k)
    contexts := del s1.contexts t }
  (keysWhere s2.queues fun q => q.owner == some t && q.state != 0).foldl
    (fun s q => queueError s q 10 (queueOf s q).head 0) { s2 with waiting := s2.waiting.filter fun i => !(ofContext t i) }

/-- The device ends a context: the record is posted with ENDED set, CTXEND raised, the event logged (R342, R385). -/
def endContextByDevice (s : State) (t : Nat) (o : Origin) (r : Record) : State :=
  raiseFx (postRecord ((endContext s t).log 9 0 (some t)) o { r with ended := true }) 8#4

end Sys2Proof.Machine
end

