-- ==== Sys2Proof/Machine/Ops.lean ====
section
/-! DEFINITION. The named operations over an issue: what an issuing group sees, its registers, its program counters, the
slot it holds, how an instruction stops (trap, park, stall), taking an exception and returning from one. -/

namespace Sys2Proof.Machine

/-! ## Fibres and waves in the state -/

/-- A fibre that does not exist. -/
def Fibre.blank : Fibre := { pcs := [], s := [], m := [], wbase := 0, state := .done }

/-- A fibre of a wave. -/
def fibreAt (s : State) (w f : Nat) : Fibre :=
  match get? s.waves w with
  | some x => x.fibres.getD f Fibre.blank
  | none => Fibre.blank
/-- A wave changed. -/
def modWave (s : State) (w : Nat) (f : Wave → Wave) : State := { s with waves := upd s.waves w f }
/-- A fibre of a wave changed. -/
def modFibre (s : State) (w f : Nat) (g : Fibre → Fibre) : State :=
  modWave s w fun x => { x with fibres := modAt x.fibres f g }
/-- A gang changed. -/
def modGang (s : State) (g : Nat) (f : Gang → Gang) : State := { s with gangs := upd s.gangs g f }
/-- An installed context changed. -/
def modContext (s : State) (t : Nat) (f : Context → Context) : State := { s with contexts := upd s.contexts t f }

/-- Whether a fibre is in TRAP: a live strand of it is in supervisor mode (R252). -/
def Fibre.inTrap (f : Fibre) : Bool := f.sup &&& ~~~f.exited != 0
/-- Whether every strand of a fibre has exited. -/
def Fibre.allExited (f : Fibre) : Bool := f.exited == BitVec.allOnes 32
/-- A fibre that is not DONE (R42, R336). -/
def Fibre.live (f : Fibre) : Bool := f.state != .done
/-- A strand's program counter. -/
def Fibre.pc (f : Fibre) (lane : Nat) : Quad := f.pcs.getD lane 0
/-- Program counters of some lanes replaced. -/
def Fibre.setPcs (f : Fibre) (lanes : Lanes) (pc : Nat → Quad) : Fibre := { f with pcs := mixRow lanes pc f.pc }
/-- A strand's place in the procession (R225). -/
def Fibre.procAt (f : Fibre) (lane : Nat) : ProcEntry := (get? f.proc lane).getD {}

/-! ## What an issuing group sees -/

/-- What stands when an instruction issues: every source is read from here (R150). -/
structure Here where
  i : Issue
  w : Wave
  f : Fibre
  g : Gang
  l : Launch
  c : Context

/-- The issue of a state, when it names a live fibre of a placed gang. -/
def hereOf (s : State) : Option Here := do
  let i ← s.issue
  let w ← get? s.waves i.wave
  let f ← w.fibres[i.fibre]?
  let g ← get? s.gangs w.gang
  let l ← get? s.launches g.launch
  let c ← get? s.contexts g.tag
  if f.live then some { i, w, f, g, l, c } else none

/-- The declared range of a fibre (R53). -/
def Header.winOf (h : Header) (f : Nat) : Nat × Nat := h.win.getD f (0, 0)
/-- Whether an allocation register lies in a shared region (R55). -/
def Header.isShared (h : Header) (r : Nat) : Bool := h.shared.any fun x => x.2.2 != 0 && decide (x.1 ≤ r ∧ r < x.2.1)
/-- The strands that perform: those of the group whose bit is set in the mask that P names (R150). -/
def Here.mask (h : Here) (m : Nat) : Lanes := (if h.i.sup then h.w.supM else h.f.m).getD m 0
def Here.perf (h : Here) (p : BitVec 3) : Lanes :=
  if p = 0 then h.i.lanes else h.i.lanes &&& h.mask p.toNat
/-- An `s` register (R52, R244). -/
def Here.sreg (h : Here) (n : Nat) : Word := (if h.i.sup then h.w.supS else h.f.s).getD n 0
/-- An even `s` pair. -/
def Here.spair (h : Here) (n : Nat) : Quad := pair (h.sreg n) (h.sreg (n + 1))
/-- A register of the allocation or of the supervisor file, at a lane. -/
def Here.reg (h : Here) (r lane : Nat) : Word :=
  ((if h.i.sup then h.w.supV else h.w.alloc).getD r []).getD lane 0
/-- Who writes, for the lines a write dirties (R119, R43). -/
def Here.writer (h : Here) : Nat × Nat × Nat := (h.g.launch, h.i.wave, h.i.fibre)
/-- Whether the fibre is in scout mode (R38). -/
def Here.scouting (h : Here) : Bool := h.f.scout.isSome
/-- The core the wave stands on. -/
def Here.coreOf (h : Here) : Nat := h.g.core + h.w.member
/-- The number of a core. -/
def coreKey (cluster core : Nat) : Nat := 4 * cluster + core
/-- Where the core holds its records (R352). -/
def Here.origin (h : Here) : Origin := .core h.g.cluster h.coreOf

/-! ## How an instruction stops -/

/-- What an instruction would have written: registers with their lanes, and `s` registers. -/
structure Dests where
  regs : List (Nat × Lanes) := []
  s    : List Nat := []

/-- Why an instruction does not complete at this issue. -/
inductive Stop where
  /-- A trap with its cause and `trap.info` (R249). -/
  | trap (cause : Nat) (info : Quad)
  /-- Row 3 (code 13) or row 5 (code 14) of R186: what the checks have left, the faulting address, its PATTR, whether scout
  mode follows, and the destinations that the instruction leaves invalid. -/
  | park (s : State) (code : Nat) (addr : Quad) (attr : Nat) (scout : Bool) (dests : Dests)
  /-- A resource stall (R29). -/
  | stall (r : Resource)
  /-- The instruction ends scout mode (R38). -/
  | scout
  /-- A trap for an access that failed, with what the check itself has left: an error found, a line pulled (R186, R392). -/
  | fault (s : State) (cause : Nat) (info : Quad)
  /-- A peer or the host has been asked; the instruction is performed when they have answered. -/
  | ask (s : State)
  /-- A stall of an instruction that has an effect before it, and issues again from the start (R29, R240). -/
  | reissue (s : State) (k : WaitKind)

/-- Cause codes (R249). -/
def illegalInstruction : Stop := .trap 1 0

/-- A condition that an encoding or an operand must meet. -/
def orIllegal (b : Bool) : Except Stop Unit := if b then .ok () else .error illegalInstruction
def orTrap (b : Bool) (cause : Nat) (info : Quad) : Except Stop Unit := if b then .ok () else .error (.trap cause info)
/-- An instruction that ends scout mode (R38). -/
def notInScout (h : Here) : Except Stop Unit := if h.scouting then .error .scout else .ok ()

/-! ## Slots -/

/-- The fibre that takes a slot next: the hint's fibre, or the next ready one in cyclic order after the last holder (R28, R29). -/
def nextFibre (w : Wave) (hint : Nat) : Option Nat :=
  let ready (k : Nat) : Bool := (w.fibres[k]?).any fun f => f.state == .ready
  let from_ := match w.lastHolder with | some k => k + 1 | none => 0
  let hinted := (w.lastHolder.getD 0 + hint) % 4
  if hint != 0 && ready hinted then some hinted
  else ((List.range 4).map fun k => (from_ + k) % 4).find? ready

/-- The state in which a fibre holds its slot. -/
def Fibre.holdState (f : Fibre) : FibreState := if f.scout.isSome then .scout else if f.inTrap then .trap else .holding

/-- A trap taken by a fibre that holds its slot (R248): the trap registers, TRAP, and the group's strands in supervisor
mode at `sup.handler`. -/
def Fibre.enterTrap (f : Fibre) (t : TrapRegs) (handler : Quad) : Fibre :=
  { f.setPcs t.lanes fun _ => handler with trap := t, state := .trap, sup := f.sup ||| t.lanes, escalate := none }

/-- The address of a gang's handler entry (R247). -/
def handlerOf (s : State) (g : Nat) : Quad :=
  (((get? s.gangs g).bind fun x => get? s.contexts x.tag).map (·.handlerAddr)).getD 0

/-- A slot without a holder goes to the next ready fibre, which takes its pending trap before it issues; `trap.seq` is then
the wave's count at that moment (R28, R36, R247, R248). -/
def grant (s : State) (w hint : Nat) : State :=
  match get? s.waves w with
  | none => s
  | some x =>
    if x.holder.isSome then s
    else match nextFibre x hint with
      | none => s
      | some k =>
        let handler := handlerOf s x.gang
        modWave s w fun y => { y with
          holder := some k
          fibres := modAt y.fibres k fun f =>
            match f.escalate with
            | some t => f.enterTrap { t with seq := y.seq } handler
            | none => { f with state := f.holdState } }
/-- At the end of a clk every slot without a holder goes to a fibre that became ready in it (R28). -/
def grantAll (s : State) : State :=
  s.waves.foldl (fun s p => if (get? s.gangs p.2.gang).any fun g => g.state == .running then grant s p.1 0 else s) s

/-- The holder gives up its slot (R28). -/
def passSlot (s : State) (w : Nat) (hint : Nat) : State :=
  grant (modWave s w fun x => { x with lastHolder := (match x.holder with | some k => some k | none => x.lastHolder), holder := none })
    w hint

/-- A fibre that holds its slot gives it up. -/
def leaveSlot (s : State) (w k hint : Nat) : State :=
  if ((get? s.waves w).bind (·.holder)) = some k then passSlot s w hint else s

/-! ## Registers written -/

/-- Marks of invalid lanes for a register: set where `bad`, cleared in the other written lanes. -/
def markLanes (t : List (Nat × Lanes)) (r : Nat) (lanes bad : Lanes) : List (Nat × Lanes) :=
  put t r ((((get? t r).getD 0) &&& ~~~lanes) ||| (bad &&& lanes))

/-- Marks of a register that is not written: lanes that would have become invalid are. -/
def addMarks (t : List (Nat × Lanes)) (r : Nat) (bad : Lanes) : List (Nat × Lanes) :=
  if bad = 0 then t else put t r (((get? t r).getD 0) ||| bad)
/-- Poison of some lanes of an allocation register ends when they are written (R392). -/
def cleared (t : List (Nat × Lanes)) (r : Nat) (lanes : Lanes) : List (Nat × Lanes) :=
  if t.isEmpty then t else upd t r fun m => m &&& ~~~lanes
/-- A register of the issuing fibre written in the lanes of `lanes`; in scout mode a shared register is not written
(R38), and the halves of invalid results are marked, of a shared register as well. -/
def writeReg (h : Here) (s : State) (r : Nat) (lanes : Lanes) (val : Nat → Word) (low high : Nat → Bool) : State :=
  if h.i.sup then
    modWave s h.i.wave fun w => { w with supV := modAt w.supV r fun old => mixRow lanes val fun i => old.getD i 0 }
  else if h.scouting && h.g.hdr.isShared r then
    modFibre s h.i.wave h.i.fibre fun f => { f with scout := f.scout.map fun c => { c with
      lowBad := addMarks c.lowBad r (maskOf low &&& lanes), highBad := addMarks c.highBad r (maskOf high &&& lanes) } }
  else
    let s1 := modWave s h.i.wave fun w => { w with
      alloc := modAt w.alloc r fun old => mixRow lanes val fun i => old.getD i 0
      bad := cleared w.bad r lanes }
    if h.scouting then
      modFibre s1 h.i.wave h.i.fibre fun f => { f with scout := f.scout.map fun c => { c with
        lowBad := markLanes c.lowBad r lanes (maskOf low), highBad := markLanes c.highBad r lanes (maskOf high) } }
    else s1

/-- An `s` register of the issuing fibre written; `bad` says that the value is invalid (R168). -/
def writeS (h : Here) (s : State) (n : Nat) (x : Word) (bad : Bool := false) : State :=
  if h.i.sup then modWave s h.i.wave fun w => { w with supS := setAt w.supS n x }
  else
    let s1 := modFibre s h.i.wave h.i.fibre fun f => { f with s := setAt f.s n x }
    if h.scouting then
      modFibre s1 h.i.wave h.i.fibre fun f => { f with
        scout := f.scout.map fun c => { c with sBad := if bad then insertNew c.sBad n else c.sBad.filter (· != n) } }
    else s1

/-- Mask bits of the issuing fibre written in the lanes of `lanes`. -/
def writeMask (h : Here) (s : State) (m : Nat) (lanes : Lanes) (val bad : Nat → Bool) : State :=
  let new (old : Lanes) : Lanes := (old &&& ~~~lanes) ||| (maskOf val &&& lanes)
  if h.i.sup then modWave s h.i.wave fun w => { w with supM := modAt w.supM m new }
  else
    let s1 := modFibre s h.i.wave h.i.fibre fun f => { f with m := modAt f.m m new }
    if h.scouting then
      modFibre s1 h.i.wave h.i.fibre fun f => { f with
        scout := f.scout.map fun c => { c with mBad := markLanes c.mBad m lanes (maskOf bad) } }
    else s1

/-- The group goes on at the next address (R125, R150). -/
def advance (h : Here) (s : State) : State :=
  modFibre s h.i.wave h.i.fibre fun f => f.setPcs h.i.lanes fun _ => h.i.next

/-! ## Records of a fibre -/

/-- Wave, member and fibre as a record names them (R350). -/
def wmfOf (w : Wave) (f : Nat) : Nat := w.index + 2 ^ 5 * w.member + 2 ^ 7 * f
/-- The first address of the 48 KiB page of an address (R5). -/
def pageOf (a : Nat) : Nat := a / 49152 * 49152
/-- A record of the issuing fibre (R350). -/
def Here.record (h : Here) (s : State) (code : Nat) (info : Quad) : Record :=
  { code, tag := h.g.tag, addr := h.i.pc, gang := h.g.index, wmf := wmfOf h.w h.i.fibre, lanes := h.i.lanes, seq := h.w.seq,
    time := s.calends, info, launch := h.l.desc }

/-! ## Exceptions -/

/-- Taking an exception (R248): in scout mode it ends the run (R38), in supervisor mode it is a double trap that ends the
context (R250), else the trap registers are written and the group enters the handler. Causes 6 to 8 post a record (R249). -/
def takeTrap (h : Here) (s : State) (cause : Nat) (info ret : Quad) : State :=
  if h.scouting then
    modFibre s h.i.wave h.i.fibre fun f => { f with scout := f.scout.map fun c => { c with ended := true } }
  else if h.i.sup then
    endContextByDevice s h.g.tag h.origin { h.record s 16 info with xkind := cause }
  else
    let t : TrapRegs := { cause, pc := h.i.pc, ret, lanes := h.i.lanes, info, seq := h.w.seq }
    let s1 := modFibre s h.i.wave h.i.fibre fun f => f.enterTrap t h.c.handlerAddr
    if cause = 6 || cause = 7 || cause = 8 then postRecord s1 h.origin (h.record s cause info) else s1

/-- Return from an exception (R252): the group's supervisor strands that `trap.lanes` names go to kernel mode at
`trap.ret`; the fibre leaves TRAP once no live strand of it is in supervisor mode. -/
def returnFromTrap (h : Here) (s : State) : State :=
  let back := h.i.lanes &&& h.f.sup &&& h.f.trap.lanes
  modFibre s h.i.wave h.i.fibre fun f =>
    let f1 := { f.setPcs back fun _ => h.f.trap.ret with sup := f.sup &&& ~~~back }
    if f1.inTrap then f1 else { f1 with state := .holding }

/-- The checkpoint of a fibre (R37), at an instruction that its group at `pc` was served for. -/
def checkpointOf (hdr : Header) (w : Wave) (f : Fibre) (k : Nat) (pc : Quad) : Checkpoint :=
  let win := hdr.winOf k
  { pcs := f.pcs, exited := f.exited, s := f.s, m := f.m, wbase := f.wbase, cursor := f.cursor, ages := f.ages, again := some pc,
    regs := (List.range (win.2 - win.1)).map fun j => w.alloc.getD (win.1 + j) []
    bad := w.bad.filter fun m => decide (win.1 ≤ m.1 ∧ m.1 < win.2) && !(hdr.isShared m.1) }

/-- The answers of peers that have performed their part of an instruction; keys from 2 ^ 64 on are of requests that change
nothing there. -/
def performed (as : List Answer) : List Answer := as.filter fun a => a.status == 0 && decide (a.key < 2 ^ 64)
/-- A fibre parks (R39): it leaves its slot, as the hint selects, with its record and token; `kept` is what peers have
performed of the instruction. -/
def parkFibre (s : State) (w k hint : Nat) (cp : Checkpoint) (r : Record) (kept : List Answer) : State :=
  let t := takeToken s
  let r := { r with replayable := true, parked := true, token := t.2 }
  let s1 := modFibre t.1 w k fun f => { f with
    state := .parked, park := some (cp, r), parkedAt := s.clk, scout := none, retry := none, answers := kept }
  postRecord (leaveSlot s1 w k hint) (.fibre w k) r

/-- The hint for a switch that an instruction causes otherwise than by itself: its prefix's, where bit 0 is set (R29). -/
def Here.swapHint (h : Here) : Nat := if h.i.swp then h.i.hint else 0
/-- A replayable fault (R37 to R39): a checkpoint, then scout mode from the next instruction on, or parking at once. In
supervisor mode any fault is a double trap (R250). -/
def takeFault (h : Here) (s : State) (code : Nat) (addr : Quad) (attr : Nat) (scout : Bool) (dests : Dests) : State :=
  if h.scouting then
    modFibre s h.i.wave h.i.fibre fun f => { f with scout := f.scout.map fun c => { c with ended := true } }
  else if h.i.sup then
    endContextByDevice s h.g.tag h.origin { h.record s 16 addr with xkind := code }
  else
    let cp := checkpointOf h.g.hdr h.w h.f h.i.fibre h.i.pc
    let page : FaultPage := { page := pageOf addr.toNat, attr }
    if scout then
      let bad := dests.regs.foldl (fun t d => put t d.1 (((get? t d.1).getD 0) ||| d.2)) []
      modFibre s h.i.wave h.i.fibre fun f => { f.setPcs h.i.lanes fun _ => h.i.next with
        state := .scout
        scout := some { cp, kept := performed h.f.answers, lowBad := bad, highBad := bad, sBad := dests.s, pages := [page], code, addr := h.i.pc, info := addr, lanes := h.i.lanes, hint := h.swapHint } }
    else parkFibre s h.i.wave h.i.fibre h.swapHint cp { h.record s code addr with pages := [page] } (performed h.f.answers)

/-! ## Waiting -/

/-- A wait that begins now: STALLED, or with the prefix WAITING with the slot passed (R28, R29). -/
def beginWait (h : Here) (s : State) (w : Wait) : State :=
  let s1 := modFibre s h.i.wave h.i.fibre fun f => { f with wait := some w, state := if h.i.swp then .waiting else .stalled }
  if h.i.swp then passSlot s1 h.i.wave h.i.hint else s1

/-- A wait record of this issue. -/
def Here.wait (h : Here) (s : State) (kind : WaitKind) : Wait :=
  { kind, pc := h.i.pc, next := h.i.next, lanes := h.i.lanes, st := 0, sup := h.i.sup, deadline := .never, ides := 0, gen := 0,
    last := 0, since := s.clk, monitor := none }

/-- The instruction reissues from the start when it can (R29). -/
def stallOn (h : Here) (s : State) (k : WaitKind) : State :=
  beginWait h (modFibre s h.i.wave h.i.fibre fun f => { f with retry := some h.i.pc }) { h.wait s k with next := h.i.pc }

/-- Whether an instruction's accesses at peers or of host memory are on their way. -/
def Here.asked (h : Here) (s : State) : Bool :=
  s.requests.any (fun r => match r.2.who with | .fibre w k _ => w == h.i.wave && k == h.i.fibre | _ => false)
    || s.hostAsks.any fun a => a.2.2.isNone
/-- An instruction whose accesses are on their way is performed when the answers are there: until then its fibre keeps the slot,
so that no fibre of the slot reads a register that it still writes (R56). If none could be sent for want of a credit, it stalls as
on any resource (R29, R371). -/
def askOn (h : Here) (s : State) : State :=
  if h.asked s then
    modFibre s h.i.wave h.i.fibre fun f => { f with
      retry := some h.i.pc, wait := some { h.wait s .answers with next := h.i.pc }, state := .stalled }
  else stallOn h s .answers

/-- The range of the code a group runs: the kernel's, or the handler's in supervisor mode (R128, R244). -/
def Here.code (h : Here) : Nat × Nat :=
  let o := if h.i.sup then h.c.handler else h.g.hdr
  (o.addr.toNat + o.coff, o.addr.toNat + o.coff + o.clen)
/-- Whether a parcel lies inside the code (R128). -/
def Here.inCode (h : Here) (a : Nat) : Bool := decide (h.code.1 ≤ a ∧ a + 2 ≤ h.code.2)
/-- The key under which a peer's answer to a parcel fetch is kept. -/
def parcelKey (a : Nat) : Nat := 2 ^ 72 + a
/-- A peer's part of an access of the issuing fibre: its answer, or a request that is out from now on. -/
def askPeer (h : Here) (s : State) (d key : Nat) (q : Ask) : Except Stop Answer :=
  match h.f.answers.find? fun x => x.key = key with
  | some x => .ok x
  | none =>
    let who := Requester.fibre h.i.wave h.i.fibre key
    .error (.ask (if s.requests.any fun r => r.2.who = who then s else sendRequest s d who q))
/-- A parcel as a trap reports it, asked for at a peer; one outside the code or not readable has a free value (R249). -/
def peekParcel (s : State) (h : Here) (a : Quad) : Except Stop Half :=
  if h.inCode a.toNat then
    let c := check s (some h.g.tag) a.toNat rightRead true false true
    match c.2 with
    | .ok => .ok (BitVec.ofNat 16 (ofBytes (readGlobal c.1 a.toNat 2)))
    | .host q => .error (.ask (askHost c.1 q))
    | .peer d => do
      let x ← askPeer h c.1 d (parcelKey a.toNat) { opc := 1, size := 2, addr := a.toNat }
      .ok (if x.status = 0 then BitVec.ofNat 16 (ofBytes (x.value.take 2)) else Config.parcelBeyond a)
    | .fail .. => .ok (Config.parcelBeyond a)
  else .ok (Config.parcelBeyond a)
/-- What stops an instruction, with all that its trap reports: for illegal-instruction the opcode parcel and the parcel after
it (R249), which a peer or the host may have to be asked for first. -/
def Stop.reported (h : Here) (s : State) (e : Stop) : Stop :=
  match e with
  | .trap 1 _ =>
    if h.scouting then e
    else match peekParcel s h h.i.opc, peekParcel s h (h.i.opc + 2) with
      | .error a, _ => a
      | _, .error a => a
      | .ok p, .ok q => .trap 1 ((p ++ q).setWidth 64)
  | _ => e

/-- An instruction that stops: no effect but that of the stop. Poison that is met is logged, that of the unified store with
the cluster's number as its source (R385, R392). -/
def stopped (h : Here) (s : State) : Stop → State
  | .trap cause info => takeTrap h (if cause = 7 && !h.scouting then s.log 4 h.g.cluster (some h.g.tag) info else s) cause info h.i.pc
  | .fault s' cause info => takeTrap h (if cause = 7 && !h.scouting then logPoison s' (some h.g.tag) info.toNat else s') cause info h.i.pc
  | .park s' code addr attr scout dests => takeFault h s' code addr attr scout dests
  | .stall r => stallOn h s (.resource r)
  | .scout => takeTrap h s 0 0 0
  | .ask s' => askOn h s'
  | .reissue s' k => stallOn h s' k

/-- Whether a stop issues the same instruction again. -/
def Stop.again : Stop → Bool
  | .stall _ => true
  | .ask _ => true
  | .reissue .. => true
  | _ => false

/-- An instruction that had been issued before, and has now been done with: the answers it waited for are dropped, but for
those of a faulting instruction, whose replay must not repeat what peers have performed. -/
def settle (h : Here) (s : State) : State :=
  if h.f.retry = none then s
  else modFibre (dropRefused s) h.i.wave h.i.fibre fun f =>
    if f.state = .parked then f else { f with retry := none, answers := [] }

/-- An instruction that does not complete: the stop, and the instruction done with unless it is issued again. -/
def refrain (h : Here) (s : State) (e : Stop) : State :=
  let x := e.reported h s
  if x.again then stopped h s x else settle h (stopped h s x)
/-- The accesses of the issuing fibre from here on are later than every write before them (R99, R100), and the map reads made for it are
later than what it has written itself. -/
def syncTime (h : Here) (old s : State) : State :=
  modFibre s h.i.wave h.i.fibre fun f => { f with time := s.logical, mapTime := if old.logical < s.logical then s.logical else f.mapTime }

/-- One issue of an instruction: its effect, or how it stops. -/
def perform (s : State) (k : Here → Except Stop State) : Host.Outcome State Fault Refusal :=
  match hereOf s with
  | none => .fault .noIssuer
  | some h =>
    match k h with
    | .ok s' => .next (settle h s')
    | .error e => .next (refrain h s e)
/-- One issue of an instruction that accesses memory or waits, other than a load of global memory, which takes its logical
time from what it reads (R100). -/
def performLate (s : State) (k : Here → Except Stop State) : Host.Outcome State Fault Refusal :=
  perform s fun h => (k h).map (syncTime h s)

/-- A step of the device that is no instruction. -/
def event (s : State) : Host.Outcome State Fault Refusal := .next s

end Sys2Proof.Machine
end

