-- ==== Sys2Proof/Machine/Sha.lean ====
section
/-! DEFINITION. SHA-384 (FIPS 180-4), which the result digest (R296), firmware checks (R389) and attestation (R391) name. Its
constants are computed as the standard derives them: from roots of the first primes. -/

namespace Sys2Proof.Machine

/-! ## Constants -/

/-- Whether a number is prime, by trial. -/
def isPrime (n : Nat) : Bool := decide (2 ≤ n) && (List.range n).all fun d => decide (d < 2) || n % d != 0
/-- The first 80 primes; 409 is the last of them. -/
def shaPrimes : List Nat := (List.range 410).filter isPrime
/-- The greatest `r` below `low + 2 ^ bits` with `r ^ k ≤ n`, found bit by bit. -/
def rootFrom (k n : Nat) : Nat → Nat → Nat
  | 0, low => low
  | bits + 1, low => rootFrom k n bits (if (low + 2 ^ bits) ^ k ≤ n then low + 2 ^ bits else low)
/-- The first 64 bits of the fraction of the `k`-th root of `p`, for a root below 32. -/
def rootFraction (k p : Nat) : Quad := BitVec.ofNat 64 (rootFrom k (p * 2 ^ (64 * k)) 69 0)
/-- The constant of each round: from the cube roots of the first 80 primes. -/
def shaConstants : List Quad := shaPrimes.map (rootFraction 3)
/-- The value before the first block: from the square roots of the ninth to the sixteenth prime. -/
def shaStart : List Quad := ((shaPrimes.drop 8).take 8).map (rootFraction 2)

/-! ## One block -/

/-- The exclusive or of a word turned right by several amounts. -/
def turns (x : Quad) (ns : List Nat) : Quad := ns.foldl (fun y n => y ^^^ x.rotateRight n) 0
/-- The schedule of a block: 64 words more, each made of earlier ones; the latest word stands first. -/
def shaExtend : Nat → List Quad → List Quad
  | 0, ws => ws
  | n + 1, ws =>
    let back (k : Nat) : Quad := ws.getD (k - 1) 0
    let near := turns (back 2) [19, 61] ^^^ (back 2 >>> 6)
    let far := turns (back 15) [1, 8] ^^^ (back 15 >>> 7)
    shaExtend n ((back 16 + far + back 7 + near) :: ws)
/-- One round over the eight working words `a` to `h`, with its constant and its word of the schedule added together. -/
def shaStep (v : List Quad) (x : Quad) : List Quad :=
  let w (k : Nat) : Quad := v.getD k 0
  let choice := (w 4 &&& w 5) ||| (~~~(w 4) &&& w 6)
  let majority := (w 0 &&& (w 1 ||| w 2)) ||| (w 1 &&& w 2)
  let t := x + w 7 + choice + turns (w 4) [14, 18, 41]
  [majority + turns (w 0) [28, 34, 39] + t, w 0, w 1, w 2, w 3 + t, w 4, w 5, w 6]
/-- The 64-bit words of 128 bytes, high byte first. -/
def shaWords (bs : List Byte) : List Quad :=
  (List.range 16).map fun k => BitVec.ofNat 64 (ofBytes (((bs.drop (8 * k)).take 8).reverse))
/-- One block taken into the value so far. -/
def shaAbsorb (value : List Quad) (block : List Byte) : List Quad :=
  let words := (shaExtend 64 (shaWords block).reverse).reverse
  let rounds := List.zipWith (fun k w => k + w) shaConstants words
  List.zipWith (fun old new => old + new) value (rounds.foldl shaStep value)

/-! ## A message -/

/-- A message as whole blocks: a 1 bit, zeros, and its length in bits as 128 bits. -/
def shaPadded (m : List Byte) : List Byte :=
  let used := m.length + 17
  m ++ [0x80] ++ List.replicate (ceilDiv used 128 * 128 - used) 0 ++ (toBytes 16 (8 * m.length)).reverse
/-- SHA-384 of a message: 48 bytes, in the order in which the standard writes them. -/
def sha384 (m : List Byte) : List Byte :=
  let p := shaPadded m
  let blocks := (List.range (p.length / 128)).map fun k => (p.drop (128 * k)).take 128
  ((blocks.foldl shaAbsorb shaStart).take 6).flatMap fun x => (toBytes 8 x.toNat).reverse

end Sys2Proof.Machine
end

