-- ==== Sys2Proof/Machine/Finish.lean ====
section
/-! DEFINITION. What follows an instruction or a unit's work: results that land late, ring entries (R284, R301), waits that
end (R33), fibre barriers (R30), gangs that retire (R42) and launches that complete (R43, R296, R297, R355). -/

namespace Sys2Proof.Machine

/-! ## Records about a status (R351) -/

/-- PATTR of a page (R350). -/
def pattr (row level : Nat) (readOnly writes : Bool) : Nat := (if row = 3 then 3 else level % 4) + 4 * bit writes + 8 * bit readOnly
/-- The code of a row (R351). -/
def rowCode : Nat → Nat
  | 3 => 13
  | 4 => 8
  | 5 => 14
  | 6 => 7
  | _ => 6
/-- A record about an access that failed with a status: its page, but for ABSENT (R351). -/
def statusRecord (s : State) (tag row level : Nat) (readOnly writes : Bool) (addr : Nat) (launch : Quad) : Record :=
  { code := rowCode row, status := rowStatus row, tag, time := s.calends, info := BitVec.ofNat 64 addr, launch
    pages := if row = 4 then [] else [{ page := pageOf addr, attr := pattr row level readOnly writes }] }

/-! ## Results that land late -/

/-- One register written in the lanes of a unit's result; a checkpoint that holds the register takes it as well (R54, R56). -/
def landWrite (hdr : Header) (f : Nat) (x : PendingWrite) (w : Wave) : Wave :=
  let put (old : Row) : Row := mixRow x.lanes (fun i => x.row.getD i 0) fun i => old.getD i 0
  if x.sup then { w with supV := modAt w.supV x.reg put }
  else
    let lo := (hdr.winOf f).1
    let keep (c : Checkpoint) : Checkpoint := if lo ≤ x.reg then { c with regs := modAt c.regs (x.reg - lo) put, bad := cleared c.bad x.reg x.lanes } else c
    { w with
      alloc := modAt w.alloc x.reg put
      bad := cleared w.bad x.reg x.lanes
      fibres := modAt w.fibres f fun y => { y with
        scout := y.scout.map fun c => { c with cp := keep c.cp }
        park := y.park.map fun p => (keep p.1, p.2) } }
/-- The header of the gang a wave belongs to. -/
def headerOf (s : State) (g : Nat) : Header :=
  match get? s.gangs g with
  | some x => x.hdr
  | none => { addr := 0, regs := 0, fibres := 0, members := 0, scratch := 0, acc := 0, stages := [], waves := [], win := [], shared := [], entry := [], coff := 0, clen := 0, dict := [] }
/-- A unit's result lands in its registers. -/
def landResult (s : State) (w r : Nat) : State :=
  match get? s.waves w with
  | none => s
  | some x =>
    match get? x.pending r with
    | none => s
    | some p =>
      let hdr := headerOf s x.gang
      modWave s w fun y => p.writes.foldl (fun y q => landWrite hdr p.fibre q y) { y with pending := del y.pending r }
/-- Every result that a fibre still awaits lands. -/
def landAll (s : State) (w f : Nat) : State :=
  match get? s.waves w with
  | none => s
  | some x => (keysWhere x.pending fun p => p.fibre == f).foldl (fun s r => landResult s w r) s

/-! ## Entries of the Vigil and Harvest rings -/

/-- What writing a ring entry came to. -/
inductive Wrote where
  | done | failed | pending
  deriving DecidableEq, Repr

/-- Several writes of the device made as one and written back at once, in their order (R363). -/
def announce (s : State) (ps : List (Nat × List Byte)) : State × Wrote :=
  let w := writeAll s ps
  match w.2 with
  | .ok _ => (ps.foldl (fun s p => flushRange s p.1 p.2.length) w.1, .done)
  | .fail .. => (w.1, .failed)
  | .pending => (w.1, .pending)

/-- A counter of a control block raised by 1, saturating. -/
def raisedCount (a old : Nat) : Nat × List Byte := (a, toBytes 4 (min (old + 1) 0xFFFFFFFF))

/-- The writes of a Vigil record for a control block as it was read (R301): the record and WR in one access, and DROP when
they cannot be made. -/
def vigilParts (block : Nat) (bs body : List Byte) : List (Nat × List Byte) × List (Nat × List Byte) :=
  let ring := numAt bs 0 8
  let size := numAt bs 8 4
  let wr := numAt bs 16 4
  let drop := [raisedCount (block + 24) (numAt bs 24 4)]
  if block % 48 != 0 || ring % 32 != 0 || decide (size < 4) || decide (24 < size) || numAt bs 12 4 != 0 || numAt bs 28 20 != 0 then (drop, [])
  else if 2 ^ size ≤ (wr + 2 ^ 32 - numAt bs 20 4) % 2 ^ 32 then (drop, [])
  else ([(ring + 32 * (wr % 2 ^ size), body), (block + 16, toBytes 4 (wr + 1))], drop)

/-- The key of a Harvest entry in a filter (R284). -/
def harvestKey (tag : Nat) (desc : Quad) (level tile : Nat) : Nat := tile + 2 ^ 32 * (level + 2 ^ 8 * (tag + 2 ^ 6 * desc.toNat))
/-- Whether a TXU's filter holds a key. -/
def inFilter (s : State) (txu key : Nat) : Bool := ((get? s.filters txu).getD []).contains key
/-- A key inserted in a TXU's filter of 64 (R284). -/
def insertKey (s : State) (txu key : Nat) : State :=
  let old := (get? s.filters txu).getD []
  { s with filters := put s.filters txu ((old ++ [key]).drop (old.length - 63)) }
/-- The writes of a Harvest entry for a control block as it was read (R284): the entry with the block's WR and FLAG, or OVF
and FLAG when the ring is full; none for an invalid block. The flag says that the entry is logged. -/
def harvestParts (block : Nat) (bs entry : List Byte) : Option (List (Nat × List Byte) × Bool) :=
  let ring := numAt bs 0 8
  let size := numAt bs 8 4
  let wr := numAt bs 16 4
  if block % 48 != 0 || ring % 16 != 0 || decide (size < 3) || decide (20 < size) || numAt bs 12 4 != 0 || numAt bs 32 16 != 0 then none
  else if (wr + 2 ^ 32 - numAt bs 20 4) % 2 ^ 32 < 2 ^ size then
    some ([(ring + 16 * (wr % 2 ^ size), entry), (block + 28, toBytes 4 (numAt bs 28 4 % 2)), (block + 16, toBytes 4 (wr + 1))], true)
  else some ([raisedCount (block + 24) (numAt bs 24 4), (block + 28, toBytes 4 1)], false)

/-- What a ring entry comes to next: another one in its place, nothing, or a wait for the host or a peer. -/
inductive NoteStep where
  | next (n : Note)
  | over
  | pending
/-- One step of a ring entry: its control block is read, then its writes are made (R284, R301). -/
def noteStep (s : State) (n : Note) : State × NoteStep :=
  match n with
  | .vigil tag w f body =>
    let block := ((get? s.contexts tag).map (·.vigil.toNat)).getD 0
    if block = 0 then (s, .over)
    else
      let b := readRange s none block 48 0
      match b.2 with
      | .pending => (b.1, .pending)
      | .fail .. => (b.1, .over)
      | .ok bs => let p := vigilParts block bs body; (b.1, .next (.writing p.1 p.2 (some (w, f)) none))
  | .harvest tag txu desc level tile =>
    let block := ((get? s.contexts tag).map (·.harvest.toNat)).getD 0
    if block = 0 || inFilter s txu (harvestKey tag desc level tile) then (s, .over)
    else
      let b := readRange s none block 48 0
      match b.2 with
      | .pending => (b.1, .pending)
      | .fail .. => (b.1, .over)
      | .ok bs =>
        match harvestParts block bs (toBytes 8 desc.toNat ++ toBytes 4 tile ++ toBytes 4 (level + 2 ^ 8 * tag)) with
        | none => (b.1, .over)
        | some p => (b.1, .next (.writing p.1 [] none (if p.2 then some (txu, harvestKey tag desc level tile) else none)))
  | .writing parts instead who key =>
    let e := announce s parts
    match e.2 with
    | .pending => (e.1, .pending)
    | .failed => (e.1, if instead = [] then .over else .next (.writing instead [] who none))
    | .done => (match key with | some k => insertKey e.1 k.1 k.2 | none => e.1, .over)
/-- The ring entries on their way written in order; one that waits for the host or a peer keeps the others behind it. -/
def drainNotes (s : State) : State :=
  let rec go (fuel : Nat) (s : State) : State :=
    match fuel, s.notes with
    | 0, _ => s
    | _, [] => s
    | f + 1, n :: rest =>
      let r := noteStep s n
      match r.2 with
      | .pending => r.1
      | .next m => go f { r.1 with notes := m :: rest }
      | .over => go f { r.1 with notes := rest }
  go (4 * s.notes.length) s

/-! ## The Vigil log (R299 to R301) -/

/-- One fold of the checksum (R300). -/
def fold64 (h x : Nat) : Nat := (h ^^^ x) * 0x00000100000001B3 % 2 ^ 64
/-- The checksum of a fibre's private state (R300). -/
def checksum (hdr : Header) (w : Wave) (f : Fibre) (k : Nat) : Nat :=
  let win := hdr.winOf k
  let regs := ((List.range (win.2 - win.1)).map fun j => win.1 + j).filter fun a => !(hdr.isShared a)
  let h := laneOrder.foldl (fun h i =>
    let h1 := if f.exited.getLsbD i then fold64 (fold64 h 0) 0
      else fold64 (fold64 h (f.pc i).low.toNat) (f.pc i).high.toNat
    regs.foldl (fun h a => fold64 h ((w.alloc.getD a []).getD i 0).toNat) h1) 0x6A09E667F3BCC908
  (List.range 8).foldl (fun h j => fold64 h (f.m.getD j 0).toNat) h

/-- Whether a private register of a fibre holds poison (R392). -/
def privatePoison (hdr : Header) (w : Wave) (k : Nat) : Bool :=
  let win := hdr.winOf k
  w.bad.any fun m => m.2 != 0 && decide (win.1 ≤ m.1 ∧ m.1 < win.2) && !(hdr.isShared m.1)
/-- The checksum that a Vigil record of a fibre carries. Of a private register that holds poison the spec states no value that it
could be folded with: the checksum is then a free value, and the poison is logged (R300, R392, R393, DESIGN CHOICE, log 63). -/
def vigilChecksum (s : State) (hdr : Header) (cluster tag : Nat) (w : Wave) (f : Fibre) (k : Nat) (addr : Quad) : State × Nat :=
  if privatePoison hdr w k then let c := (s.log 4 cluster (some tag) addr).takeFree; (c.1, c.2.toNat) else (s, checksum hdr w f k)
/-- A Vigil record of a fibre, when its launch is in replay mode and its context names a control block (R299, R301). -/
def vigilRecord (s : State) (w k kind tag : Nat) (addr : Quad) : State :=
  let wanted := ((get? s.waves w).bind fun x => get? s.gangs x.gang).any fun g =>
    ((get? s.launches g.launch).any (·.replay)) && (get? s.contexts g.tag).any fun c => c.vigil != 0
  if !wanted then s
  else
    let s := landAll s w k
    match get? s.waves w with
    | none => s
    | some x =>
      match get? s.gangs x.gang with
      | none => s
      | some g =>
        let f := x.fibres.getD k Fibre.blank
        let c := vigilChecksum s g.hdr g.cluster g.tag x f k addr
        let body := toBytes 8 c.2 ++ toBytes 8 addr.toNat ++ toBytes 4 g.index ++ toBytes 4 f.vigil
          ++ toBytes 2 (wmfOf x k) ++ toBytes 1 kind ++ toBytes 1 tag ++ toBytes 4 0
        drainNotes { modFibre c.1 w k (fun f => { f with vigil := f.vigil + 1 }) with notes := s.notes ++ [.vigil g.tag w k body] }

/-! ## A wait that ends (R33, R45) -/

/-- The state after a wait, for a fibre that held its slot or not; a halted fibre takes it on resume. -/
def Fibre.afterWait (f : Fibre) : Fibre :=
  let next (x : FibreState) : FibreState := match x with
    | .stalled => f.holdState
    | .waiting => .ready
    | .fbarrier => .ready
    | y => y
  if f.state = .halted then { f with before := next f.before } else { f with state := next f.state }
/-- A status written to the wait's status register, in the file of the mode in which the wait was made (R33, R244). -/
def writeStatus (s : State) (w k : Nat) (x : Wait) (st : Nat) : State :=
  if x.sup then modWave s w fun y => { y with supS := setAt y.supS x.st (BitVec.ofNat 32 st) }
  else modFibre s w k fun f => { f with s := setAt f.s x.st (BitVec.ofNat 32 st) }
/-- The fibre is done with its wait: its group stands at the next address, and what it accesses from here on is later than
every write before (R99). A fibre that is ready takes a slot without a holder at the end of the clk (R28). -/
def leaveWait (s : State) (w k : Nat) (x : Wait) : State :=
  let s1 := match x.monitor with | some m => { s with monitors := del s.monitors m } | none => s
  modFibre (cancelMonitor s1 w k) w k fun f =>
    { (f.setPcs x.lanes fun _ => x.next).afterWait with wait := none, time := s.logical }
/-- A wait ends with a status. -/
def endWait (s : State) (w k : Nat) (x : Wait) (st : Nat) : State := leaveWait (writeStatus s w k x st) w k x

/-! ## Fibre barriers (R30) -/

/-- The mask with which a fibre waits at a fibre barrier. -/
def Fibre.barrierMask (f : Fibre) : Option (BitVec 4) :=
  match f.wait with
  | some x => match x.kind with | .fbar m => some m | _ => none
  | none => none
/-- Whether a fibre barrier is complete: every named fibre is absent, DONE, or has arrived with the same mask. -/
def barrierComplete (w : Wave) (mask : BitVec 4) : Bool :=
  (List.range 4).all fun k => !(mask.getLsbD k) ||
    match w.fibres[k]? with
    | none => true
    | some f => f.state == .done || f.barrierMask == some mask
/-- Every arrival of a complete barrier receives OK, and its Vigil record is made (R30, R299). -/
def completeBarrier (s : State) (w : Nat) (mask : BitVec 4) : State :=
  (List.range 4).foldl (fun s k =>
    let f := fibreAt s w k
    match f.wait with
    | some x =>
      if f.barrierMask = some mask && mask.getLsbD k then
        let s1 := endWait s w k x 0
        if x.sup then s1 else vigilRecord s1 w k 2 0 x.pc
      else s
    | none => s) s
/-- The fibre barriers of a wave that have become complete. -/
def settleBarriers (s : State) (w : Nat) : State :=
  (List.range 4).foldl (fun s k =>
    match (fibreAt s w k).barrierMask, get? s.waves w with
    | some m, some x => if barrierComplete x m then completeBarrier s w m else s
    | _, _ => s) s

/-! ## Completion of a launch (R43) -/

/-- Step 1: the system-shared lines that the launch wrote are written back (R43, R118); the first that cannot be is named. -/
def writeBackLaunch (s : State) (l : Nat) : State × Option Unwritten :=
  let mine (ws : List (Nat × Nat × Nat)) : Bool := ws.any fun x => x.1 == l
  let s1 := writeBackHost s fun _ h => mine h.writers
  writeBackSectors s1 (keysWhere s1.l2 fun d => d.sys && mine d.writers)
/-- PATTR of the page that keeps a line from being written back (R350). -/
def Unwritten.attr (u : Unwritten) : Nat := pattr 5 u.level u.readOnly true
/-- A held completion step posts its record, with a token (R355). -/
def holdStep (s : State) (l : Nat) (x : Launch) (u : Unwritten) : State :=
  let t := takeToken s
  let r : Record := { code := 14, replayable := true, status := 14, tag := x.tag, time := s.calends, info := BitVec.ofNat 64 u.addr,
                      token := t.2, pages := [{ page := pageOf u.addr, attr := u.attr }], launch := x.desc }
  postRecord { t.1 with launches := upd t.1.launches l fun y => { y with heldStep := some r } } .queueManager r

/-- The output ranges of a launch that are used (R296). -/
def Launch.ranges (x : Launch) : List (Quad × Quad) := x.outs.filter fun o => o.2 != 0
/-- Their units, in the order of the digest. -/
def Launch.outUnits (x : Launch) : List (Nat × Nat) := x.ranges.flatMap fun o => unitsIn o.1.toNat o.2.toNat
/-- The message of the result digest (R296): each range's start, its length, its bytes. -/
def digestMessage : List (Quad × Quad) → List Byte → List Byte
  | [], _ => []
  | o :: t, bs => toBytes 8 o.1.toNat ++ toBytes 8 o.2.toNat ++ bs.take o.2.toNat ++ digestMessage t (bs.drop o.2.toNat)
/-- The unit that decides: the first whose status is the greatest (R351). -/
def decidingUnit (bad : List BadUnit) : Option BadUnit :=
  let top := greatest (bad.map fun u => rowStatus u.2.1)
  bad.find? fun u => rowStatus u.2.1 == top

/-- The launch goes to a step of its completion. -/
def toPhase (s : State) (l n : Nat) : State := { s with launches := upd s.launches l fun y => { y with phase := n } }
/-- The peers that a store of a launch has reached are among those that it has written at. -/
def noteFarStore (s : State) (l a n : Nat) : State :=
  (unitsIn a n).foldl (fun s u => match placeOf s u.1 with | .peer d _ => noteFar s (l, 0, 0) d | _ => s) s
/-- A store of the device for a completion step; a failure posts a record (R297, R338). -/
def completionStore (s : State) (l : Nat) (x : Launch) (a : Nat) (bs : List Byte) : State × Wrote :=
  let w := writeRange s a bs
  match w.2 with
  | .ok _ => (noteFarStore (flushRange w.1 a bs.length) l a bs.length, .done)
  | .fail row level ro u => (postRecord w.1 .queueManager (statusRecord w.1 x.tag row level ro true u x.desc), .failed)
  | .pending => (w.1, .pending)

/-- Step 2: the digest of the output ranges, read as they lie, is stored; after a unit that failed, sixteen zero bytes are
(R296, R297). -/
def digestStep (s : State) (l : Nat) (x : Launch) : State × Bool :=
  let m := readUnits s (some x.tag) x.outUnits rightRead true
  if m.2.wait then (m.1, false)
  else
    let bs := match m.2.bad with | [] => (sha384 (digestMessage x.ranges m.2.bytes)).take 16 | _ => List.replicate 16 0
    let w := completionStore m.1 l x x.digestVa.toNat bs
    match w.2 with
    | .pending => (w.1, false)
    | _ =>
      let s0 := forgetUnits w.1 x.outUnits true
      let s1 := match decidingUnit m.2.bad with
        | some u => postRecord s0 .queueManager (statusRecord s0 x.tag u.2.1 u.2.2.1 u.2.2.2 false u.1 x.desc)
        | none => s0
      (toPhase s1 l 3, true)

/-- The launch is complete: DONE rises, and interrupts when the queue asks for it (R338). -/
def finishLaunch (s : State) (l : Nat) (x : Launch) : State :=
  let q := queueOf s x.queue
  let s0 := { s with launches := del s.launches l, far := s.far.filter fun f => f.launch != l }
  let s1 := checkOverrun (setQueue s0 x.queue (settled s0 x.queue { q with done := q.done + 1 })) x.queue
  if q.irq then raiseQm s1 2#2 else s1

/-- The steps of R43, as far as they can go now. -/
def completeLaunch (s : State) (l : Nat) : State :=
  let rec go (fuel : Nat) (s : State) : State :=
    match fuel, get? s.launches l with
    | 0, _ => s
    | _, none => s
    | f + 1, some x =>
      if x.heldStep.isSome then s
      else match x.phase with
        | 0 => if x.retired = x.gx * x.gy * x.gz then go f (toPhase s l 1) else s
        | 1 =>
          let w := writeBackLaunch s l
          match w.2 with
          | some u => holdStep w.1 l x u
          | none =>
            let t := flushLaunch w.1 l
            if t.far.any fun f => f.launch == l then t else go f (toPhase t l (if x.digest then 2 else 3))
        | 2 =>
          let d := digestStep s l x
          if d.2 then go f d.1 else d.1
        | 3 =>
          if x.signalVa = 0 then go f (toPhase s l 4)
          else
            let w := completionStore s l x x.signalVa.toNat (toBytes 8 x.signalValue.toNat)
            match w.2 with
            | .pending => w.1
            | _ => go f (toPhase w.1 l 4)
        | _ =>
          -- what these steps have stored at peers reaches their hosts as well
          let t := flushLaunch s l
          if t.far.any fun f => f.launch == l then t else finishLaunch t l x
  go 6 s

/-! ## Retirement (R42) -/

/-- A gang all of whose strands have exited and whose operations have completed retires. -/
def retire (s : State) (g : Nat) : State :=
  match get? s.gangs g with
  | none => s
  | some x =>
    let ws := s.waves.filter fun p => p.2.gang == g
    if ws.all (fun p => p.2.fibres.all fun f => f.state == .done) && !(s.ops.any fun p => p.2.gang == g) then
      let s1 := removeGang s g
      completeLaunch { s1 with launches := upd s1.launches x.launch fun l => { l with retired := l.retired + 1 } } x.launch
    else s

/-- A fibre becomes DONE (R45): its barriers may be complete, its slot passes as the hint selects, its gang may retire. -/
def fibreDone (s : State) (w k hint : Nat) : State :=
  let g := ((get? s.waves w).map (·.gang)).getD 0
  let s1 := modFibre s w k fun f => { f with state := .done, wait := none, exited := BitVec.allOnes 32, park := none, scout := none }
  retire (leaveSlot (settleBarriers s1 w) w k hint) g

end Sys2Proof.Machine
end

