-- ==== Sys2Proof/Machine/Operands.lean ====
section
/-! DEFINITION. Every operand form: operand codes (R57), literals (R58), uniform sources (R59), windows (R53), the
supervisor file (R244), pairs (R52, R151), mask fields, and how a destination is written. Codes that no form accepts
are refused before a window is looked at. -/

namespace Sys2Proof.Machine

/-- A source across the lanes; `low` and `high` say where a half of it is invalid (R168, R183). -/
structure Src (α : Type) where
  val  : Nat → α
  low  : Nat → Bool := fun _ => false
  high : Nat → Bool := fun _ => false

/-- Whether any half of a source is invalid at a lane. -/
def Src.bad {α : Type} (x : Src α) (i : Nat) : Bool := x.low i || x.high i

/-! ## What a field may hold -/

/-- A source field without U: a register, a special code, or 126 when a literal is there (R57, R58). -/
def srcOk (c : BitVec 7) (lit : Option Word) : Bool := decide (c.toNat ≤ 125) || (c == 126#7 && lit.isSome)
/-- An `s` register field (R59); in supervisor mode only s0 to s15 exist (R244). -/
def Here.sregOk (h : Here) (n : Nat) : Bool := decide (n < if h.i.sup then 16 else 64)
/-- A source field with its uniform bit (R59). -/
def Here.srcUOk (h : Here) (c : BitVec 7) (u : Bool) (lit : Option Word) : Bool := if u then h.sregOk c.toNat else srcOk c lit
/-- A field that names an even pair when it names registers (R52). -/
def evenOk (c : BitVec 7) : Bool := decide (120 ≤ c.toNat) || c.toNat % 2 == 0
/-- A 64-bit source field with its uniform bit (R151). -/
def Here.pairUOk (h : Here) (c : BitVec 7) (u : Bool) (lit : Option Word) : Bool :=
  h.srcUOk c u lit && (if u then c.toNat % 2 == 0 else evenOk c)
/-- A destination field (R57). -/
def dstOk (c : BitVec 7) : Bool := decide (c.toNat ≤ 120)
/-- A 64-bit destination field (R151). -/
def dst64Ok (c : BitVec 7) : Bool := dstOk c && evenOk c
/-- A field that names a mask (R156). -/
def maskOk (c : BitVec 7) : Bool := decide (c.toNat < 8)

/-! ## Registers through the window -/

/-- The register that a window number names: the allocation register of R53, or a register of the supervisor file (R244).
A register that still awaits a unit's result stalls (R29, R56). -/
def Here.resolve (h : Here) (c : Nat) : Except Stop Nat :=
  let r := if h.i.sup then c else h.f.wbase + c
  if (if h.i.sup then decide (32 ≤ c) else decide ((h.g.hdr.winOf h.i.fibre).2 ≤ r)) then
    .error (.trap 2 (BitVec.ofNat 64 r))
  else if h.w.pending.any fun p => p.2.writes.any fun x => x.sup == h.i.sup && x.reg == r then
    .error (.stall (.register h.i.sup r))
  else .ok r

/-- Marks of a register in scout mode. -/
def Here.lowMark (h : Here) (r lane : Nat) : Bool :=
  match h.f.scout with | some c => ((get? c.lowBad r).getD 0).getLsbD lane | none => false
def Here.highMark (h : Here) (r lane : Nat) : Bool :=
  match h.f.scout with | some c => ((get? c.highBad r).getD 0).getLsbD lane | none => false
def Here.sMark (h : Here) (n : Nat) : Bool :=
  match h.f.scout with | some c => c.sBad.contains n | none => false
def Here.mMark (h : Here) (m lane : Nat) : Bool :=
  match h.f.scout with | some c => ((get? c.mBad m).getD 0).getLsbD lane | none => false

/-- A register as a source. -/
def Here.regSrc (h : Here) (r : Nat) : Src Word :=
  { val := h.reg r, low := h.lowMark r, high := h.highMark r }
/-- Whether an error in the unified store has poisoned a register in a lane of the group (R392). -/
def Here.poisoned (h : Here) (r : Nat) : Bool := !h.i.sup && ((get? h.w.bad r).getD 0) &&& h.i.lanes != 0
/-- A register read as a source; one that is poisoned traps (R392), `trap.info` naming it (DESIGN CHOICE, log 27). -/
def Here.readReg (h : Here) (c : Nat) : Except Stop (Src Word) := do
  let r ← h.resolve c
  if h.poisoned r then .error (.trap 7 (BitVec.ofNat 64 r)) else .ok (h.regSrc r)
/-- Registers that a form reads without a source field of their own hold no poison (R392). -/
def Here.clean (h : Here) (rs : List Nat) : Except Stop Unit :=
  match rs.find? h.poisoned with
  | some r => .error (.trap 7 (BitVec.ofNat 64 r))
  | none => .ok ()
/-- An `s` register as a source. -/
def Here.sSrc (h : Here) (n : Nat) : Src Word :=
  { val := fun _ => h.sreg n, low := fun _ => h.sMark n, high := fun _ => h.sMark n }

/-- The coordinates that operand codes 120 to 125 name (R57, R16). -/
def Here.special (h : Here) (c lane : Nat) : Nat :=
  match c with
  | 121 => 32 * h.w.index + lane
  | 122 => lane
  | 123 => h.w.slot
  | 124 => h.i.fibre
  | 125 => h.g.hdr.stages.getD h.w.member 0
  | _ => 0

/-! ## Sources -/

/-- A 32-bit source field without U (R151). -/
def Here.src (h : Here) (c : BitVec 7) (lit : Option Word) : Except Stop (Src Word) :=
  if c.toNat < 120 then h.readReg c.toNat
  else match lit with
    | some x => .ok { val := fun _ => x }
    | none => .ok { val := fun i => BitVec.ofNat 32 (h.special c.toNat i) }
/-- A 32-bit source field with its uniform bit (R59, R151). -/
def Here.srcU (h : Here) (c : BitVec 7) (u : Bool) (lit : Option Word) : Except Stop (Src Word) :=
  if u then .ok (h.sSrc c.toNat) else h.src c lit

/-- Two registers as one 64-bit source. -/
def pairSrc (x y : Src Word) : Src Quad :=
  { val := fun i => pair (x.val i) (y.val i), low := fun i => x.bad i || y.bad i }
/-- A 64-bit source field with its uniform bit: a pair, a sign-extended literal, or a zero-extended coordinate (R151). -/
def Here.src64 (h : Here) (c : BitVec 7) (u : Bool) (lit : Option Word) : Except Stop (Src Quad) :=
  if u then .ok (pairSrc (h.sSrc c.toNat) (h.sSrc (c.toNat + 1)))
  else if c.toNat < 120 then do
    let x ← h.readReg c.toNat
    let y ← h.readReg (c.toNat + 1)
    .ok (pairSrc x y)
  else match lit with
    | some x => .ok { val := fun _ => x.signExtend 64 }
    | none => .ok { val := fun i => BitVec.ofNat 64 (h.special c.toNat i) }

/-- The old value of a destination that is also a source: code 120 reads 0 (R152). -/
def Here.oldDst (h : Here) (c : BitVec 7) : Except Stop (Src Word) :=
  if c.toNat < 120 then h.readReg c.toNat else .ok { val := fun _ => 0 }

/-! ## Destinations -/

/-- The register of a destination field; none discards the result (R57). -/
def Here.dst (h : Here) (c : BitVec 7) : Except Stop (Option Nat) :=
  if c.toNat < 120 then (h.resolve c.toNat).map some else .ok none
/-- The registers from a destination field on, `n` of them; none discards. -/
def Here.dstN (h : Here) (c : BitVec 7) (n : Nat) : Except Stop (List Nat) :=
  if c.toNat < 120 then (List.range n).mapM fun k => h.resolve (c.toNat + k) else .ok []

/-- A 32-bit result written; a result with an invalid source is invalid whole (R168). -/
def put32 (h : Here) (s : State) (d : Option Nat) (lanes : Lanes) (x : Src Word) : State :=
  match d with
  | some r => writeReg h s r lanes x.val x.low x.high
  | none => s
/-- A 64-bit result written to its registers, low word first. -/
def put64 (h : Here) (s : State) (d : List Nat) (lanes : Lanes) (x : Src Quad) : State :=
  match d with
  | [r, q] =>
    writeReg h (writeReg h s r lanes (fun i => (x.val i).low) x.bad x.bad) q lanes (fun i => (x.val i).high) x.bad x.bad
  | _ => s

/-- The result of a function of one source, invalid where the source is. -/
def Src.map {α β : Type} (f : α → β) (x : Src α) : Src β := { val := fun i => f (x.val i), low := x.bad, high := x.bad }
/-- The result of a function of two sources. -/
def Src.map2 {α β γ : Type} (f : α → β → γ) (x : Src α) (y : Src β) : Src γ :=
  { val := fun i => f (x.val i) (y.val i), low := fun i => x.bad i || y.bad i, high := fun i => x.bad i || y.bad i }
/-- The result of a function of three sources. -/
def Src.map3 {α β γ δ : Type} (f : α → β → γ → δ) (x : Src α) (y : Src β) (z : Src γ) : Src δ :=
  { val := fun i => f (x.val i) (y.val i) (z.val i)
    low := fun i => x.bad i || y.bad i || z.bad i, high := fun i => x.bad i || y.bad i || z.bad i }

/-! ## Predicates -/

/-- The strands that perform (R150). In scout mode an invalid predicate bit of the group ends the run (R168). -/
def Here.performing (h : Here) (p : BitVec 3) : Except Stop Lanes :=
  if h.scouting && p != 0 && (lanesIn h.i.lanes).any (h.mMark p.toNat) then .error .scout else .ok (h.perf p)

/-- A deadline pair `dl` as the issue reads it (R31, R132); in supervisor mode only pairs 0 to 7 exist (R244). -/
def Here.deadlineOk (h : Here) (dl : BitVec 5) : Bool := h.sregOk (2 * dl.toNat + 1)
def Here.deadline (h : Here) (dl : BitVec 5) : Deadline := readDeadline (h.spair (2 * dl.toNat))

end Sys2Proof.Machine
end

