-- ==== Sys2Proof/Machine/Flags.lean ====
section
/-! DEFINITION. The flag computations: the device keeps no flags but its masks, so these are the truths that compares
leave in mask bits (R134, R155, R173), their accumulation, and how a mask bit is written. -/

namespace Sys2Proof.Machine

/-- A COND code over two integers of `w` bits (R134, R155); code 7 is no condition. -/
def intCond (sgn : Bool) (w : Nat) (cond : BitVec 3) (a b : Nat) : Bool :=
  let x : Int := if sgn then signed w a else a
  let y : Int := if sgn then signed w b else b
  match cond.toNat with
  | 0 => decide (x = y)
  | 1 => decide (x ≠ y)
  | 2 => decide (x < y)
  | 3 => decide (x ≤ y)
  | 4 => decide (y < x)
  | 5 => decide (y ≤ x)
  | _ => a &&& b != 0

/-- A compare's truth written to its mask, or ANDed into it when ACC is 1 (R155); an invalid source makes the bit invalid (R168). -/
def putTruth (h : Here) (s : State) (mask : BitVec 3) (acc : Bool) (lanes : Lanes) (r bad : Nat → Bool) : State :=
  let old (i : Nat) : Bool := (h.mask mask.toNat).getLsbD i
  writeMask h s mask.toNat lanes (fun i => if acc then old i && r i else r i)
    (fun i => bad i || (acc && h.mMark mask.toNat i))

/-- A bit-wise operation over two masks, lane by lane (R156). -/
def maskOp (f : Bool → Bool → Bool) (a b : Lanes) (i : Nat) : Bool := f (a.getLsbD i) (b.getLsbD i)

end Sys2Proof.Machine
end

