-- ==== Sys2Proof/Machine/IntAlu.lean ====
section
/-! DEFINITION. Integer, address and mask instructions (R150 to R159): opcodes 0x00 to 0x1B. -/

namespace Sys2Proof.Machine

abbrev Outcome := Host.Outcome State Fault Refusal

/-! ## Arithmetic of one strand -/

def mulhiS (a b : Word) : Word := BitVec.ofInt 32 (a.toInt * b.toInt / 2 ^ 32)
def mulhiN (a b : Word) : Word := BitVec.ofNat 32 (a.toNat * b.toNat / 2 ^ 32)
/-- Shifts read the whole amount; from the width on nothing of the operand is left (R152, R154). -/
def shiftLeft {w : Nat} (a : BitVec w) (n : Nat) : BitVec w := if n < w then a <<< n else 0
def shiftRight {w : Nat} (a : BitVec w) (n : Nat) : BitVec w := if n < w then a >>> n else 0
def shiftRightS {w : Nat} (a : BitVec w) (n : Nat) : BitVec w := a.sshiftRight (min n (w - 1))
def minS (a b : Word) : Word := if a.toInt ≤ b.toInt then a else b
def maxS (a b : Word) : Word := if a.toInt ≤ b.toInt then b else a
def minN (a b : Word) : Word := if a.toNat ≤ b.toNat then a else b
def maxN (a b : Word) : Word := if a.toNat ≤ b.toNat then b else a
def clampS (x : Int) : Word := BitVec.ofInt 32 (clampInt (-(2 ^ 31)) (2 ^ 31 - 1) x)
def addsS (a b : Word) : Word := clampS (a.toInt + b.toInt)
def subsS (a b : Word) : Word := clampS (a.toInt - b.toInt)
def addsN (a b : Word) : Word := BitVec.ofNat 32 (min (a.toNat + b.toNat) 0xFFFFFFFF)
def subsN (a b : Word) : Word := BitVec.ofNat 32 (a.toNat - b.toNat)
def absdN (a b : Word) : Word := BitVec.ofNat 32 (max a.toNat b.toNat - min a.toNat b.toNat)

/-- The field that a field control names: its first bit and the bit after its last (R153). -/
def fieldPos (b : Word) : Nat := bitsOf b.toNat 4 0
def fieldEnd (b : Word) : Nat := min 32 (fieldPos b + min 32 (bitsOf b.toNat 13 8))
/-- The field of `a`, 0 when it is empty (R153). -/
def fieldOf (a b : Word) : Nat := a.toNat / 2 ^ fieldPos b % 2 ^ (fieldEnd b - fieldPos b)
def bfxN (a b : Word) : Word := BitVec.ofNat 32 (fieldOf a b)
def bfxS (a b : Word) : Word := BitVec.ofInt 32 (signed (fieldEnd b - fieldPos b) (fieldOf a b))
/-- `a`'s low bits put into the field of `d` (R153). -/
def bfi (a b d : Word) : Word :=
  let w := fieldEnd b - fieldPos b
  BitVec.ofNat 32 (d.toNat - fieldOf d b * 2 ^ fieldPos b + a.toNat % 2 ^ w * 2 ^ fieldPos b)

def mulwN (a b : Word) : Quad := BitVec.ofNat 64 (a.toNat * b.toNat)
def mulwS (a b : Word) : Quad := BitVec.ofInt 64 (a.toInt * b.toInt)
def adda (a : Quad) (b : Word) : Quad := a + b.signExtend 64

def popc (a : Word) : Word := BitVec.ofNat 32 (lanesIn a).length
def clz (a : Word) : Word := BitVec.ofNat 32 (31 - (match (lanesIn a).getLast? with | some i => (i : Int) | none => -1)).toNat
def ctz (a : Word) : Word := BitVec.ofNat 32 ((lanesIn a).headD 32)
def brev (a : Word) : Word := maskOf fun i => a.getLsbD (31 - i)
def absS (a : Word) : Word := if a.toInt < 0 then -a else a
def sxb (a : Word) : Word := (a.setWidth 8).signExtend 32
def sxh (a : Word) : Word := (a.setWidth 16).signExtend 32

/-! ## Forms -/

/-- TRI on 32-bit values (R152): the performing strands write `f` of a and b. -/
def triForm (f : Word → Word → Word) (o : Tri) (s : State) : Outcome :=
  perform s fun h => do
    orIllegal (srcOk o.a none && h.srcUOk o.b o.u o.lit && dstOk o.dst)
    let lanes ← h.performing o.p
    let d ← h.dst o.dst
    let a ← h.src o.a none
    let b ← h.srcU o.b o.u o.lit
    .ok (advance h (put32 h s d lanes (Src.map2 f a b)))

/-- TRI whose destination is a source as well (R152, R153). -/
def triAccForm (f : Word → Word → Word → Word) (o : Tri) (s : State) : Outcome :=
  perform s fun h => do
    orIllegal (srcOk o.a none && h.srcUOk o.b o.u o.lit && dstOk o.dst)
    let lanes ← h.performing o.p
    let d ← h.dst o.dst
    let old ← h.oldDst o.dst
    let a ← h.src o.a none
    let b ← h.srcU o.b o.u o.lit
    .ok (advance h (put32 h s d lanes (Src.map3 f a b old)))

/-- TRI with 64-bit a and b (R154). -/
def quadForm (f : Quad → Quad → Quad) (o : Tri) (s : State) : Outcome :=
  perform s fun h => do
    orIllegal (srcOk o.a none && evenOk o.a && h.pairUOk o.b o.u o.lit && dst64Ok o.dst)
    let lanes ← h.performing o.p
    let d ← h.dstN o.dst 2
    let a ← h.src64 o.a false none
    let b ← h.src64 o.b o.u o.lit
    .ok (advance h (put64 h s d lanes (Src.map2 f a b)))

/-- TRI with 64-bit a and 32-bit b (R154). -/
def quadWordForm (f : Quad → Word → Quad) (o : Tri) (s : State) : Outcome :=
  perform s fun h => do
    orIllegal (srcOk o.a none && evenOk o.a && h.srcUOk o.b o.u o.lit && dst64Ok o.dst)
    let lanes ← h.performing o.p
    let d ← h.dstN o.dst 2
    let a ← h.src64 o.a false none
    let b ← h.srcU o.b o.u o.lit
    .ok (advance h (put64 h s d lanes (Src.map2 f a b)))

/-- TRI with 32-bit sources and a 64-bit result (R154). -/
def wideForm (f : Word → Word → Quad) (o : Tri) (s : State) : Outcome :=
  perform s fun h => do
    orIllegal (srcOk o.a none && h.srcUOk o.b o.u o.lit && dst64Ok o.dst)
    let lanes ← h.performing o.p
    let d ← h.dstN o.dst 2
    let a ← h.src o.a none
    let b ← h.srcU o.b o.u o.lit
    .ok (advance h (put64 h s d lanes (Src.map2 f a b)))

/-- `cmp` on 32-bit values (R155). -/
def cmpForm (sgn : Bool) (o : Cmp) (s : State) : Outcome :=
  perform s fun h => do
    orIllegal (o.cond != 7 && srcOk o.a none && h.srcUOk o.b o.u o.lit)
    let lanes ← h.performing o.p
    let a ← h.src o.a none
    let b ← h.srcU o.b o.u o.lit
    .ok (advance h (putTruth h s o.mask o.acc lanes
      (fun i => intCond sgn 32 o.cond (a.val i).toNat (b.val i).toNat) fun i => a.bad i || b.bad i))

/-- `cmp` on 64-bit values (R155). -/
def cmp64Form (sgn : Bool) (o : Cmp) (s : State) : Outcome :=
  perform s fun h => do
    orIllegal (o.cond != 7 && srcOk o.a none && evenOk o.a && h.pairUOk o.b o.u o.lit)
    let lanes ← h.performing o.p
    let a ← h.src64 o.a false none
    let b ← h.src64 o.b o.u o.lit
    .ok (advance h (putTruth h s o.mask o.acc lanes
      (fun i => intCond sgn 64 o.cond (a.val i).toNat (b.val i).toNat) fun i => a.bad i || b.bad i))

/-- RRI on a 32-bit value (R158). -/
def immForm (f : Word → Word) (dst a : BitVec 7) (p : BitVec 3) (s : State) : Outcome :=
  perform s fun h => do
    orIllegal (srcOk a none && dstOk dst)
    let lanes ← h.performing p
    let d ← h.dst dst
    let x ← h.src a none
    .ok (advance h (put32 h s d lanes (x.map f)))

/-- DUO with one 32-bit source (R159). -/
def duoForm (f : Word → Word) (o : Duo) (s : State) : Outcome :=
  perform s fun h => do
    orIllegal (h.srcUOk o.a o.u o.lit && dstOk o.dst)
    let lanes ← h.performing o.p
    let d ← h.dst o.dst
    let a ← h.srcU o.a o.u o.lit
    .ok (advance h (put32 h s d lanes (a.map f)))

/-- DUO with one 64-bit source (R159). -/
def duoQuadForm (f : Quad → Quad) (o : Duo) (s : State) : Outcome :=
  perform s fun h => do
    orIllegal (h.pairUOk o.a o.u o.lit && dst64Ok o.dst)
    let lanes ← h.performing o.p
    let d ← h.dstN o.dst 2
    let a ← h.src64 o.a o.u o.lit
    .ok (advance h (put64 h s d lanes (a.map f)))

/-- Mask logic (R156). -/
def maskForm (f : Bool → Bool → Bool) (o : MaskTri) (s : State) : Outcome :=
  perform s fun h => do
    orIllegal (maskOk o.dst && maskOk o.a && maskOk o.b)
    let lanes ← h.performing o.p
    .ok (advance h (writeMask h s o.dst.toNat lanes (maskOp f (h.mask o.a.toNat) (h.mask o.b.toNat))
      fun i => h.mMark o.a.toNat i || h.mMark o.b.toNat i))

/-! ## The instructions -/

/-- R152 -/
def execAddB32 (o : Tri) (s : State) : Outcome := triForm (· + ·) o s
/-- R152 -/
def execSubB32 (o : Tri) (s : State) : Outcome := triForm (· - ·) o s
/-- R152 -/
def execMulB32 (o : Tri) (s : State) : Outcome := triForm (· * ·) o s
/-- R152 -/
def execMadB32 (o : Tri) (s : State) : Outcome := triAccForm (fun a b d => a * b + d) o s
/-- R152 -/
def execMulhiS32 (o : Tri) (s : State) : Outcome := triForm mulhiS o s
/-- R152 -/
def execMulhiN32 (o : Tri) (s : State) : Outcome := triForm mulhiN o s
/-- R152 -/
def execAndB32 (o : Tri) (s : State) : Outcome := triForm (· &&& ·) o s
/-- R152 -/
def execOrB32 (o : Tri) (s : State) : Outcome := triForm (· ||| ·) o s
/-- R152 -/
def execXorB32 (o : Tri) (s : State) : Outcome := triForm (· ^^^ ·) o s
/-- R152 -/
def execAndnB32 (o : Tri) (s : State) : Outcome := triForm (fun a b => a &&& ~~~b) o s
/-- R152 -/
def execShlB32 (o : Tri) (s : State) : Outcome := triForm (fun a b => shiftLeft a b.toNat) o s
/-- R152 -/
def execShrN32 (o : Tri) (s : State) : Outcome := triForm (fun a b => shiftRight a b.toNat) o s
/-- R152 -/
def execShrS32 (o : Tri) (s : State) : Outcome := triForm (fun a b => shiftRightS a b.toNat) o s
/-- R152 -/
def execRotlB32 (o : Tri) (s : State) : Outcome := triForm (fun a b => a.rotateLeft (b.toNat % 32)) o s
/-- R152 -/
def execMinS32 (o : Tri) (s : State) : Outcome := triForm minS o s
/-- R152 -/
def execMaxS32 (o : Tri) (s : State) : Outcome := triForm maxS o s
/-- R152 -/
def execMinN32 (o : Tri) (s : State) : Outcome := triForm minN o s
/-- R152 -/
def execMaxN32 (o : Tri) (s : State) : Outcome := triForm maxN o s
/-- R152 -/
def execAddsS32 (o : Tri) (s : State) : Outcome := triForm addsS o s
/-- R152 -/
def execSubsS32 (o : Tri) (s : State) : Outcome := triForm subsS o s
/-- R152 -/
def execAddsN32 (o : Tri) (s : State) : Outcome := triForm addsN o s
/-- R152 -/
def execSubsN32 (o : Tri) (s : State) : Outcome := triForm subsN o s
/-- R152 -/
def execAbsdN32 (o : Tri) (s : State) : Outcome := triForm absdN o s
/-- R153 -/
def execBfxN32 (o : Tri) (s : State) : Outcome := triForm bfxN o s
/-- R153 -/
def execBfxS32 (o : Tri) (s : State) : Outcome := triForm bfxS o s
/-- R153 -/
def execBfiB32 (o : Tri) (s : State) : Outcome := triAccForm bfi o s
/-- R154 -/
def execAddN64 (o : Tri) (s : State) : Outcome := quadForm (· + ·) o s
/-- R154 -/
def execSubN64 (o : Tri) (s : State) : Outcome := quadForm (· - ·) o s
/-- R154 -/
def execMulN64 (o : Tri) (s : State) : Outcome := quadForm (· * ·) o s
/-- R154 -/
def execMulwN32 (o : Tri) (s : State) : Outcome := wideForm mulwN o s
/-- R154 -/
def execMulwS32 (o : Tri) (s : State) : Outcome := wideForm mulwS o s
/-- R154 -/
def execAddaS64 (o : Tri) (s : State) : Outcome := quadWordForm adda o s
/-- R154 -/
def execShlN64 (o : Tri) (s : State) : Outcome := quadWordForm (fun a b => shiftLeft a b.toNat) o s
/-- R154 -/
def execShrN64 (o : Tri) (s : State) : Outcome := quadWordForm (fun a b => shiftRight a b.toNat) o s
/-- R154 -/
def execShrS64 (o : Tri) (s : State) : Outcome := quadWordForm (fun a b => shiftRightS a b.toNat) o s
/-- R154 -/
def execRotlN64 (o : Tri) (s : State) : Outcome := quadWordForm (fun a b => a.rotateLeft (b.toNat % 64)) o s
/-- R155 -/
def execCmpS32 (o : Cmp) (s : State) : Outcome := cmpForm true o s
/-- R155 -/
def execCmpN32 (o : Cmp) (s : State) : Outcome := cmpForm false o s
/-- R155 -/
def execCmpS64 (o : Cmp) (s : State) : Outcome := cmp64Form true o s
/-- R155 -/
def execCmpN64 (o : Cmp) (s : State) : Outcome := cmp64Form false o s
/-- R158 -/
def execAddB32Imm (o : Rri) (s : State) : Outcome := immForm (fun a => a + o.imm.signExtend 32) o.dst o.a o.p s
/-- R158, R136 -/
def execShlB32Imm (o : ShiftImm) (s : State) : Outcome := immForm (fun a => shiftLeft a o.n.toNat) o.dst o.a o.p s
/-- R158, R136 -/
def execShrN32Imm (o : ShiftImm) (s : State) : Outcome := immForm (fun a => shiftRight a o.n.toNat) o.dst o.a o.p s
/-- R158, R136 -/
def execShrS32Imm (o : ShiftImm) (s : State) : Outcome := immForm (fun a => shiftRightS a o.n.toNat) o.dst o.a o.p s
/-- R158 -/
def execAddN64Imm (o : Rri) (s : State) : Outcome :=
  perform s fun h => do
    orIllegal (srcOk o.a none && evenOk o.a && dst64Ok o.dst)
    let lanes ← h.performing o.p
    let d ← h.dstN o.dst 2
    let a ← h.src64 o.a false none
    .ok (advance h (put64 h s d lanes (a.map fun x => x + o.imm.signExtend 64)))
/-- R158 -/
def execMovB32Imm (o : Ri) (s : State) : Outcome :=
  perform s fun h => do
    orIllegal (dstOk o.dst)
    let lanes ← h.performing o.p
    let d ← h.dst o.dst
    .ok (advance h (put32 h s d lanes { val := fun _ => o.imm.signExtend 32 }))
/-- R158: an `s` register is written once, when a strand performs (R150). -/
def execMovB32ImmS (o : Ri) (s : State) : Outcome :=
  perform s fun h => do
    orIllegal (h.sregOk o.dst.toNat)
    let lanes ← h.performing o.p
    .ok (advance h (if lanes = 0 then s else writeS h s o.dst.toNat (o.imm.signExtend 32)))
/-- R159 -/
def execMovB32 (o : Duo) (s : State) : Outcome := duoForm id o s
/-- R159 -/
def execNotB32 (o : Duo) (s : State) : Outcome := duoForm (~~~ ·) o s
/-- R159 -/
def execNegS32 (o : Duo) (s : State) : Outcome := duoForm (- ·) o s
/-- R159 -/
def execAbsS32 (o : Duo) (s : State) : Outcome := duoForm absS o s
/-- R159 -/
def execPopcB32 (o : Duo) (s : State) : Outcome := duoForm popc o s
/-- R159 -/
def execClzB32 (o : Duo) (s : State) : Outcome := duoForm clz o s
/-- R159 -/
def execCtzB32 (o : Duo) (s : State) : Outcome := duoForm ctz o s
/-- R159 -/
def execBrevB32 (o : Duo) (s : State) : Outcome := duoForm brev o s
/-- R159 -/
def execSxbS32 (o : Duo) (s : State) : Outcome := duoForm sxb o s
/-- R159 -/
def execSxhS32 (o : Duo) (s : State) : Outcome := duoForm sxh o s
/-- R159 -/
def execDiv3N32 (o : Duo) (s : State) : Outcome := duoForm (· / 3) o s
/-- R159 -/
def execMod3N32 (o : Duo) (s : State) : Outcome := duoForm (· % 3) o s
/-- R159 -/
def execMovN64 (o : Duo) (s : State) : Outcome := duoQuadForm id o s
/-- R159 -/
def execNegS64 (o : Duo) (s : State) : Outcome := duoQuadForm (- ·) o s
/-- R159 -/
def execDiv3N64 (o : Duo) (s : State) : Outcome := duoQuadForm (· / 3) o s
/-- R159 -/
def execMod3N64 (o : Duo) (s : State) : Outcome := duoQuadForm (· % 3) o s
/-- R157: bit i of the mask becomes whether a is not 0, in the performing lanes. -/
def execMset (o : Duo) (s : State) : Outcome :=
  perform s fun h => do
    orIllegal (maskOk o.dst && h.srcUOk o.a o.u o.lit)
    let lanes ← h.performing o.p
    let a ← h.srcU o.a o.u o.lit
    .ok (advance h (writeMask h s o.dst.toNat lanes (fun i => a.val i != 0) a.bad))
/-- R157: a mask bit as 0 or 1. -/
def execMget (o : DuoPlain) (s : State) : Outcome :=
  perform s fun h => do
    orIllegal (maskOk o.a && dstOk o.dst)
    let lanes ← h.performing o.p
    let d ← h.dst o.dst
    .ok (advance h (put32 h s d lanes { val := fun i => if (h.mask o.a.toNat).getLsbD i then 1 else 0,
                                        low := h.mMark o.a.toNat, high := h.mMark o.a.toNat }))
/-- R156 -/
def execMand (o : MaskTri) (s : State) : Outcome := maskForm (· && ·) o s
/-- R156 -/
def execMor (o : MaskTri) (s : State) : Outcome := maskForm (· || ·) o s
/-- R156 -/
def execMxor (o : MaskTri) (s : State) : Outcome := maskForm (· ^^ ·) o s
/-- R156 -/
def execMandn (o : MaskTri) (s : State) : Outcome := maskForm (fun a b => a && !b) o s

end Sys2Proof.Machine
end

