-- ==== Sys2Proof/Machine/Claims.lean ====
section
/-! DEFINITION. What a gang claims of its cores and its cluster (R15, R21, R47 to R49), bank by bank (R356). -/

namespace Sys2Proof.Machine

/-- Register granules of a member (R48): its waves stand in quarters in turn, so the fullest holds a quarter of them. -/
def regGranules (h : Header) (m : Nat) : Nat := ceilDiv (ceilDiv (h.waves.getD m 0) 4 * h.regs) 64
/-- Scratch granules of every member (R48). -/
def scratchGranules (h : Header) : Nat := ceilDiv h.scratch 32768
/-- The banks of a gang. -/
def gangBanks (h : Header) : List Bank :=
  ((List.range h.members).flatMap fun m =>
    (List.range (regGranules h m)).map (Bank.regs m) ++ (List.range (scratchGranules h)).map (Bank.scratch m))
  ++ (List.range h.acc).map Bank.acc
/-- Banks of one kind that a gang holds: those that are not in its save slot. -/
def Gang.holds (x : Gang) (bs : List Bank) : Nat := (bs.filter fun b => !(x.away.contains b)).length

/-- Members of gangs that stand on a core: placed gangs, and saved ones where `saved` asks for what stays of them (R68). -/
def membersOn (s : State) (cluster core : Nat) (saved : Bool) : List (Gang × Nat) :=
  (s.gangs.filter fun p => p.2.cluster == cluster && (saved || p.2.state != .saved)).filterMap fun p =>
    if p.2.core ≤ core && decide (core < p.2.core + p.2.hdr.members) then some (p.2, core - p.2.core) else none
/-- Register granules claimed on a core. -/
def regsUsed (s : State) (cluster core : Nat) (saved : Bool) : Nat :=
  ((membersOn s cluster core saved).map fun x => x.1.holds ((List.range (regGranules x.1.hdr x.2)).map (Bank.regs x.2))).foldl (· + ·) 0
/-- Scratch granules claimed on a core. -/
def scratchUsed (s : State) (cluster core : Nat) (saved : Bool) : Nat :=
  ((membersOn s cluster core saved).map fun x => x.1.holds ((List.range (scratchGranules x.1.hdr)).map (Bank.scratch x.2))).foldl (· + ·) 0
/-- Accumulator granules claimed in a cluster (R49). -/
def accUsed (s : State) (cluster : Nat) (saved : Bool) : Nat :=
  ((s.gangs.filter fun p => p.2.cluster == cluster && (saved || p.2.state != .saved)).map fun p =>
    p.2.holds ((List.range p.2.hdr.acc).map Bank.acc)).foldl (· + ·) 0
/-- Granules of a core that serve as L1: those that no gang holds, saved ones included (R47). -/
def l1Granules (s : State) (cluster core : Nat) : Nat := 24 - regsUsed s cluster core true - scratchUsed s cluster core true
/-- Wave slots of a quarter that hold a wave of a placed gang (R15). -/
def slotsTaken (s : State) (cluster core quarter : Nat) : List Nat :=
  (s.waves.filter fun p => p.2.index % 4 == quarter && (get? s.gangs p.2.gang).any fun g =>
    g.state != .saved && g.cluster == cluster && g.core + p.2.member == core).map (·.2.slot)

end Sys2Proof.Machine
end

