-- ==== Sys2Proof/Machine/Local.lean ====
section
/-! DEFINITION. Local memory: what an offset reaches (R61, R62), the register aperture (R63, R64), stray accesses (R51). -/

namespace Sys2Proof.Machine

/-! ## What an offset reaches -/

/-- What one byte of a local access reaches. -/
inductive LocalByte where
  | mem (q : Nat)
  | aperture
  | stray
  deriving DecidableEq, Repr

/-- Bytes of a gang's local memory (R62). -/
def localLen (h : Header) : Nat := h.members * h.scratch
/-- The least power of two not below a number (R62). -/
def leastPow (n : Nat) : Nat := if n ≤ 1 then 1 else 2 ^ (Nat.log2 (n - 1) + 1)
/-- The reading of a local offset, taken modulo 2 ^ 32 (R61, R62). -/
def localByte (h : Header) (o : Nat) : LocalByte :=
  match o / 2 ^ 28 % 16 with
  | 0 => if o % 2 ^ 28 % leastPow (localLen h) < localLen h then .mem (o % 2 ^ 28 % leastPow (localLen h)) else .stray
  | 1 => .aperture
  | _ => .stray

/-- The gang of a number, as its memory is concerned. -/
def gangMem (s : State) (g : Nat) : Memory := ((get? s.gangs g).map (·.mem)).getD []
/-- One byte of a range of an engine or a barrier: stray bytes read as zero. -/
def readLocalByte (s : State) (g : Nat) (h : Header) (o : Nat) : Byte :=
  match localByte h (o % 2 ^ 32) with
  | .mem q => (gangMem s g).read q
  | _ => 0
/-- Bytes of local memory, each at its own place (R61). -/
def readLocal (s : State) (g : Nat) (h : Header) (o n : Nat) : List Byte := (List.range n).map fun i => readLocalByte s g h (o + i)
/-- One byte written; a stray one is dropped (R62). -/
def putLocalByte (h : Header) (m : Memory) (o : Nat) (b : Byte) : Memory :=
  match localByte h (o % 2 ^ 32) with
  | .mem q => m.write q b
  | _ => m
/-- Bytes written from an offset on. -/
def putLocal (h : Header) (m : Memory) (o : Nat) : List Byte → Memory
  | [] => m
  | b :: bs => putLocal h (putLocalByte h m o b) (o + 1) bs
/-- The bytes of local memory that a range of offsets reaches. -/
def localPlaces (h : Header) (o n : Nat) : List Nat :=
  (List.range n).filterMap fun i => match localByte h ((o + i) % 2 ^ 32) with | .mem q => some q | _ => none
/-- The poisoned units of local memory that writes to some of its bytes leave: one written whole is no longer poisoned (R392). -/
def unpoisoned (bad : List Nat) (qs : List Nat) : List Nat :=
  if bad.isEmpty then bad else bad.filter fun u => !((List.range 16).all fun j => qs.contains (16 * u + j))
/-- Bytes of local memory written, each at its own place (R61). -/
def writeLocal (s : State) (g : Nat) (h : Header) (o : Nat) (bs : List Byte) : State :=
  modGang s g fun x => { x with mem := putLocal h x.mem o bs, badMem := unpoisoned x.badMem (localPlaces h o bs.length) }
/-- Whether an offset is stray, and whether it lies in the aperture. -/
def isStray (h : Header) (o : Nat) : Bool := localByte h (o % 2 ^ 32) == .stray
/-- Whether a byte of a range is stray. -/
def rangeStray (h : Header) (o n : Nat) : Bool := (List.range n).any fun i => isStray h (o + i)
def isAperture (o : Nat) : Bool := o / 2 ^ 28 % 16 == 1

/-! ## Stray accesses (R51, R62) -/

/-- Stray accesses counted: `n` of them, the one at offset `o` the last; within a clk that of the lowest member and wave stays. -/
def noteStray (s : State) (g w n o : Nat) : State :=
  if n = 0 then s
  else
    let who := match get? s.waves w with | some x => 32 * x.member + x.index | none => 0
    modGang s g fun x =>
      let count := BitVec.ofNat 32 (min (x.stray.toNat + n) 0xFFFFFFFF)
      let keep := match x.strayAt with | some a => a.1 == s.clk && decide (a.2 < who) | none => false
      if keep then { x with stray := count }
      else { x with stray := count, strayLast := BitVec.ofNat 32 o, strayAt := some (s.clk, who) }

/-! ## The register aperture (R63, R64) -/

/-- A register that an aperture offset names: its wave, allocation register and lane. -/
structure ApertureReg where
  wave : Nat
  reg  : Nat
  lane : Nat
  deriving DecidableEq, Repr

/-- The target of an aperture access of 4 or 8 bytes; none is stray (R63). -/
def apertureTarget (s : State) (g : Nat) (h : Header) (o n : Nat) : Option ApertureReg :=
  let reg := bitsOf o 10 2
  if bitsOf o 15 11 != 0 || decide (h.members ≤ bitsOf o 27 26) || decide (h.regs < reg + n / 4) then none
  else
    (s.waves.find? fun p => p.2.gang == g && p.2.member == bitsOf o 27 26 && p.2.index == bitsOf o 25 21).map
      fun p => { wave := p.1, reg, lane := bitsOf o 20 16 }

/-- The checkpoint of a parked or scouting fibre. -/
def Fibre.checkpoint (f : Fibre) : Option Checkpoint :=
  match f.scout with
  | some c => some c.cp
  | none => f.park.map (·.1)
/-- The parked or scouting fibre to whose private range a register belongs (R64). -/
def privateOf (h : Header) (w : Wave) (r : Nat) : Option Nat :=
  if h.isShared r then none
  else (List.range 4).find? fun k =>
    decide ((h.winOf k).1 ≤ r ∧ r < (h.winOf k).2) && ((w.fibres[k]?).bind Fibre.checkpoint).isSome
/-- One register read through the aperture. -/
def apertureRead (s : State) (h : Header) (t : ApertureReg) : Word :=
  match get? s.waves t.wave with
  | none => 0
  | some w =>
    match privateOf h w t.reg with
    | some k =>
      match (w.fibres.getD k Fibre.blank).checkpoint with
      | some c => (c.regs.getD (t.reg - (h.winOf k).1) []).getD t.lane 0
      | none => 0
    | none => (w.alloc.getD t.reg []).getD t.lane 0
/-- A checkpoint, whose registers begin at `lo`, with one register of a lane replaced. -/
def Checkpoint.setReg (c : Checkpoint) (lo r lane : Nat) (x : Word) : Checkpoint :=
  { c with regs := modAt c.regs (r - lo) (fun row => setAt row lane x), bad := cleared c.bad r (1#32 <<< lane) }
/-- One register written through the aperture. -/
def apertureWrite (s : State) (h : Header) (t : ApertureReg) (x : Word) : State :=
  modWave s t.wave fun w =>
    match privateOf h w t.reg with
    | some k =>
      { w with fibres := modAt w.fibres k fun f => { f with
          scout := f.scout.map fun c => { c with cp := c.cp.setReg (h.winOf k).1 t.reg t.lane x }
          park := f.park.map fun p => (p.1.setReg (h.winOf k).1 t.reg t.lane x, p.2) } }
    | none => { w with alloc := modAt w.alloc t.reg (fun row => setAt row t.lane x), bad := cleared w.bad t.reg (1#32 <<< t.lane) }

/-! ## Ordinary accesses of a strand -/

/-- An ordinary load: the value, and whether it was stray (R62, R63). -/
def localLoad (s : State) (g : Nat) (h : Header) (o n : Nat) : Nat × Bool :=
  if isAperture o then
    match apertureTarget s g h o n with
    | some t => ((apertureRead s h t).toNat + (if n = 8 then 2 ^ 32 * (apertureRead s h { t with reg := t.reg + 1 }).toNat else 0), false)
    | none => (0, true)
  else (ofBytes (readLocal s g h o n), rangeStray h o n)
/-- An ordinary store, and whether it was stray. -/
def localStore (s : State) (g : Nat) (h : Header) (o n x : Nat) : State × Bool :=
  if isAperture o then
    match apertureTarget s g h o n with
    | some t =>
      let s1 := apertureWrite s h t (BitVec.ofNat 32 x)
      (if n = 8 then apertureWrite s1 h { t with reg := t.reg + 1 } (BitVec.ofNat 32 (x / 2 ^ 32)) else s1, false)
    | none => (s, true)
  else (writeLocal s g h o (toBytes n x), rangeStray h o n)

/-! ## Poison of the unified store (R392) -/

/-- The lanes of a register that hold poison, as the aperture reaches it. -/
def registerPoison (h : Header) (w : Wave) (r : Nat) : Lanes :=
  let marks := match privateOf h w r with
    | some k => ((w.fibres.getD k Fibre.blank).checkpoint.map (·.bad)).getD []
    | none => w.bad
  (get? marks r).getD 0
/-- Whether a range of local memory, or the registers that an aperture access reads, hold poison. -/
def localPoison (s : State) (g : Nat) (h : Header) (o n : Nat) : Bool :=
  if isAperture o then
    (apertureTarget s g h o n).any fun t => (get? s.waves t.wave).any fun w =>
      (List.range (n / 4)).any fun j => (registerPoison h w (t.reg + j)).getLsbD t.lane
  else
    let bad := ((get? s.gangs g).map (·.badMem)).getD []
    !bad.isEmpty && (localPlaces h o n).any fun q => bad.contains (q / 16)
/-- A strand's read of local memory that holds poison traps with cause poison (R392, R393); the lowest lane's offset is given. -/
def localClean (h : Here) (s : State) (offs : List Nat) (n : Nat) : Except Stop PUnit :=
  match offs.find? fun o => localPoison s h.w.gang h.g.hdr o n with
  | some o => .error (.trap 7 (BitVec.ofNat 64 o))
  | none => .ok ⟨⟩

end Sys2Proof.Machine
end

