-- ==== Sys2Proof/Machine/Slot.lean ====
section
/-! DEFINITION. Save slots (R356, R357): where each region of a gang's image lies, the image as bytes, and a gang as its image
gives it back. -/

namespace Sys2Proof.Machine

/-! ## Layout (R357) -/

/-- The next multiple of 192. -/
def align192 (n : Nat) : Nat := ceilDiv n 192 * 192
/-- Strands of a gang. -/
def strandsOf (h : Header) : Nat := (h.waves.foldl (· + ·) 0) * h.fibres * 32
/-- Where the accumulator image and the procession image begin. -/
def slotAcc : Nat := 192
def slotProc (h : Header) : Nat := align192 (slotAcc + 32768 * h.acc)
/-- Registers of a fibre's window. -/
def winLen (h : Header) (f : Nat) : Nat := (h.winOf f).2 - (h.winOf f).1
/-- Bytes of a fibre block with its checkpoint image, of a wave, of a member. -/
def fibreBytes (h : Header) (f : Nat) : Nat := 1536 + align192 (128 * winLen h f)
def waveBytes (h : Header) : Nat :=
  192 + align192 (128 * h.regs) + align192 4192 + ((List.range h.fibres).map (fibreBytes h)).foldl (· + ·) 0
def memberBytes (h : Header) (m : Nat) : Nat := align192 h.scratch + h.waves.getD m 0 * waveBytes h
/-- Where a member, a wave, and a fibre begin. -/
def slotMember (h : Header) (m : Nat) : Nat :=
  align192 (slotProc h + 16 * strandsOf h) + ((List.range m).map (memberBytes h)).foldl (· + ·) 0
def slotWave (h : Header) (m i : Nat) : Nat := slotMember h m + align192 h.scratch + i * waveBytes h
def slotFibre (h : Header) (m i f : Nat) : Nat :=
  slotWave h m i + 192 + align192 (128 * h.regs) + align192 4192 + ((List.range f).map (fibreBytes h)).foldl (· + ·) 0
/-- Bytes of a slot, and its pages. -/
def slotBytes (h : Header) : Nat := slotMember h h.members
def slotPages (h : Header) : Nat := ceilDiv (slotBytes h) 49152
/-- The place in a slot of a byte of local memory. -/
def slotLocal (h : Header) (q : Nat) : Nat := slotMember h (q / h.scratch) + q % h.scratch
/-- The procession entry of a strand: members, waves, fibres and lanes in order. -/
def slotStrand (h : Header) (m i f lane : Nat) : Nat :=
  let before := ((h.waves.take m).foldl (· + ·) 0 + i) * h.fibres + f
  slotProc h + 16 * (32 * before + lane)

/-! ## Codes -/

/-- The code of a fibre's state (R357). -/
def FibreState.code : FibreState → Nat
  | .ready => 1 | .holding => 2 | .stalled => 3 | .waiting => 4 | .fbarrier => 5 | .scout => 6 | .parked => 7 | .trap => 8
  | .done => 9 | .halted => 10
/-- The state of a code. -/
def fibreState : Nat → Option FibreState
  | 1 => some .ready | 2 => some .holding | 3 => some .stalled | 4 => some .waiting | 5 => some .fbarrier | 6 => some .scout
  | 7 => some .parked | 8 => some .trap | 9 => some .done | 10 => some .halted
  | _ => none
/-- A deadline as its operand (R31). -/
def Deadline.code : Deadline → Nat
  | .poll => 0
  | .never => 2 ^ 63 - 1
  | .wall t => t
  | .context t => 2 ^ 63 + t

/-! ## The image as bytes -/

/-- `n` elements from a key on; an unlisted one is 0. -/
def denseAcc : Nat → Nat → List (Nat × Word) → List Word
  | 0, _, _ => []
  | n + 1, key, [] => 0 :: denseAcc n (key + 1) []
  | n + 1, key, (k, x) :: t => if k = key then x :: denseAcc n (key + 1) t else 0 :: denseAcc n (key + 1) ((k, x) :: t)
/-- A row of lanes as bytes. -/
def rowBytes (r : Row) : List Byte := (List.range 32).flatMap fun i => toBytes 4 (r.getD i 0).toNat
/-- Words as bytes. -/
def wordBytes (n : Nat) (ws : List Word) : List Byte := (List.range n).flatMap fun k => toBytes 4 (ws.getD k 0).toNat
/-- Program counters as bytes. -/
def pcBytes (pcs : List Quad) : List Byte := (List.range 32).flatMap fun i => toBytes 8 (pcs.getD i 0).toNat
/-- A procession entry (R357). -/
def ProcEntry.image (e : ProcEntry) (exited : Bool) : List Byte :=
  let everyOrder : Bool := e.floor.any fun f => decide (2 ^ 32 ≤ f)
  let low := match e.floor with | some f => if f < 2 ^ 32 then f else 0xFFFFFFFF | none => 0xFFFFFFFF
  toBytes 4 e.key.toNat ++ toBytes 4 e.order ++ toBytes 4 low
    ++ toBytes 4 (bit e.registered + 2 * bit (exited || e.floor.isNone) + 4 * bit e.inside + 8 * bit everyOrder)
/-- A wait (R357). -/
def Wait.image (x : Wait) : List Byte :=
  padTo 64 (toBytes 8 x.pc.toNat ++ toBytes 8 x.deadline.code ++ toBytes 8 x.ides ++ toBytes 4 x.gen ++ toBytes 4 x.lanes.toNat)
/-- The trap registers (R357). -/
def TrapRegs.image (t : TrapRegs) : List Byte :=
  padTo 64 (toBytes 8 t.cause ++ toBytes 8 t.pc.toNat ++ toBytes 8 t.ret.toNat ++ toBytes 8 t.lanes.toNat ++ toBytes 8 t.info.toNat)
/-- A checkpoint without its registers (R357). -/
def Checkpoint.image (c : Checkpoint) : List Byte :=
  padTo 576 (pcBytes c.pcs ++ wordBytes 64 c.s ++ wordBytes 8 c.m ++ toBytes 4 c.wbase)
/-- A fibre block (R357). -/
def Fibre.image (f : Fibre) : List Byte :=
  pcBytes f.pcs ++ wordBytes 64 f.s ++ wordBytes 8 f.m ++ toBytes 4 (f.state.code + 2 ^ 8 * bit f.replayed)
    ++ toBytes 4 f.exited.toNat ++ toBytes 4 f.sup.toNat ++ toBytes 4 f.wbase
    ++ padTo 16 ((List.range 5).flatMap fun c => toBytes 1 (f.counts.getD c 0))
    ++ (match f.wait with | some x => x.image | none => List.replicate 64 0) ++ f.trap.image
    ++ (match f.checkpoint with | some c => c.image | none => List.replicate 576 0) ++ List.replicate 256 0
/-- The checkpoint image of a fibre. -/
def Fibre.checkImage (f : Fibre) (n : Nat) : List Byte :=
  (List.range n).flatMap fun j => rowBytes (match f.checkpoint with | some c => c.regs.getD j [] | none => [])
/-- The wave record, registers and supervisor file of a wave. -/
def Wave.image (w : Wave) (h : Header) : List Byte :=
  padTo 192 (toBytes 4 w.seq.toNat ++ toBytes 4 (match w.holder with | some k => k | none => 0xFFFFFFFF))
    ++ padTo (align192 (128 * h.regs)) ((List.range h.regs).flatMap fun a => rowBytes (w.alloc.getD a []))
    ++ padTo (align192 4192) ((List.range 32).flatMap (fun a => rowBytes (w.supV.getD a [])) ++ wordBytes 16 w.supS ++ wordBytes 8 w.supM)
    ++ (List.range h.fibres).flatMap fun f =>
      let x := w.fibres.getD f Fibre.blank
      x.image ++ padTo (align192 (128 * winLen h f)) (x.checkImage (winLen h f))
/-- The waves of a gang by member and index. -/
def gangWave (s : State) (g m i : Nat) : Option (Nat × Wave) :=
  s.waves.find? fun p => p.2.gang == g && p.2.member == m && p.2.index == i
/-- The header region (R357). -/
def Gang.slotHeader (x : Gang) (desc : Quad) : List Byte :=
  let h := x.hdr
  padTo 192 (toBytes 8 desc.toNat ++ toBytes 4 x.index ++ toBytes 4 ((if x.wasHalted || x.state == .halted then 2 else 1) + 16 * bit x.waitSwapped)
    ++ toBytes 4 (slotBytes h) ++ toBytes 1 h.members ++ toBytes 1 h.fibres ++ toBytes 2 h.regs ++ toBytes 8 x.savedTime.toNat)
/-- The whole image of a gang (R357). -/
def gangImage (s : State) (g : Nat) (x : Gang) : List Byte :=
  let h := x.hdr
  let desc := ((get? s.launches x.launch).map (·.desc)).getD 0
  let acc := (denseAcc (8192 * h.acc) 0 x.acc).flatMap fun w => toBytes 4 w.toNat
  let proc := (List.range h.members).flatMap fun m => (List.range (h.waves.getD m 0)).flatMap fun i =>
    match gangWave s g m i with
    | none => []
    | some (_, w) => (List.range h.fibres).flatMap fun f =>
      let y := w.fibres.getD f Fibre.blank
      (List.range 32).flatMap fun lane => (y.procAt lane).image (y.exited.getLsbD lane)
  let member (m : Nat) : List Byte :=
    padTo (align192 h.scratch) (x.mem.readN (m * h.scratch) h.scratch)
      ++ (List.range (h.waves.getD m 0)).flatMap fun i => match gangWave s g m i with | some (_, w) => w.image h | none => []
  x.slotHeader desc ++ padTo (slotProc h - slotAcc) acc ++ padTo (slotMember h 0 - slotProc h) proc ++ (List.range h.members).flatMap member

/-! ## Poison in an image (R392, R393) -/

/-- The 16-byte units of an image that hold marked lanes of registers, of which register `lo` lies at an offset. -/
def markedUnits (off lo : Nat) (marks : List (Nat × Lanes)) : List Nat :=
  marks.flatMap fun m => (lanesIn m.2).map fun i => (off + 128 * (m.1 - lo) + 4 * i) / 16
/-- The marks of `n` registers whose image lies at an offset, by the poisoned units of the image. -/
def marksIn (bad : List Nat) (off lo n : Nat) : List (Nat × Lanes) :=
  (List.range n).filterMap fun j =>
    let m := maskOf fun i => bad.contains ((off + 128 * j + 4 * i) / 16)
    if m = 0 then none else some (lo + j, m)
/-- The units of a gang's image that hold poison: of its registers and its checkpoints, of its local memory, of its accumulators. -/
def gangPoison (s : State) (g : Nat) (x : Gang) : List Nat :=
  let h := x.hdr
  let regs := s.waves.flatMap fun p =>
    if p.2.gang != g then []
    else markedUnits (slotWave h p.2.member p.2.index + 192) 0 p.2.bad
      ++ p.2.fibres.zipIdx.flatMap fun f => match f.1.checkpoint with
        | some c => markedUnits (slotFibre h p.2.member p.2.index f.2 + 1536) (h.winOf f.2).1 c.bad
        | none => []
  regs ++ x.badMem.map (fun u => slotLocal h (16 * u) / 16) ++ x.badAcc.map fun u => slotAcc / 16 + u
/-- The sector of an address of this device made poisoned: what has been written there is no good data. -/
def poisonSector (s : State) (a : Nat) : State :=
  match placeOf s a with
  | .own o => { s with l2 := put s.l2 (secKey s o) { sectorAt s o with poison := some 0 } }
  | _ => s
/-- What a part of a slot holds: its bytes as they lie, and its units that hold poison. -/
structure SlotPart where
  bytes : List Byte := []
  bad   : List Nat := []
/-- A part of a slot read without meeting its poison, which goes back to where it came from. Save pools lie in this device's memory
(R340). -/
def readSlot (s : State) (a off n : Nat) : State × Done SlotPart :=
  (unitsIn (a + off) n).foldl (fun r u =>
    match r.2 with
    | .ok p =>
      let c := check r.1 none u.1 0 false false true
      match c.2 with
      | .ok => (c.1, .ok { bytes := p.bytes ++ readGlobal c.1 u.1 u.2, bad := if poisonedAt c.1 u.1 then p.bad ++ [(u.1 - a) / 16] else p.bad })
      | .fail row level ro => (c.1, .fail row level ro u.1)
      | _ => (c.1, .fail 2 0 false u.1)
    | _ => r) (s, .ok {})

/-! ## A gang from its image -/

/-- Words, rows and program counters of an image. -/
def wordsIn (bs : List Byte) (off n : Nat) : List Word := (List.range n).map fun k => BitVec.ofNat 32 (numAt bs (off + 4 * k) 4)
def rowsIn (bs : List Byte) (off n : Nat) : List Row := (List.range n).map fun a => wordsIn bs (off + 128 * a) 32
def pcsIn (bs : List Byte) (off : Nat) : List Quad := (List.range 32).map fun i => BitVec.ofNat 64 (numAt bs (off + 8 * i) 8)
/-- A procession entry of an image; when it registered is not in it. -/
def ProcEntry.ofImage (e : ProcEntry) (bs : List Byte) (off : Nat) : ProcEntry :=
  let fl := numAt bs (off + 12) 4
  { e with key := BitVec.ofNat 32 (numAt bs off 4), order := numAt bs (off + 4) 4
           floor := if bitOf fl 1 then none else if bitOf fl 3 then some (2 ^ 32) else some (numAt bs (off + 8) 4)
           registered := bitOf fl 0, inside := bitOf fl 2 }
/-- A wait of an image, over the one that the device has kept; its next address keeps its distance from the instruction. -/
def Wait.ofImage (x : Wait) (bs : List Byte) (off : Nat) : Wait :=
  let pc := BitVec.ofNat 64 (numAt bs off 8)
  { x with pc, next := x.next + (pc - x.pc), deadline := readDeadline (BitVec.ofNat 64 (numAt bs (off + 8) 8)), ides := numAt bs (off + 16) 8, gen := numAt bs (off + 24) 4
           lanes := BitVec.ofNat 32 (numAt bs (off + 28) 4) }
/-- A fibre's checkpoint of an image, whose registers begin at `lo`. -/
def Checkpoint.ofImage (c : Checkpoint) (bs : List Byte) (bad : List Nat) (off regs lo : Nat) : Checkpoint :=
  { c with pcs := pcsIn bs off, s := wordsIn bs (off + 0x100) 64, m := wordsIn bs (off + 0x200) 8, wbase := numAt bs (off + 0x220) 4
           regs := rowsIn bs regs c.regs.length, bad := marksIn bad regs lo c.regs.length }
/-- A state that the driver has changed in the image takes the place of the one saved. -/
def Fibre.takeState (f : Fibre) (code : Nat) : Fibre :=
  if code % 256 = f.state.code then { f with replayed := bitOf code 8 }
  else match fibreState (code % 256) with
    | some x => if f.state = .halted then { f with before := x, replayed := bitOf code 8 } else { f with state := x, replayed := bitOf code 8 }
    | none => f
/-- A fibre of an image (R357). -/
def Fibre.ofImage (f : Fibre) (h : Header) (bs : List Byte) (bad : List Nat) (m i k : Nat) : Fibre :=
  let o := slotFibre h m i k
  let lo := (h.winOf k).1
  let t : TrapRegs := { f.trap with
    cause := numAt bs (o + 0x280) 8, pc := BitVec.ofNat 64 (numAt bs (o + 0x288) 8), ret := BitVec.ofNat 64 (numAt bs (o + 0x290) 8)
    lanes := BitVec.ofNat 32 (numAt bs (o + 0x298) 4), info := BitVec.ofNat 64 (numAt bs (o + 0x2A0) 8) }
  let g := { f with
    pcs := pcsIn bs o, s := wordsIn bs (o + 0x100) 64, m := wordsIn bs (o + 0x200) 8
    exited := BitVec.ofNat 32 (numAt bs (o + 0x224) 4), sup := BitVec.ofNat 32 (numAt bs (o + 0x228) 4), wbase := numAt bs (o + 0x22C) 4
    counts := (List.range 5).map fun c => numAt bs (o + 0x230 + c) 1
    wait := f.wait.map fun (x : Wait) => x.ofImage bs (o + 0x240), trap := t
    scout := f.scout.map fun (c : Scout) => { c with cp := c.cp.ofImage bs bad (o + 0x2C0) (o + 1536) lo }
    park := f.park.map fun (p : Checkpoint × Record) => (p.1.ofImage bs bad (o + 0x2C0) (o + 1536) lo, p.2)
    proc := (List.range 32).map fun lane => (lane, (f.procAt lane).ofImage bs (slotStrand h m i k lane)) }
  g.takeState (numAt bs (o + 0x220) 4)
/-- A wave of an image. -/
def Wave.ofImage (w : Wave) (h : Header) (bs : List Byte) (bad : List Nat) : Wave :=
  let o := slotWave h w.member w.index
  let sup := o + 192 + align192 (128 * h.regs)
  { w with
    seq := BitVec.ofNat 32 (numAt bs o 4), holder := (let k := numAt bs (o + 4) 4; if k < h.fibres then some k else none)
    alloc := rowsIn bs (o + 192) h.regs, bad := marksIn bad (o + 192) 0 h.regs, supV := rowsIn bs sup 32, supS := wordsIn bs (sup + 4096) 16, supM := wordsIn bs (sup + 4160) 8
    fibres := w.fibres.zipIdx.map fun f => f.1.ofImage h bs bad w.member w.index f.2 }
/-- Local memory of an image. -/
def memOfImage (h : Header) (bs : List Byte) : Memory :=
  (List.range h.members).foldl (fun m k => m.writeN (k * h.scratch) ((bs.drop (slotMember h k)).take h.scratch)) []
/-- The poisoned units of local memory that an image gives, and those of accumulator memory. -/
def memPoison (h : Header) (bad : List Nat) : List Nat :=
  bad.filterMap fun u => (List.range h.members).findSome? fun k =>
    let o := slotMember h k
    if o ≤ 16 * u && decide (16 * u < o + h.scratch) then some ((k * h.scratch + 16 * u - o) / 16) else none
def accPoison (h : Header) (bad : List Nat) : List Nat :=
  bad.filterMap fun u => if slotAcc ≤ 16 * u && decide (16 * u < slotAcc + 32768 * h.acc) then some (u - slotAcc / 16) else none
/-- A gang and its waves taken from an image of which some units hold poison (R357, R392). -/
def fromImage (s : State) (g : Nat) (bs : List Byte) (bad : List Nat) : State :=
  match get? s.gangs g with
  | none => s
  | some x =>
    let h := x.hdr
    let acc := (wordsIn bs slotAcc (8192 * h.acc)).zipIdx.filterMap fun p => if p.1 = 0 then none else some (p.2, p.1)
    let s1 := modGang s g fun y => { y with mem := memOfImage h bs, acc, away := [], badMem := memPoison h bad, badAcc := accPoison h bad }
    { s1 with waves := s1.waves.map fun p => if p.2.gang = g then (p.1, p.2.ofImage h bs bad) else p }

/-! ## Banks in the slot (R353, R356, R358) -/

/-- The parts of a slot that hold a bank: places and lengths (R47, R357). Register `a` of a member's wave `i` stands in
register granule ((i / 4) A + a) / 64, since a quarter's waves take its registers in turn. -/
def bankParts (h : Header) : Bank → List (Nat × Nat)
  | .acc j => [(slotAcc + 32768 * j, 32768)]
  | .scratch m j => [(slotMember h m + 32768 * j, 32768)]
  | .regs m j => (List.range (h.waves.getD m 0)).filterMap fun i =>
      let lo := max (64 * j) (i / 4 * h.regs) - i / 4 * h.regs
      let hi := min (64 * j + 64 - i / 4 * h.regs) h.regs
      if lo < hi then some (slotWave h m i + 192 + 128 * lo, 128 * (hi - lo)) else none
/-- The parts of a slot that hold everything else; they are written with the first bank. -/
def controlParts (h : Header) : List (Nat × Nat) :=
  (0, 192) :: (slotProc h, slotMember h 0 - slotProc h) ::
    (List.range h.members).flatMap fun m => (List.range (h.waves.getD m 0)).flatMap fun i =>
      let regs := 192 + align192 (128 * h.regs)
      [(slotWave h m i, 192), (slotWave h m i + regs, waveBytes h - regs)]
/-- Whether a unit of an image lies in one of some parts. -/
def inParts (parts : List (Nat × Nat)) (u : Nat) : Bool := parts.any fun p => decide (p.1 ≤ 16 * u ∧ 16 * u < p.1 + p.2)
/-- A unit of an image that is no register of a kernel, no byte of local memory and no accumulator: a gang cannot go on without it. -/
def vitalUnit (h : Header) (u : Nat) : Bool :=
  inParts (controlParts h) u && !((List.range h.members).any fun m => (List.range (h.waves.getD m 0)).any fun i =>
    (List.range h.fibres).any fun f => inParts [(slotFibre h m i f + 1536, 128 * winLen h f)] u)
/-- The slot of a saved gang of which a part is in memory and nowhere else. -/
def awayAt (s : State) (g : Nat) : Option Nat :=
  (get? s.gangs g).bind fun x => if x.state = .saved && x.away != [] then x.slot.map (·.toNat) else none
/-- The place in memory of a byte of a saved gang's local memory whose granule has left the core. -/
def awayLocal (s : State) (g : Nat) (h : Header) (q : Nat) : Option Nat :=
  (awayAt s g).bind fun a =>
    if (get? s.gangs g).any fun x => x.away.contains (.scratch (q / h.scratch) (q % h.scratch / 32768)) then some (a + slotLocal h q) else none
/-- Bytes of the image changed outside its banks. -/
def patchImage (s : State) (g off : Nat) (bs : List Byte) : State :=
  match awayAt s g with
  | some a => (writeRange s (a + off) bs).1
  | none => s

end Sys2Proof.Machine
end

