-- ==== Sys2Proof/Machine/Barrier.lean ====
section
/-! DEFINITION. Barrier objects (R108, R109) and stage queues (R114, R115) in local memory, and what one access to them does. -/

namespace Sys2Proof.Machine

/-! ## Barrier objects -/

/-- A barrier object read by its fields (R108). -/
structure Barrier where
  expa   : Nat
  penda  : Nat
  pendb  : Nat                 -- modulo 2 ^ 32
  phase  : Bool
  gen    : Nat
  status : Nat
  last   : Nat
  wdr    : Nat
  deriving DecidableEq, Repr

/-- The object of 16 bytes. -/
def Barrier.read (bs : List Byte) : Barrier :=
  let ctl := numAt bs 8 4
  { expa := numAt bs 0 2, penda := numAt bs 2 2, pendb := numAt bs 4 4, phase := bitOf ctl 0, gen := bitsOf ctl 15 1
    status := bitsOf ctl 19 16, last := bitsOf ctl 23 20, wdr := numAt bs 12 2 }
/-- The 16 bytes of an object; reserved bits are written 0 (R108). -/
def Barrier.bytes (b : Barrier) : List Byte :=
  toBytes 2 b.expa ++ toBytes 2 b.penda ++ toBytes 4 b.pendb
    ++ toBytes 4 (bit b.phase + 2 * b.gen + 2 ^ 16 * b.status + 2 ^ 20 * b.last) ++ toBytes 4 b.wdr

/-- What happens to a barrier object (R109). -/
inductive BarrierEvent where
  | arrive (c : Nat)
  | expect (e : Nat)
  | copied (n st : Nat)
  | engine (st : Nat)
  | withdraw (c gen : Nat)
  deriving DecidableEq, Repr

/-- The counts after an event (R109). -/
def Barrier.count (b : Barrier) : BarrierEvent → Barrier
  | .arrive c => { b with penda := b.penda - c }
  | .expect e => { b with pendb := (b.pendb + e) % 2 ^ 32 }
  | .copied n st => { b with pendb := wrap 32 ((b.pendb : Int) - n), status := max b.status st }
  | .engine st => { b with penda := b.penda - 1, status := max b.status st }
  | .withdraw c g =>
    if b.gen = g then { b with penda := min b.expa (b.penda + c), wdr := min (b.wdr + 1) 0xFFFF } else b
/-- The phase completes when nothing is pending (R109). -/
def Barrier.check (b : Barrier) : Barrier :=
  if b.penda = 0 ∧ b.pendb = 0 then
    { b with phase := !b.phase, gen := (b.gen + 1) % 2 ^ 15, last := b.status, status := 0, penda := b.expa, wdr := 0 }
  else b
/-- One event: its counts, then the completion check, in one access (R109). -/
def Barrier.apply (b : Barrier) (e : BarrierEvent) : Barrier := (b.count e).check

/-- The object at a local offset; one at a stray offset reads as zero (R62). -/
def barrierAt (s : State) (g : Nat) (h : Header) (o : Nat) : Barrier := Barrier.read (readLocal s g h o 16)
/-- A fibre that waits at an object for the phase that an event has completed is ready with its LAST, whatever becomes of the
object before the fibre can issue (R111). -/
def Fibre.wins (f : Fibre) (h : Header) (o : Nat) (phase : Bool) (last : Nat) : Fibre :=
  { f with wait := f.wait.map fun x => match x.kind with
    | .bwait off parity _ =>
      if parity = phase && x.won.isNone && localByte h off.toNat == localByte h (o % 2 ^ 32) then { x with won := some last } else x
    | _ => x }
/-- What follows an event: the waiters of a phase that it has completed have won. -/
def phaseOver (s : State) (g : Nat) (h : Header) (o : Nat) (old new : Barrier) : State :=
  if old.phase = new.phase then s
  else { s with waves := s.waves.map fun p =>
    if p.2.gang = g then (p.1, { p.2 with fibres := p.2.fibres.map fun f => f.wins h o old.phase new.last }) else p }
/-- An event applied to the object at an offset: none in the aperture, none held at a stray offset; the object of a saved gang
whose granule has left the core is in its image, one access there (R62, R63, R358). -/
def barrierEvent (s : State) (g : Nat) (h : Header) (o : Nat) (e : BarrierEvent) : State :=
  match localByte h (o % 2 ^ 32) with
  | .mem q =>
    match awayLocal s g h q with
    | none =>
      let b := barrierAt s g h o
      phaseOver (writeLocal s g h o (b.apply e).bytes) g h o b (b.apply e)
    | some a =>
      let r := readRange s none a 16 0
      match r.2 with
      | .ok bs =>
        let b := Barrier.read bs
        phaseOver (writeRange r.1 a (b.apply e).bytes).1 g h o b (b.apply e)
      | _ => r.1
  | _ => s
/-- A strand's event, which counts when it is stray (R62). -/
def strandEvent (h : Here) (s : State) (o : Nat) (e : BarrierEvent) : State :=
  let s1 := barrierEvent s h.w.gang h.g.hdr o e
  if isStray h.g.hdr o then noteStray s1 h.w.gang h.i.wave 1 o else s1

/-! ## Stage queues (R114) -/

/-- A stage queue's header. -/
structure StageQueue where
  log   : Nat
  words : Nat
  head  : Nat
  tail  : Nat
  deriving DecidableEq, Repr

/-- The header at a local offset, none when a field is invalid (R114). -/
def queueAt (s : State) (g : Nat) (h : Header) (o : Nat) : Option StageQueue :=
  let bs := readLocal s g h o 16
  let cfg := numAt bs 0 4
  if decide (64 ≤ cfg) || cfg % 16 == 0 || decide (12 < cfg % 16) || numAt bs 12 4 != 0 then none
  else some { log := cfg % 16, words := bitsOf cfg 5 4 + 1, head := numAt bs 4 4, tail := numAt bs 8 4 }
/-- The offset of the entry of a count (R114). -/
def StageQueue.entry (q : StageQueue) (o i : Nat) : Nat := o + 16 + i % 2 ^ q.log * (4 * q.words)
/-- Entries in the queue. -/
def StageQueue.held (q : StageQueue) : Nat := (q.tail + 2 ^ 32 - q.head) % 2 ^ 32
/-- An access to a ring entry past the end of local memory counts as stray, beside that to the header (R62). -/
def noteEntry (s : State) (w g : Nat) (h : Header) (o n : Nat) : State := if rangeStray h o n then noteStray s g w 1 o else s
/-- An entry sent, if there is room (R115). -/
def queueSend (s : State) (w g : Nat) (h : Header) (o : Nat) (q : StageQueue) (ws : List Word) : State :=
  let s1 := writeLocal s g h (q.entry o q.tail) (ws.flatMap fun w => toBytes 4 w.toNat)
  noteEntry (writeLocal s1 g h (o + 8) (toBytes 4 (q.tail + 1))) w g h (q.entry o q.tail) (4 * q.words)
/-- The entry received, and the queue after it (R115). -/
def queueReceive (s : State) (w g : Nat) (h : Header) (o : Nat) (q : StageQueue) : State × List Word :=
  let ws := (List.range q.words).map fun k => BitVec.ofNat 32 (ofBytes (readLocal s g h (q.entry o q.head + 4 * k) 4))
  (noteEntry (writeLocal s g h (o + 4) (toBytes 4 (q.head + 1))) w g h (q.entry o q.head) (4 * q.words), ws)

/-! ## Instructions (R205) -/

/-- An offset of a barrier object or queue must be a multiple of 16 (R108, R114). -/
def objectAligned (o : Nat) : Except Stop PUnit := orTrap (o % 16 == 0) 3 (BitVec.ofNat 64 o)
/-- The bytes of an object that an instruction reads hold no poison (R392); in the aperture it reads none. -/
def objectClean (h : Here) (s : State) (o n : Nat) : Except Stop PUnit := if isAperture o then .ok ⟨⟩ else localClean h s [o] n

/-- An event of the issuing group, one for each issue (R205). -/
def barrierForm (e : Nat → BarrierEvent) (o : BarA) (s : State) : Outcome :=
  performLate s fun h => do
    orIllegal (decide (o.a.toNat ≤ 62) && h.sregOk (o.a.toNat + 1))
    notInScout h
    let off := (h.sreg o.a.toNat).toNat
    objectAligned off
    objectClean h s off 16
    .ok (advance h (strandEvent h s off (e (h.sreg (o.a.toNat + 1)).toNat)))
/-- R205 -/
def execBexp (o : BarA) (s : State) : Outcome := barrierForm (fun x => .expect (x % 2 ^ 31)) o s
/-- R205 -/
def execBarr (o : BarA) (s : State) : Outcome := barrierForm (fun x => .arrive (x % 2 ^ 16)) o s

end Sys2Proof.Machine
end

