-- ==== Sys2Proof/Machine/Calends.lean ====
section
/-! DEFINITION. The discipline of the Calends (R377 to R380): its registers, its sources, and the slave clock of the time input. -/

namespace Sys2Proof.Machine

/-- `CAL_RATE` clamped (R377). -/
def clampRate (v : Word) : Word := BitVec.ofInt 32 (clampInt (-200000) 200000 v.toInt)
/-- The bound of R379 for a source, in ns: none for a free-running Calends, nor for the MGC's input before TIMECFG (R380). -/
def lockBound (s : State) : Option Nat :=
  match s.calSrc with
  | 1 => some 1000
  | 2 => if s.mgc.timecfg.isSome then some 100 else none
  | _ => none
/-- An offset measured from the source: within the bound it counts toward LOCKED, beyond it LOCKED is lost (R377). -/
def measure (s : State) (offset : Quad) : State :=
  match lockBound s with
  | none => s
  | some b =>
    if offset.toInt.natAbs ≤ b then { s with calOffset := offset, calGood := some (s.calGood.getD s.clk) }
    else { s with calOffset := offset, calGood := none, calLocked := false }
/-- `CAL_STEP` (R377, R378): the Calends goes forward in one clk; a step that would pass its end, and so make it decrease, is
ignored. Context time excludes it. -/
def stepCalends (s : State) (ns : Quad) : State :=
  if s.calends.toNat + ns.toNat < 2 ^ 64 then { s with calends := s.calends + ns } else s
/-- R378 -/
def execCalStep (ns : BitVec 64) (s : State) : Outcome := event (if s.live then stepCalends s ns else s)
/-- R379: with SRC 1 the driver relates host time to the Calends. -/
def execPtmResponse (offset : BitVec 64) (s : State) : Outcome :=
  event (if s.live && s.calSrc == 1 then measure s offset else s)
/-- Whether the offset has been within the bound for 16 seconds (R377): 16 · 1.05 · 10^9 clk. -/
def lockedDue (s : State) : Bool :=
  s.live && !s.calLocked && (lockBound s).isSome && s.calGood.any fun t => decide (t + 16800000000 ≤ s.clk)
/-- R377 -/
def execLocked (s : State) : Outcome := event (if lockedDue s then { s with calLocked := true } else s)

/-! ## The time input (R379, R380)

Frames and messages are laid out as IEEE 802.3, IPv4, UDP and IEEE 1588-2019 lay them out (PRESUMED, log 43). -/

/-- A number that bytes stand for, high byte first, and its bytes. -/
def bigAt (bs : List Byte) (off n : Nat) : Nat := ofBytes ((bs.drop off).take n).reverse
def bigBytes (n x : Nat) : List Byte := (toBytes n x).reverse
/-- Settings of TIMECFG (R382). -/
def cfgUdp (c : List Byte) : Bool := numAt c 0 1 == 1
def cfgVlan (c : List Byte) : Nat := numAt c 2 2
def cfgIp (c : List Byte) : List Byte := (c.drop 4).take 4
def cfgMac (c : List Byte) : List Byte := (c.drop 12).take 6
/-- The group addresses of PTP: of Ethernet, of IPv4, and the Ethernet address of the latter. -/
def ptpMac : List Byte := [0x01, 0x1B, 0x19, 0, 0, 0]
def ptpIp : List Byte := [224, 0, 1, 129]
def ptpIpMac : List Byte := [0x01, 0, 0x5E, 0, 1, 129]
/-- The sum of the 16-bit words of an IPv4 header, carries folded in. -/
def headerSum (bs : List Byte) : Nat :=
  let x := ((List.range (bs.length / 2)).map fun k => bigAt bs (2 * k) 2).foldl (· + ·) 0
  let y := x % 65536 + x / 65536
  y % 65536 + y / 65536
/-- The message that a frame on the lane carries, if it comes over the transport, in the VLAN and to an address that is set. -/
def unframe (c f : List Byte) : Option (List Byte) :=
  let tagged := cfgVlan c != 0
  let n := if tagged then 18 else 14
  let tagOk := !tagged || (bigAt f 12 2 == 0x8100 && bigAt f 14 2 % 4096 == cfgVlan c)
  let mac := f.take 6
  let kind := bigAt f (n - 2) 2
  let p := f.drop n
  if !tagOk then none
  else if !(cfgUdp c) then if kind == 0x88F7 && (mac == ptpMac || mac == cfgMac c) then some p else none
  else
    let h := 4 * (numAt p 0 1 % 16)
    let dst := (p.drop 16).take 4
    let port := bigAt p (h + 2) 2
    if kind == 0x0800 && (mac == ptpIpMac || mac == cfgMac c) && numAt p 0 1 / 16 == 4 && decide (20 ≤ h) && headerSum (p.take h) == 0xFFFF
        && numAt p 9 1 == 17 && (dst == ptpIp || dst == cfgIp c) && (port == 319 || port == 320) then
      some ((p.take (bigAt p 2 2)).drop (h + 8))
    else none
/-- An event message framed for the lane. -/
def reframe (c m : List Byte) : List Byte :=
  let tag := if cfgVlan c = 0 then [] else bigBytes 2 0x8100 ++ bigBytes 2 (cfgVlan c)
  if cfgUdp c then
    let ip (sum : Nat) : List Byte := [0x45, 0] ++ bigBytes 2 (28 + m.length) ++ [0, 0, 0, 0, 1, 17] ++ bigBytes 2 sum ++ cfgIp c ++ ptpIp
    ptpIpMac ++ cfgMac c ++ tag ++ bigBytes 2 0x0800 ++ ip (0xFFFF - headerSum (ip 0))
      ++ bigBytes 2 319 ++ bigBytes 2 319 ++ bigBytes 2 (8 + m.length) ++ [0, 0] ++ m
  else ptpMac ++ cfgMac c ++ tag ++ bigBytes 2 0x88F7 ++ m

/-- Fields of a PTP message. -/
def ptpType (m : List Byte) : Nat := numAt m 0 1 % 16
def ptpPort (m : List Byte) : List Byte := (m.drop 20).take 10
def ptpSeq (m : List Byte) : Nat := bigAt m 30 2
/-- Correction field, in whole ns. -/
def ptpCorrection (m : List Byte) : Int := signed 64 (bigAt m 8 8) / 65536
/-- A timestamp, in ns. -/
def ptpTime (m : List Byte) (off : Nat) : Int := 1000000000 * bigAt m off 6 + bigAt m (off + 6) 4
/-- Whether a message is of the version and the domain that are set, and as long as it says. -/
def ptpOk (c m : List Byte) : Bool :=
  numAt m 1 1 % 16 == 2 && numAt m 4 1 == numAt c 1 1 && decide (44 ≤ m.length) && decide (bigAt m 2 2 ≤ m.length)
/-- The port identity of this clock: its number is 1. -/
def ownPort (c : List Byte) : List Byte := (cfgMac c).take 3 ++ [0xFF, 0xFE] ++ (cfgMac c).drop 3 ++ [0, 1]
/-- How a grandmaster ranks, the least being the best: priority 1, clock quality, priority 2, identity, then its distance. -/
def ptpRank (m : List Byte) : Nat := bigAt m 47 16
/-- The slave clock changed. -/
def modPtp (s : State) (f : Ptp → Ptp) : State := { s with mgc := { s.mgc with ptp := f s.mgc.ptp } }

/-- An Announce: its sender is followed if it is the best heard of, or if the master has been silent for three intervals of 2 s. -/
def ptpAnnounce (s : State) (m : List Byte) : State :=
  let p := s.mgc.ptp
  let silent := p.master == [] || decide (p.heard + 6300000000 < s.clk)
  if ptpPort m == p.master || silent || decide (ptpRank m < p.rank) then
    let fresh := ptpPort m != p.master
    modPtp s fun p => { (if fresh then { p with sync := none, origin := none, request := none } else p) with
      master := ptpPort m, rank := ptpRank m, heard := s.clk }
  else s
/-- A Delay_Req leaves, timestamped at the lane. -/
def askDelay (s : State) (c : List Byte) : State :=
  let n := s.mgc.ptp.nextSeq
  let m : List Byte := [1, 2] ++ bigBytes 2 44 ++ [c.getD 1 0, 0, 0, 0] ++ List.replicate 12 0 ++ ownPort c ++ bigBytes 2 n ++ [1, 0x7F]
    ++ List.replicate 10 0
  (modPtp s fun p => { p with request := some (n, s.calends), nextSeq := (n + 1) % 65536 }).send (.lane (reframe c m))
/-- The departure of a Sync is known: the path's delay is asked for (end to end). -/
def ptpOrigin (s : State) (c : List Byte) (sent : Int) (came : Quad) : State :=
  askDelay (modPtp s fun p => { p with sync := none, origin := some (BitVec.ofInt 64 sent, came) }) c
/-- The offset is known: it is measured, and the MGC sets the rate, by a rule that the spec leaves open. -/
def ptpMeasured (s : State) (offset : Quad) : State :=
  let r := (measure s offset).takeFree
  { r.1 with calRate := clampRate r.2.low }
/-- A Delay_Resp to this clock's last request: half of the two ways' sum is the delay. -/
def ptpResponse (s : State) (c m : List Byte) : State :=
  let p := s.mgc.ptp
  match p.origin, p.request with
  | some (t1, t2), some (n, t3) =>
    if ptpSeq m = n && (m.drop 44).take 10 == ownPort c then
      let there := t2.toInt - t1.toInt
      let back := ptpTime m 34 - ptpCorrection m - t3.toInt
      ptpMeasured (modPtp s fun p => { p with origin := none, request := none }) (BitVec.ofInt 64 (there - (there + back) / 2))
    else s
  | _, _ => s
/-- A message of the master's domain arrives. -/
def ptpMessage (s : State) (c m : List Byte) : State :=
  let p := s.mgc.ptp
  let ours := p.master != [] && ptpPort m == p.master
  match ptpType m with
  | 0xB => if 64 ≤ m.length then ptpAnnounce s m else s
  | 0 =>
    if !ours then s
    else if bitOf (numAt m 6 1) 1 then modPtp s fun p => { p with sync := some (ptpSeq m, s.calends, ptpCorrection m) }
    else ptpOrigin s c (ptpTime m 34 + ptpCorrection m) s.calends
  | 8 =>
    (match p.sync with
    | some (n, came, k) => if ours && ptpSeq m == n then ptpOrigin s c (ptpTime m 34 + ptpCorrection m + k) came else s
    | none => s)
  | 9 => if ours && decide (54 ≤ m.length) then ptpResponse s c m else s
  | _ => s
/-- R379, R380: a frame arrives on the lane. With SRC 2 and settings accepted, the MGC follows the master as a slave clock with
two-step messages, hardware timestamps and end-to-end delay. -/
def execPtpEventMessage (headers message : List Byte) (s : State) : Outcome :=
  event (match s.mgc.timecfg with
    | some c =>
      if s.live && s.calSrc == 2 then
        match unframe c (headers ++ message) with
        | some m => if ptpOk c m then ptpMessage s c m else s
        | none => s
      else s
    | none => s)

end Sys2Proof.Machine
end

