-- ==== Sys2Proof/Machine/Numbers.lean ====
section
/-! DEFINITION. Number formats (R70 to R73), exact values with NaN payloads and signed zeros (R74 to R77), and the one
rounding at the end (R78 to R82). -/

namespace Sys2Proof.Machine

/-! ## Formats -/

/-- The floating-point formats (R70). -/
inductive Fmt where
  | f32 | f16 | bf16 | e4m3 | e5m2
  deriving DecidableEq, Repr

/-- Width, fraction bits and bias (R70). -/
def Fmt.bits : Fmt → Nat
  | .f32 => 32 | .f16 => 16 | .bf16 => 16 | .e4m3 => 8 | .e5m2 => 8
def Fmt.frac : Fmt → Nat
  | .f32 => 23 | .f16 => 10 | .bf16 => 7 | .e4m3 => 3 | .e5m2 => 2
def Fmt.bias : Fmt → Nat
  | .f32 => 127 | .f16 => 15 | .bf16 => 127 | .e4m3 => 7 | .e5m2 => 15
/-- Exponent of the largest finite value (R82). -/
def Fmt.emax : Fmt → Nat
  | .f32 => 127 | .f16 => 15 | .bf16 => 127 | .e4m3 => 8 | .e5m2 => 15
/-- The code of the largest finite magnitude: the bits below the sign (R70). -/
def Fmt.maxCode : Fmt → Nat
  | .f32 => 0x7F7FFFFF | .f16 => 0x7BFF | .bf16 => 0x7F7F | .e4m3 => 0x7E | .e5m2 => 0x7B
/-- The code of infinity; E4M3 has its NaN in the place (R71, R79). -/
def Fmt.infCode (t : Fmt) : Nat := t.maxCode + 1
/-- The canonical NaN (R71). -/
def Fmt.canonical : Fmt → Nat
  | .f32 => 0x7FC00000 | .f16 => 0x7E00 | .bf16 => 0x7FC0 | .e4m3 => 0x7F | .e5m2 => 0x7E
/-- The place of the sign bit. -/
def Fmt.sign (t : Fmt) : Nat := 2 ^ (t.bits - 1)
/-- How far a payload lies below its FP32 position (R74). -/
def Fmt.payloadShift : Fmt → Nat
  | .f32 => 0 | .f16 => 13 | .bf16 => 16 | .e4m3 => 22 | .e5m2 => 21

/-! ## Exact values -/

/-- An exact value: NaN with its payload in FP32 position, none when no operand gave one (R75); infinity; or the rational
`n / d` with its sign, which a zero has as well. -/
inductive Exact where
  | nan (payload : Option Nat)
  | inf (neg : Bool)
  | fin (neg : Bool) (n d : Nat)
  deriving DecidableEq, Repr

/-- Exact powers of two as a pair of numerator and denominator. -/
def scale2 (e : Int) (n d : Nat) : Nat × Nat := if 0 ≤ e then (n * 2 ^ e.toNat, d) else (n, d * 2 ^ (-e).toNat)

/-- Whether bits are a NaN of a format (R71). -/
def Fmt.isNan (t : Fmt) (x : Nat) : Bool :=
  match t with
  | .e4m3 => x % 128 == 127
  | _ => decide (t.infCode < x % t.sign)
/-- The value of the bits of a format (R70, R71, R74). -/
def Fmt.value (t : Fmt) (x : Nat) : Exact :=
  let neg := bitOf x (t.bits - 1)
  let m := x % t.sign
  if t.isNan x then .nan (some (m % 2 ^ (t.frac - 1) * 2 ^ t.payloadShift % 2 ^ 22))
  else if t != .e4m3 && m == t.infCode then .inf neg
  else
    let e := m / 2 ^ t.frac
    let f := m % 2 ^ t.frac
    let p := if e = 0 then scale2 (1 - t.bias - t.frac) f 1 else scale2 ((e : Int) - t.bias - t.frac) (2 ^ t.frac + f) 1
    .fin neg p.1 p.2

/-- The value of an integer. -/
def Exact.ofInt (x : Int) : Exact := .fin (decide (x < 0)) x.natAbs 1
/-- Whether a value is a zero. -/
def Exact.isZero : Exact → Bool
  | .fin _ n _ => n == 0
  | _ => false
def Exact.isNan : Exact → Bool
  | .nan _ => true
  | _ => false
/-- The sign of a value that is no NaN. -/
def Exact.neg : Exact → Bool
  | .nan _ => false
  | .inf s => s
  | .fin s _ _ => s
/-- The value with its sign inverted. -/
def Exact.negate : Exact → Exact
  | .nan p => .nan p
  | .inf s => .inf !s
  | .fin s n d => .fin (!s) n d
/-- The magnitude and sign of a finite value as one integer numerator. -/
def signedNum (neg : Bool) (n : Nat) : Int := if neg then -(n : Int) else n

/-- The NaN that the NaN operands make: the least payload (R75). -/
def nanOf (xs : List Exact) : Option Exact :=
  xs.foldl (fun r x => match x, r with
    | .nan p, some (.nan q) => some (.nan (match p, q with
        | some a, some b => some (min a b)
        | some a, none => some a
        | none, q => q))
    | .nan p, _ => some (.nan p)
    | _, r => r) none

/-- The exact product; signs by exclusive-or, 0 × Inf is NaN (R75, R77). -/
def Exact.mul (x y : Exact) : Exact :=
  match nanOf [x, y] with
  | some z => z
  | none => match x, y with
    | .inf s, y => if y.isZero then .nan none else .inf (s != y.neg)
    | x, .inf s => if x.isZero then .nan none else .inf (s != x.neg)
    | .fin s a b, .fin t c d => .fin (s != t) (a * c) (b * d)
    | .nan p, _ => .nan p
    | _, .nan p => .nan p
/-- The exact sum; `down` says that the mode is RD, for the sign of a sum that cancels (R77). -/
def Exact.add (down : Bool) (x y : Exact) : Exact :=
  match nanOf [x, y] with
  | some z => z
  | none => match x, y with
    | .inf s, .inf t => if s = t then .inf s else .nan none
    | .inf s, _ => .inf s
    | _, .inf t => .inf t
    | .fin s a b, .fin t c d =>
      if a = 0 ∧ c = 0 then .fin (s && t) 0 1
      else
        let n := signedNum s a * d + signedNum t c * b
        if n = 0 then .fin down 0 1 else .fin (decide (n < 0)) n.natAbs (b * d)
    | .nan p, _ => .nan p
    | _, .nan p => .nan p
/-- The exact quotient (R174). -/
def Exact.div (x y : Exact) : Exact :=
  match nanOf [x, y] with
  | some z => z
  | none => match x, y with
    | .inf _, .inf _ => .nan none
    | .inf s, y => .inf (s != y.neg)
    | .fin s _ _, .inf t => .fin (s != t) 0 1
    | .fin s a b, .fin t c d =>
      if c = 0 then (if a = 0 then .nan none else .inf (s != t)) else .fin (s != t) (a * d) (b * c)
    | .nan p, _ => .nan p
    | _, .nan p => .nan p
/-- Whether one value is below another; neither is a NaN. -/
def Exact.lt (x y : Exact) : Bool :=
  match x, y with
  | .inf s, .inf t => s && !t
  | .inf s, .fin .. => s
  | .fin .., .inf t => !t
  | .fin s a b, .fin t c d => decide (signedNum s a * d < signedNum t c * b)
  | _, _ => false
/-- Whether two values are equal; a NaN equals nothing, and the zeros are equal. -/
def Exact.eq (x y : Exact) : Bool :=
  match x, y with
  | .inf s, .inf t => s == t
  | .fin s a b, .fin t c d => decide (signedNum s a * d = signedNum t c * b)
  | _, _ => false

/-! ## Rounding (R78, R79, R82) -/

/-- The rounding modes (R78). -/
inductive Rm where
  | rn | rz | rd | ru
  | rs (seed : Word)
  deriving DecidableEq, Repr

/-- The hash of R82. -/
def stochasticHash (d seed : Word) : Word :=
  let h := d ^^^ seed
  let h := h ^^^ (h >>> 16)
  let h := h * 0x9E2D5A17
  let h := h ^^^ (h >>> 13)
  let h := h * 0xC3B16F4D
  h ^^^ (h >>> 16)

/-- floor(log2(n / d)) of a positive rational. -/
def floorLog2 (n d : Nat) : Int :=
  let e : Int := (Nat.log2 n : Int) - Nat.log2 d
  let p := scale2 e d 1
  -- n / d lies between 2 ^ (e - 1) and 2 ^ (e + 1)
  if p.1 ≤ n * p.2 then e else e - 1

/-- Whether the neighbour away from zero is taken: the quotient is even or odd, the remainder is `r / d` of the gap. -/
def roundsAway (rm : Rm) (neg odd : Bool) (r d : Nat) : Bool :=
  if r = 0 then false
  else match rm with
    | .rn => decide (d < 2 * r) || (decide (2 * r = d) && odd)
    | .rz => false
    | .rd => neg
    | .ru => !neg
    | .rs seed =>
      let dd := BitVec.ofNat 32 (r * 2 ^ 32 / d)
      decide ((stochasticHash dd seed).toNat < dd.toNat)

/-- What overflows becomes: the code of the largest finite value or of infinity (R79). -/
def overflowCode (t : Fmt) (rm : Rm) (neg : Bool) : Nat :=
  match rm with
  | .rn => t.infCode
  | .rz => t.maxCode
  | .rd => if neg then t.infCode else t.maxCode
  | .ru => if neg then t.maxCode else t.infCode
  | .rs _ => t.infCode

/-- The magnitude of the code of a format, as a numerator and a denominator. -/
def codeValue (t : Fmt) (c : Nat) : Nat × Nat :=
  let e := c / 2 ^ t.frac
  if e = 0 then scale2 (1 - t.bias - t.frac) (c % 2 ^ t.frac) 1
  else scale2 ((e : Int) - t.bias - t.frac) (2 ^ t.frac + c % 2 ^ t.frac) 1

/-- The code of the magnitude to which a positive rational rounds, once (R79, R82). -/
def roundCode (t : Fmt) (rm : Rm) (neg : Bool) (n d : Nat) : Nat :=
  let emin : Int := 1 - (t.bias : Int)
  let e := max emin (floorLog2 n d)
  let top := codeValue t t.maxCode
  if (t.emax : Int) < e then overflowCode t rm neg
  else if t = .e4m3 ∧ top.1 * d < n * top.2 then
    -- between 448 and 512
    match rm with
    | .rn => if 464 * d ≤ n then t.infCode else t.maxCode
    | .rs _ => if roundsAway rm neg false (n - 448 * d) (64 * d) then t.infCode else t.maxCode
    | _ => overflowCode t rm neg
  else
    let p := scale2 ((t.frac : Int) - e) n d
    let q := p.1 / p.2
    let c := (e - emin).toNat * 2 ^ t.frac + (if roundsAway rm neg (q % 2 == 1) (p.1 % p.2) p.2 then q + 1 else q)
    if t.maxCode < c then overflowCode t rm neg else c

/-- The bits of a NaN with a payload in FP32 position (R75, R76). -/
def nanBits (t : Fmt) (neg : Bool) (payload : Nat) : Nat :=
  bit neg * t.sign +
    (match t with
     | .e4m3 => 0x7F
     | _ => t.infCode + 2 ^ (t.frac - 1) + payload / 2 ^ t.payloadShift)
/-- Saturation after rounding (R80). -/
def saturate (t : Fmt) (sat : Bool) (c : Nat) : Nat := if sat && t.infCode ≤ c then t.maxCode else c
/-- The bits of a value rounded once to a format (R79 to R82). -/
def roundTo (t : Fmt) (rm : Rm) (sat : Bool) (x : Exact) : Nat :=
  match x with
  | .nan none => t.canonical
  | .nan (some p) => nanBits t false p
  | .inf s => bit s * t.sign + saturate t sat t.infCode
  | .fin s n d => bit s * t.sign + (if n = 0 then 0 else saturate t sat (roundCode t rm s n d))

/-- The magnitude rounded to an integer in a mode (R81). -/
def roundMagnitude (rm : Rm) (neg : Bool) (n d : Nat) : Nat :=
  if roundsAway rm neg (n / d % 2 == 1) (n % d) d then n / d + 1 else n / d
/-- A value rounded to an integer and clamped to a range (R81). -/
def roundToInt (rm : Rm) (lo hi : Int) (x : Exact) : Int :=
  match x with
  | .nan _ => 0
  | .inf s => if s then lo else hi
  | .fin s n d => clampInt lo hi (signedNum s (roundMagnitude rm s n d))
/-- A value rounded to an integral value; a zero keeps its sign (R174). -/
def integral (rm : Rm) (x : Exact) : Exact :=
  match x with
  | .fin s n d => .fin s (roundMagnitude rm s n d) 1
  | y => y

/-- The integer square root, by halving the interval. -/
def isqrt (n : Nat) : Nat :=
  let rec go (fuel lo hi : Nat) : Nat :=
    match fuel with
    | 0 => lo
    | f + 1 => if hi ≤ lo + 1 then lo else
        let m := (lo + hi) / 2
        if m * m ≤ n then go f m hi else go f lo m
  go (Nat.log2 n + 2) 0 (2 ^ (Nat.log2 n / 2 + 1))
/-- The square root of a non-negative rational as a rational that rounds as the root does at any format of R70: 64 bits of
it, and one more bit when it is not exact. -/
def sqrtRat (n d : Nat) : Nat × Nat :=
  let e := floorLog2 n d / 2
  let p := scale2 (2 * (64 - e)) n d
  let q := isqrt (p.1 / p.2)
  if q * q * p.2 = p.1 then scale2 (e - 64) q 1 else scale2 (e - 65) (2 * q + 1) 1
/-- The square root (R174). -/
def Exact.sqrt (x : Exact) : Exact :=
  match x with
  | .nan p => .nan p
  | .inf s => if s then .nan none else .inf false
  | .fin s n d => if n = 0 then .fin s 0 1 else if s then .nan none else let r := sqrtRat n d; .fin false r.1 r.2

/-! ## Conversion between formats -/

/-- A conversion between floating formats: a NaN keeps its sign and high payload bits (R76, R79, R80). -/
def convert (src dst : Fmt) (rm : Rm) (sat : Bool) (x : Nat) : Nat :=
  match src.value x with
  | .nan p => nanBits dst (bitOf x (src.bits - 1)) (p.getD 0)
  | v => roundTo dst rm sat v

end Sys2Proof.Machine
end

