-- ==== Sys2Proof/Machine/Approx.lean ====
section
/-! DEFINITION. The approximations of R175: the special cases as the table gives them, and elsewhere a free FP32 value
held within the stated bound of the exact result (log 16). -/

namespace Sys2Proof.Machine

/-! ## Enclosures of the exact results, as fixed-point numbers with 128 fraction bits -/

/-- One, in fixed point. -/
def fxOne : Nat := 2 ^ 128
/-- ln 2 and π, truncated to 128 fraction bits. -/
def fxLn2 : Nat := 235865763225513294137944142764154484399
def fxPi : Nat := 1069028584064966747859680373161870783300
/-- A product of fixed-point numbers, truncated. -/
def fxMul (a b : Nat) : Nat := a * b / fxOne
/-- The sum of `x ^ k / k!`, from term `k` on, where `t` is term `k`. -/
def fxExp : Nat → Nat → Nat → Nat → Nat
  | 0, _, _, _ => 0
  | fuel + 1, x, t, k => t + fxExp fuel x (fxMul t x / (k + 1)) (k + 1)
/-- 2 ^ f for a fraction `f`. -/
def fxExp2 (f : Nat) : Nat := fxExp 40 (fxMul f fxLn2) fxOne 0
/-- The fraction bits of log2 m for m in [1, 2), by squaring. -/
def fxLog2 : Nat → Nat → Nat
  | 0, _ => 0
  | fuel + 1, m =>
    let sq := fxMul m m
    if 2 * fxOne ≤ sq then 2 ^ fuel + fxLog2 fuel (sq / 2) else fxLog2 fuel sq
/-- The series of sine (from k = 1, t = x) and cosine (from k = 0, t = 1), signs alternating. -/
def fxTrig : Nat → Nat → Nat → Nat → Bool → Int
  | 0, _, _, _, _ => 0
  | fuel + 1, xx, t, k, s =>
    (if s then -(t : Int) else t) + fxTrig fuel xx (fxMul t xx / ((k + 1) * (k + 2))) (k + 2) (!s)
/-- Sine and cosine of an angle in [0, π/2], in fixed point. -/
def fxSin (x : Nat) : Int := fxTrig 20 (fxMul x x) x 1 false
def fxCos (x : Nat) : Int := fxTrig 20 (fxMul x x) fxOne 0 false

/-! ## Ordered codes -/

/-- A code of FP32 in the order of the values, −0 below +0. -/
def ordOf (x : Nat) : Int := if bitOf x 31 then -1 - (x % 2 ^ 31 : Nat) else x
/-- The code at a place of the order. -/
def ofOrd (k : Int) : Nat := if k < 0 then 2 ^ 31 + (-1 - k).toNat else k.toNat
/-- The least code whose value is at or above a rational. -/
def ordAbove (n : Int) (d : Nat) : Int :=
  if 0 < n then roundCode .f32 .ru false n.toNat d else if n = 0 then -1 else -1 - (roundCode .f32 .rz true n.natAbs d : Int)
/-- The greatest code whose value is at or below a rational. -/
def ordBelow (n : Int) (d : Nat) : Int :=
  if n < 0 then -1 - (roundCode .f32 .ru false n.natAbs d : Int) else roundCode .f32 .rz false n.toNat d
/-- The free value of a function, held between two rationals with a common denominator. -/
def heldBetween (k : Nat) (x : Word) (lo hi : Int) (d : Nat) : Nat :=
  ofOrd (clampInt (ordAbove lo d) (ordBelow hi d) (Config.approx k x))

/-- One unit in the last place at the exponent of a positive rational, in units of 2 ^ −149 (R175). -/
def ulp149 (n d : Nat) : Nat := 2 ^ (max 0 (floorLog2 n d + 126)).toNat

/-- A finite result with the sign of its exact value, whose magnitude `n / d` it meets within `k` units in the last place; its
code without the sign is at most `cap`. -/
def withinUlps (f k : Nat) (x : Word) (neg : Bool) (n d : Nat) (cap : Nat := Fmt.f32.maxCode) : Nat :=
  -- everything over the denominator d * 2 ^ 149
  let u := k * ulp149 n d * d
  let lo := max 0 (ordAbove ((n * 2 ^ 149 : Nat) - (u : Nat) : Int) (d * 2 ^ 149))
  let hi := min (cap : Int) (ordBelow (n * 2 ^ 149 + u : Nat) (d * 2 ^ 149))
  bit neg * 2 ^ 31 + (clampInt lo hi (Config.approx f x)).toNat

/-! ## The functions -/

/-- Whether a positive rational is a power of two. -/
def isPow2 (n d : Nat) : Bool :=
  let p := scale2 (floorLog2 n d) d 1
  p.1 == n * p.2

/-- 1 / a (R175). -/
def frcpOf (x : Word) : Nat :=
  match Fmt.f32.value x.toNat with
  | .nan p => roundTo .f32 .rn false (.nan p)
  | .inf s => bit s * 2 ^ 31
  | .fin s n d =>
    if n = 0 then bit s * 2 ^ 31 + Fmt.f32.infCode
    else if isPow2 d n && decide (-126 ≤ floorLog2 d n) && decide (floorLog2 d n ≤ 127) then roundTo .f32 .rn false (.fin s d n)
    -- beyond the finite range it is infinity (R79); above 2 ^ 126 the result is subnormal
    else if (2 ^ 128 - 2 ^ 103) * n ≤ d then bit s * 2 ^ 31 + Fmt.f32.infCode
    else withinUlps 0 1 x s d n (if 2 ^ 126 * d < n then 2 ^ 23 - 1 else Fmt.f32.maxCode)
/-- 1 / √a (R175). -/
def frsqOf (x : Word) : Nat :=
  match Fmt.f32.value x.toNat with
  | .nan p => roundTo .f32 .rn false (.nan p)
  | .inf s => if s then Fmt.f32.canonical else 0
  | .fin s n d =>
    if n = 0 then bit s * 2 ^ 31 + Fmt.f32.infCode
    else if s then Fmt.f32.canonical
    else
      let r := sqrtRat d n
      if isPow2 d n && floorLog2 d n % 2 == 0 then roundTo .f32 .rn false (.fin false r.1 r.2)
      else withinUlps 1 1 x false r.1 r.2
/-- 2 ^ a (R175). -/
def fex2Of (x : Word) : Nat :=
  match Fmt.f32.value x.toNat with
  | .nan p => roundTo .f32 .rn false (.nan p)
  | .inf s => if s then 0 else Fmt.f32.infCode
  | .fin s n d =>
    let v := signedNum s n
    if 128 * (d : Int) ≤ v then Fmt.f32.infCode
    else if v < -150 * (d : Int) then 0
    else
      let i := v / (d : Int)
      let f := (v % (d : Int)).toNat
      let p := scale2 i (fxExp2 (f * fxOne / d)) fxOne
      if f = 0 ∧ -149 ≤ i then (let q := scale2 i 1 1; roundTo .f32 .rn false (.fin false q.1 q.2))
      else withinUlps 2 2 x false p.1 p.2
/-- log2 a (R175). -/
def flg2Of (x : Word) : Nat :=
  match Fmt.f32.value x.toNat with
  | .nan p => roundTo .f32 .rn false (.nan p)
  | .inf s => if s then Fmt.f32.canonical else Fmt.f32.infCode
  | .fin s n d =>
    if n = 0 then 2 ^ 31 + Fmt.f32.infCode
    else if s then Fmt.f32.canonical
    else
      let e := floorLog2 n d
      if isPow2 n d then roundTo .f32 .rn false (Exact.ofInt e)
      else
        let m := scale2 (128 - e) n d
        let l : Int := e * 2 ^ 64 + (fxLog2 64 (m.1 / m.2) : Int)
        if d ≤ 2 * n ∧ n ≤ 2 * d then heldBetween 3 x (l - 2 ^ 42) (l + 2 ^ 42) (2 ^ 64)
        else withinUlps 3 2 x (decide (l < 0)) l.natAbs (2 ^ 64)
/-- Sine and cosine: the angle is reduced by quarter turns (R175). -/
def ftrigOf (k : Nat) (x : Word) : Nat :=
  match Fmt.f32.value x.toNat with
  | .nan p => roundTo .f32 .rn false (.nan p)
  | .inf _ => Fmt.f32.canonical
  | .fin s n d =>
    if n = 0 then (if k = 4 then bit s * 2 ^ 31 else 0x3F800000)
    else if 2 ^ 20 * d < n then heldBetween k x (-1) 1 1
    else
      let a := n * fxOne / d
      let half := fxPi / 2
      let q := a / half + (if k = 5 then 1 else 0)
      let r := a % half
      -- sin(a) by quarters; cosine is a quarter turn ahead
      let v : Int := match q % 4 with
        | 0 => fxSin r
        | 1 => fxCos r
        | 2 => -(fxSin r)
        | _ => -(fxCos r)
      let w := if s && k = 4 then -v else v
      heldBetween k x (w - 2 ^ 107) (w + 2 ^ 107) fxOne

end Sys2Proof.Machine
end

