-- ==== Sys2Proof/Machine/Float.lean ====
section
/-! DEFINITION. Floating-point arithmetic, compares, approximations and conversions (R170 to R176): opcodes 0x1E to 0x2B. -/

namespace Sys2Proof.Machine

/-! ## Arithmetic of one strand -/

/-- A function of two values of a format, on bits, rounded once. -/
def op2 (t : Fmt) (rm : Rm) (f : Exact → Exact → Exact) (a b : Nat) : Nat := roundTo t rm false (f (t.value a) (t.value b))
/-- The fused multiply-add, rounded once (R171). -/
def fma (t : Fmt) (a b c : Nat) : Nat :=
  let x := t.value a
  let y := t.value b
  let z := t.value c
  roundTo t .rn false (match nanOf [x, y, z] with | some w => w | none => (x.mul y).add false z)
/-- Minimum and maximum: one of the operands as it stands, −0 below +0; a NaN gives the NaN of R75 (R172). -/
def minMax (t : Fmt) (big : Bool) (a b : Nat) : Nat :=
  let x := t.value a
  let y := t.value b
  match nanOf [x, y] with
  | some w => roundTo t .rn false w
  | none =>
    let below := x.lt y || (x.isZero && y.isZero && x.neg && !y.neg)
    let above := y.lt x || (x.isZero && y.isZero && y.neg && !x.neg)
    if big then (if below then b else a) else if above then b else a
/-- Sums, differences, products and quotients; a difference adds the value with its sign inverted. -/
def fadd (t : Fmt) (rm : Rm) (a b : Nat) : Nat := op2 t rm (Exact.add (rm == .rd)) a b
def fsub (t : Fmt) (rm : Rm) (a b : Nat) : Nat := op2 t rm (fun x y => x.add (rm == .rd) y.negate) a b
def fmul (t : Fmt) (rm : Rm) (a b : Nat) : Nat := op2 t rm Exact.mul a b
def fdiv (t : Fmt) (rm : Rm) (a b : Nat) : Nat := op2 t rm Exact.div a b
def fsqrt (t : Fmt) (rm : Rm) (a : Nat) : Nat := roundTo t rm false (t.value a).sqrt
def frnd (t : Fmt) (rm : Rm) (a : Nat) : Nat := roundTo t rm false (integral rm (t.value a))
/-- Sign operations change the sign bit alone (R76, R174). -/
def fabs (t : Fmt) (a : Nat) : Nat := a % t.sign
def fneg (t : Fmt) (a : Nat) : Nat := a % t.sign + (if bitOf a (t.bits - 1) then 0 else t.sign)
def fsgn (t : Fmt) (d a : Nat) : Nat := d % t.sign + (if bitOf a (t.bits - 1) then t.sign else 0)

/-! ## Registers of one or of two values -/

/-- A function of the bits of a register, or of each half of a packed one (R170). -/
def lift1 (t : Fmt) (f : Nat → Nat) (a : Word) : Word :=
  match t with
  | .f32 => BitVec.ofNat 32 (f a.toNat)
  | _ => BitVec.ofNat 32 (f (a.toNat % 2 ^ 16) + 2 ^ 16 * f (a.toNat / 2 ^ 16))
def lift2 (t : Fmt) (f : Nat → Nat → Nat) (a b : Word) : Word :=
  match t with
  | .f32 => BitVec.ofNat 32 (f a.toNat b.toNat)
  | _ => BitVec.ofNat 32 (f (a.toNat % 2 ^ 16) (b.toNat % 2 ^ 16) + 2 ^ 16 * f (a.toNat / 2 ^ 16) (b.toNat / 2 ^ 16))
def lift3 (t : Fmt) (f : Nat → Nat → Nat → Nat) (a b c : Word) : Word :=
  match t with
  | .f32 => BitVec.ofNat 32 (f a.toNat b.toNat c.toNat)
  | _ => BitVec.ofNat 32 (f (a.toNat % 2 ^ 16) (b.toNat % 2 ^ 16) (c.toNat % 2 ^ 16)
      + 2 ^ 16 * f (a.toNat / 2 ^ 16) (b.toNat / 2 ^ 16) (c.toNat / 2 ^ 16))
/-- Which halves of a result are invalid: of a packed one each half on its own (R183). -/
def markHalves (t : Fmt) (xs : List (Src Word)) (v : Nat → Word) : Src Word :=
  match t with
  | .f32 => { val := v, low := fun i => xs.any (·.bad i), high := fun i => xs.any (·.bad i) }
  | _ => { val := v, low := fun i => xs.any (·.low i), high := fun i => xs.any (·.high i) }

/-! ## Forms -/

/-- TRI on floating values (R171, R172). -/
def floatTri (t : Fmt) (f : Nat → Nat → Nat) (o : Tri) (s : State) : Outcome :=
  perform s fun h => do
    orIllegal (srcOk o.a none && h.srcUOk o.b o.u o.lit && dstOk o.dst)
    let lanes ← h.performing o.p
    let d ← h.dst o.dst
    let a ← h.src o.a none
    let b ← h.srcU o.b o.u o.lit
    .ok (advance h (put32 h s d lanes (markHalves t [a, b] fun i => lift2 t f (a.val i) (b.val i))))
/-- The fused multiply-add (R171). -/
def floatFma (t : Fmt) (o : Tri) (s : State) : Outcome :=
  perform s fun h => do
    orIllegal (srcOk o.a none && h.srcUOk o.b o.u o.lit && dstOk o.dst)
    let lanes ← h.performing o.p
    let d ← h.dst o.dst
    let old ← h.oldDst o.dst
    let a ← h.src o.a none
    let b ← h.srcU o.b o.u o.lit
    .ok (advance h (put32 h s d lanes (markHalves t [a, b, old] fun i => lift3 t (fma t) (a.val i) (b.val i) (old.val i))))

/-- A COND code over two floating values (R173). -/
def floatCond (t : Fmt) (cond : BitVec 3) (a b : Nat) : Bool :=
  let x := t.value a
  let y := t.value b
  let ord := !(x.isNan || y.isNan)
  match cond.toNat with
  | 0 => x.eq y
  | 1 => !(x.eq y)
  | 2 => ord && x.lt y
  | 3 => ord && (x.lt y || x.eq y)
  | 4 => ord && y.lt x
  | 5 => ord && (y.lt x || x.eq y)
  | 6 => ord
  | _ => !ord
/-- `fcmp` (R173); FP16 values are those of the low halves. -/
def floatCmp (t : Fmt) (o : Cmp) (s : State) : Outcome :=
  perform s fun h => do
    orIllegal (srcOk o.a none && h.srcUOk o.b o.u o.lit)
    let lanes ← h.performing o.p
    let a ← h.src o.a none
    let b ← h.srcU o.b o.u o.lit
    let v (x : Src Word) (i : Nat) : Nat := (x.val i).toNat % 2 ^ t.bits
    let bad (x : Src Word) (i : Nat) : Bool := if t = .f32 then x.bad i else x.low i
    .ok (advance h (putTruth h s o.mask o.acc lanes (fun i => floatCond t o.cond (v a i) (v b i)) fun i => bad a i || bad b i))

/-- The seed of stochastic rounding: `s63`, or `s15` in supervisor mode (R170, R244). -/
def Here.seedReg (h : Here) : Nat := if h.i.sup then 15 else 63
/-- A mode of the RM field, up to the greatest code that the entry accepts (R78). -/
def Here.rm (h : Here) (top : Nat) (rm : BitVec 3) : Except Stop Rm :=
  if top < rm.toNat then .error illegalInstruction
  else match rm.toNat with
    | 0 => .ok .rn
    | 1 => .ok .rz
    | 2 => .ok .rd
    | 3 => .ok .ru
    | _ => .ok (.rs (h.sreg h.seedReg))
/-- Whether the seed that a mode uses is invalid. -/
def Here.rmBad (h : Here) (rm : BitVec 3) : Bool := rm == 4 && h.sMark h.seedReg

/-- FLT that combines dst with a (R174). -/
def floatAcc (t : Fmt) (top : Nat) (f : Rm → Nat → Nat → Nat) (o : Flt) (s : State) : Outcome :=
  perform s fun h => do
    let rm ← h.rm top o.rm
    orIllegal (h.srcUOk o.a o.u o.lit && dstOk o.dst)
    let lanes ← h.performing o.p
    let d ← h.dst o.dst
    let old ← h.oldDst o.dst
    let a ← h.srcU o.a o.u o.lit
    let seed : Src Word := { val := fun _ => 0, low := fun _ => h.rmBad o.rm, high := fun _ => h.rmBad o.rm }
    .ok (advance h (put32 h s d lanes (markHalves t [old, a, seed] fun i => lift2 t (f rm) (old.val i) (a.val i))))
/-- FLT of one operand (R174). -/
def floatOne (t : Fmt) (f : Rm → Nat → Nat) (o : Flt) (s : State) : Outcome :=
  perform s fun h => do
    let rm ← h.rm 3 o.rm
    orIllegal (h.srcUOk o.a o.u o.lit && dstOk o.dst)
    let lanes ← h.performing o.p
    let d ← h.dst o.dst
    let a ← h.srcU o.a o.u o.lit
    .ok (advance h (put32 h s d lanes (markHalves t [a] fun i => lift1 t (f rm) (a.val i))))
/-- FLT of one operand whose RM must be 0. -/
def floatDuo (t : Fmt) (f : Nat → Nat) (o : Duo) (s : State) : Outcome :=
  perform s fun h => do
    orIllegal (h.srcUOk o.a o.u o.lit && dstOk o.dst)
    let lanes ← h.performing o.p
    let d ← h.dst o.dst
    let a ← h.srcU o.a o.u o.lit
    .ok (advance h (put32 h s d lanes (markHalves t [a] fun i => lift1 t f (a.val i))))
/-- `fsgn`: dst with the sign of a (R174). -/
def floatSign (t : Fmt) (o : Duo) (s : State) : Outcome :=
  perform s fun h => do
    orIllegal (h.srcUOk o.a o.u o.lit && dstOk o.dst)
    let lanes ← h.performing o.p
    let d ← h.dst o.dst
    let old ← h.oldDst o.dst
    let a ← h.srcU o.a o.u o.lit
    .ok (advance h (put32 h s d lanes (markHalves t [old, a] fun i => lift2 t (fsgn t) (old.val i) (a.val i))))

/-! ## Conversions (R176) -/

/-- FP32 to a narrower format. -/
def narrowForm (t : Fmt) (o : CvtSat) (s : State) : Outcome :=
  perform s fun h => do
    let rm ← h.rm 4 o.rm
    orIllegal (h.srcUOk o.a o.u o.lit && dstOk o.dst)
    let lanes ← h.performing o.p
    let d ← h.dst o.dst
    let a ← h.srcU o.a o.u o.lit
    let bad (i : Nat) : Bool := a.bad i || h.rmBad o.rm
    .ok (advance h (put32 h s d lanes
      { val := fun i => BitVec.ofNat 32 (convert .f32 t rm o.sat (a.val i).toNat), low := bad, high := bad }))
/-- A narrower format to FP32; the higher bits of a are ignored. -/
def widenForm (t : Fmt) (o : Duo) (s : State) : Outcome :=
  perform s fun h => do
    orIllegal (h.srcUOk o.a o.u o.lit && dstOk o.dst)
    let lanes ← h.performing o.p
    let d ← h.dst o.dst
    let a ← h.srcU o.a o.u o.lit
    .ok (advance h (put32 h s d lanes
      { val := fun i => BitVec.ofNat 32 (convert t .f32 .rn false ((a.val i).toNat % 2 ^ t.bits)), low := a.low, high := a.low }))
/-- Between FP32 and 32-bit integers, in the mode of RM. -/
def cvtForm (f : Rm → Word → Word) (o : Flt) (s : State) : Outcome :=
  perform s fun h => do
    let rm ← h.rm 3 o.rm
    orIllegal (h.srcUOk o.a o.u o.lit && dstOk o.dst)
    let lanes ← h.performing o.p
    let d ← h.dst o.dst
    let a ← h.srcU o.a o.u o.lit
    .ok (advance h (put32 h s d lanes (a.map (f rm))))
/-- Integers to FP32 and back (R81). -/
def toS32 (rm : Rm) (a : Word) : Word := BitVec.ofInt 32 (roundToInt rm (-(2 ^ 31)) (2 ^ 31 - 1) (Fmt.f32.value a.toNat))
def toN32 (rm : Rm) (a : Word) : Word := BitVec.ofInt 32 (roundToInt rm 0 (2 ^ 32 - 1) (Fmt.f32.value a.toNat))
def ofS32 (rm : Rm) (a : Word) : Word := BitVec.ofNat 32 (roundTo .f32 rm false (Exact.ofInt a.toInt))
def ofN32 (rm : Rm) (a : Word) : Word := BitVec.ofNat 32 (roundTo .f32 rm false (Exact.ofInt a.toNat))
def toS64 (rm : Rm) (a : Word) : Quad := BitVec.ofInt 64 (roundToInt rm (-(2 ^ 63)) (2 ^ 63 - 1) (Fmt.f32.value a.toNat))
def ofS64 (rm : Rm) (a : Quad) : Word := BitVec.ofNat 32 (roundTo .f32 rm false (Exact.ofInt a.toInt))
/-- Signed 32-bit to INT8 or INT16 (R176). -/
def narrowInt (w : Nat) (sat : Bool) (a : Word) : Word :=
  BitVec.ofInt 32 (if sat then clampInt (-(2 ^ (w - 1))) (2 ^ (w - 1) - 1) a.toInt else signed w a.toNat)
def narrowIntForm (w : Nat) (o : CvtInt) (s : State) : Outcome :=
  perform s fun h => do
    orIllegal (h.srcUOk o.a o.u o.lit && dstOk o.dst)
    let lanes ← h.performing o.p
    let d ← h.dst o.dst
    let a ← h.srcU o.a o.u o.lit
    .ok (advance h (put32 h s d lanes (a.map (narrowInt w o.sat))))

/-! ## The instructions -/

/-- R171 -/
def execFaddF32 (o : Tri) (s : State) : Outcome := floatTri .f32 (fadd .f32 .rn) o s
/-- R171 -/
def execFmulF32 (o : Tri) (s : State) : Outcome := floatTri .f32 (fmul .f32 .rn) o s
/-- R171 -/
def execFfmaF32 (o : Tri) (s : State) : Outcome := floatFma .f32 o s
/-- R171 -/
def execFsubF32 (o : Tri) (s : State) : Outcome := floatTri .f32 (fsub .f32 .rn) o s
/-- R172 -/
def execFminF32 (o : Tri) (s : State) : Outcome := floatTri .f32 (minMax .f32 false) o s
/-- R172 -/
def execFmaxF32 (o : Tri) (s : State) : Outcome := floatTri .f32 (minMax .f32 true) o s
/-- R171 -/
def execFaddF16 (o : Tri) (s : State) : Outcome := floatTri .f16 (fadd .f16 .rn) o s
/-- R171 -/
def execFmulF16 (o : Tri) (s : State) : Outcome := floatTri .f16 (fmul .f16 .rn) o s
/-- R171 -/
def execFfmaF16 (o : Tri) (s : State) : Outcome := floatFma .f16 o s
/-- R171 -/
def execFsubF16 (o : Tri) (s : State) : Outcome := floatTri .f16 (fsub .f16 .rn) o s
/-- R172 -/
def execFminF16 (o : Tri) (s : State) : Outcome := floatTri .f16 (minMax .f16 false) o s
/-- R172 -/
def execFmaxF16 (o : Tri) (s : State) : Outcome := floatTri .f16 (minMax .f16 true) o s
/-- R171 -/
def execFaddBf16 (o : Tri) (s : State) : Outcome := floatTri .bf16 (fadd .bf16 .rn) o s
/-- R171 -/
def execFmulBf16 (o : Tri) (s : State) : Outcome := floatTri .bf16 (fmul .bf16 .rn) o s
/-- R171 -/
def execFfmaBf16 (o : Tri) (s : State) : Outcome := floatFma .bf16 o s
/-- R171 -/
def execFsubBf16 (o : Tri) (s : State) : Outcome := floatTri .bf16 (fsub .bf16 .rn) o s
/-- R172 -/
def execFminBf16 (o : Tri) (s : State) : Outcome := floatTri .bf16 (minMax .bf16 false) o s
/-- R172 -/
def execFmaxBf16 (o : Tri) (s : State) : Outcome := floatTri .bf16 (minMax .bf16 true) o s
/-- R173 -/
def execFcmpF32 (o : Cmp) (s : State) : Outcome := floatCmp .f32 o s
/-- R173 -/
def execFcmpF16 (o : Cmp) (s : State) : Outcome := floatCmp .f16 o s
/-- R174 -/
def execFaddF32Rm (o : Flt) (s : State) : Outcome := floatAcc .f32 4 (fadd .f32) o s
/-- R174 -/
def execFsubF32Rm (o : Flt) (s : State) : Outcome := floatAcc .f32 4 (fsub .f32) o s
/-- R174 -/
def execFmulF32Rm (o : Flt) (s : State) : Outcome := floatAcc .f32 4 (fmul .f32) o s
/-- R174 -/
def execFdivF32 (o : Flt) (s : State) : Outcome := floatAcc .f32 3 (fdiv .f32) o s
/-- R174 -/
def execFsqrtF32 (o : Flt) (s : State) : Outcome := floatOne .f32 (fsqrt .f32) o s
/-- R174 -/
def execFrndF32 (o : Flt) (s : State) : Outcome := floatOne .f32 (frnd .f32) o s
/-- R174 -/
def execFabsF32 (o : Duo) (s : State) : Outcome := floatDuo .f32 (fabs .f32) o s
/-- R174 -/
def execFnegF32 (o : Duo) (s : State) : Outcome := floatDuo .f32 (fneg .f32) o s
/-- R174 -/
def execFsgnF32 (o : Duo) (s : State) : Outcome := floatSign .f32 o s
/-- R174 -/
def execFaddF16Rm (o : Flt) (s : State) : Outcome := floatAcc .f16 4 (fadd .f16) o s
/-- R174 -/
def execFsubF16Rm (o : Flt) (s : State) : Outcome := floatAcc .f16 4 (fsub .f16) o s
/-- R174 -/
def execFmulF16Rm (o : Flt) (s : State) : Outcome := floatAcc .f16 4 (fmul .f16) o s
/-- R174 -/
def execFdivF16 (o : Flt) (s : State) : Outcome := floatAcc .f16 3 (fdiv .f16) o s
/-- R174 -/
def execFsqrtF16 (o : Flt) (s : State) : Outcome := floatOne .f16 (fsqrt .f16) o s
/-- R174 -/
def execFrndF16 (o : Flt) (s : State) : Outcome := floatOne .f16 (frnd .f16) o s
/-- R174 -/
def execFabsF16 (o : Duo) (s : State) : Outcome := floatDuo .f16 (fabs .f16) o s
/-- R174 -/
def execFnegF16 (o : Duo) (s : State) : Outcome := floatDuo .f16 (fneg .f16) o s
/-- R174 -/
def execFsgnF16 (o : Duo) (s : State) : Outcome := floatSign .f16 o s
/-- R174 -/
def execFaddBf16Rm (o : Flt) (s : State) : Outcome := floatAcc .bf16 4 (fadd .bf16) o s
/-- R174 -/
def execFsubBf16Rm (o : Flt) (s : State) : Outcome := floatAcc .bf16 4 (fsub .bf16) o s
/-- R174 -/
def execFmulBf16Rm (o : Flt) (s : State) : Outcome := floatAcc .bf16 4 (fmul .bf16) o s
/-- R174 -/
def execFdivBf16 (o : Flt) (s : State) : Outcome := floatAcc .bf16 3 (fdiv .bf16) o s
/-- R174 -/
def execFsqrtBf16 (o : Flt) (s : State) : Outcome := floatOne .bf16 (fsqrt .bf16) o s
/-- R174 -/
def execFrndBf16 (o : Flt) (s : State) : Outcome := floatOne .bf16 (frnd .bf16) o s
/-- R174 -/
def execFabsBf16 (o : Duo) (s : State) : Outcome := floatDuo .bf16 (fabs .bf16) o s
/-- R174 -/
def execFnegBf16 (o : Duo) (s : State) : Outcome := floatDuo .bf16 (fneg .bf16) o s
/-- R174 -/
def execFsgnBf16 (o : Duo) (s : State) : Outcome := floatSign .bf16 o s
/-- R175 -/
def execFrcp (o : Duo) (s : State) : Outcome := floatDuo .f32 (fun a => frcpOf (BitVec.ofNat 32 a)) o s
/-- R175 -/
def execFrsq (o : Duo) (s : State) : Outcome := floatDuo .f32 (fun a => frsqOf (BitVec.ofNat 32 a)) o s
/-- R175 -/
def execFex2 (o : Duo) (s : State) : Outcome := floatDuo .f32 (fun a => fex2Of (BitVec.ofNat 32 a)) o s
/-- R175 -/
def execFlg2 (o : Duo) (s : State) : Outcome := floatDuo .f32 (fun a => flg2Of (BitVec.ofNat 32 a)) o s
/-- R175 -/
def execFsin (o : Duo) (s : State) : Outcome := floatDuo .f32 (fun a => ftrigOf 4 (BitVec.ofNat 32 a)) o s
/-- R175 -/
def execFcos (o : Duo) (s : State) : Outcome := floatDuo .f32 (fun a => ftrigOf 5 (BitVec.ofNat 32 a)) o s
/-- R176 -/
def execCvtF16F32 (o : CvtSat) (s : State) : Outcome := narrowForm .f16 o s
/-- R176 -/
def execCvtF32F16 (o : Duo) (s : State) : Outcome := widenForm .f16 o s
/-- R176 -/
def execCvtBf16F32 (o : CvtSat) (s : State) : Outcome := narrowForm .bf16 o s
/-- R176 -/
def execCvtF32Bf16 (o : Duo) (s : State) : Outcome := widenForm .bf16 o s
/-- R176 -/
def execCvtE4m3F32 (o : CvtSat) (s : State) : Outcome := narrowForm .e4m3 o s
/-- R176 -/
def execCvtF32E4m3 (o : Duo) (s : State) : Outcome := widenForm .e4m3 o s
/-- R176 -/
def execCvtE5m2F32 (o : CvtSat) (s : State) : Outcome := narrowForm .e5m2 o s
/-- R176 -/
def execCvtF32E5m2 (o : Duo) (s : State) : Outcome := widenForm .e5m2 o s
/-- R176 -/
def execCvtS32F32 (o : Flt) (s : State) : Outcome := cvtForm toS32 o s
/-- R176 -/
def execCvtN32F32 (o : Flt) (s : State) : Outcome := cvtForm toN32 o s
/-- R176 -/
def execCvtF32S32 (o : Flt) (s : State) : Outcome := cvtForm ofS32 o s
/-- R176 -/
def execCvtF32N32 (o : Flt) (s : State) : Outcome := cvtForm ofN32 o s
/-- R176: the result goes to an even pair. -/
def execCvtS64F32 (o : Flt) (s : State) : Outcome :=
  perform s fun h => do
    let rm ← h.rm 3 o.rm
    orIllegal (h.srcUOk o.a o.u o.lit && dst64Ok o.dst)
    let lanes ← h.performing o.p
    let d ← h.dstN o.dst 2
    let a ← h.srcU o.a o.u o.lit
    .ok (advance h (put64 h s d lanes (a.map (toS64 rm))))
/-- R176: the source is an even pair. -/
def execCvtF32S64 (o : Flt) (s : State) : Outcome :=
  perform s fun h => do
    let rm ← h.rm 3 o.rm
    orIllegal (h.pairUOk o.a o.u o.lit && dstOk o.dst)
    let lanes ← h.performing o.p
    let d ← h.dst o.dst
    let a ← h.src64 o.a o.u o.lit
    .ok (advance h (put32 h s d lanes (a.map (ofS64 rm))))
/-- R176 -/
def execCvtS8S32 (o : CvtInt) (s : State) : Outcome := narrowIntForm 8 o s
/-- R176 -/
def execCvtS16S32 (o : CvtInt) (s : State) : Outcome := narrowIntForm 16 o s

end Sys2Proof.Machine
end

