-- ==== Sys2Proof/Decode.lean ====
section
/-! DEFINITION. From bytes to instructions and back: the fields of the formats of R131 to R140, the decoder, and the
encoder written from the same tables. An encoding that R141 leaves unassigned decodes to `none`. -/

namespace Sys2Proof

/-- Bits `lo + n - 1 : lo` of a word. -/
def fld (w : Word) (lo n : Nat) : BitVec n := w.extractLsb' lo n
/-- The field dst of TRI, DUO, FLT, RRI and RI, and d of MEM. -/
def dst (w : Word) : BitVec 7 := fld w 19 7
/-- The field a of TRI, DUO, FLT, RRI and MEM. -/
def srcA (w : Word) : BitVec 7 := fld w 12 7
/-- The field P of DUO, FLT, RRI and MEM. -/
def predA (w : Word) : BitVec 3 := fld w 9 3
/-- The field U of DUO, FLT and MEM. -/
def uA (w : Word) : Bool := w.getLsbD 8
/-- The field U of TRI. -/
def u (w : Word) : Bool := w.getLsbD 1
/-- The field X of TRI. -/
def x (w : Word) : Bool := w.getLsbD 0
/-- The field RM of FLT. -/
def rm (w : Word) : BitVec 3 := fld w 5 3
/-- FN bit 4 of a conversion: `.sat` (R137). -/
def satBit (w : Word) : Bool := w.getLsbD 4
def fn8 (w : Word) : BitVec 8 := fld w 0 8
def fn5 (w : Word) : BitVec 5 := fld w 0 5
def fn4 (w : Word) : BitVec 4 := fld w 0 4
def fn6Asy (w : Word) : BitVec 6 := fld w 20 6
def fn4Mat (w : Word) : BitVec 4 := fld w 22 4
def fn5Gfx (w : Word) : BitVec 5 := fld w 21 5

/-- The literal of a field (R58): present when the field holds 126 and its uniform bit is 0. -/
def literal (field : BitVec 7) (uni : Bool) (l : Word) : Option Word :=
  if field = 126#7 ∧ uni = false then some l else none

def readTri (w l : Word) : Tri :=
  ⟨dst w, srcA w, fld w 5 7, fld w 2 3, u w, literal (fld w 5 7) (u w) l⟩
def readCmp (w l : Word) : Cmp :=
  ⟨fld w 23 3, w.getLsbD 22, fld w 19 3, srcA w, fld w 5 7, fld w 2 3, u w, literal (fld w 5 7) (u w) l⟩
def readMaskTri (w : Word) : MaskTri := ⟨dst w, srcA w, fld w 5 7, fld w 2 3⟩
def readDuo (w l : Word) : Duo := ⟨dst w, srcA w, predA w, uA w, literal (srcA w) (uA w) l⟩
def readDuoPlain (w : Word) : DuoPlain := ⟨dst w, srcA w, predA w⟩
def readJump (w l : Word) : Jump := ⟨srcA w, predA w, uA w, literal (srcA w) (uA w) l⟩
def readWindowMove (w l : Word) : WindowMove := ⟨srcA w, uA w, literal (srcA w) (uA w) l⟩
def readFlt (w l : Word) : Flt := ⟨dst w, srcA w, predA w, uA w, rm w, literal (srcA w) (uA w) l⟩
def readCvtSat (w l : Word) : CvtSat := ⟨dst w, srcA w, predA w, uA w, rm w, satBit w, literal (srcA w) (uA w) l⟩
def readCvtInt (w l : Word) : CvtInt := ⟨dst w, srcA w, predA w, uA w, satBit w, literal (srcA w) (uA w) l⟩

/-- Opcode 0x15: shifts by an immediate; IMM9 bits 6:5 select, bits 8:7 must be 0 (R136). -/
def decodeShiftImm (w : Word) : Option Instr :=
  let o : ShiftImm := ⟨dst w, srcA w, predA w, fld w 0 5⟩
  match (fld w 5 4).toNat with
  | 0 => some (.shlB32Imm o)
  | 1 => some (.shrN32Imm o)
  | 2 => some (.shrS32Imm o)
  | _ => none

/-- Opcode 0x19: one-source integer forms (R157, R159). -/
def decodeDuo19 (w l : Word) : Option Instr :=
  match (fn8 w).toNat with
  | 0 => some (.movB32 (readDuo w l))
  | 1 => some (.notB32 (readDuo w l))
  | 2 => some (.negS32 (readDuo w l))
  | 3 => some (.absS32 (readDuo w l))
  | 4 => some (.popcB32 (readDuo w l))
  | 5 => some (.clzB32 (readDuo w l))
  | 6 => some (.ctzB32 (readDuo w l))
  | 7 => some (.brevB32 (readDuo w l))
  | 8 => some (.sxbS32 (readDuo w l))
  | 9 => some (.sxhS32 (readDuo w l))
  | 10 => some (.div3N32 (readDuo w l))
  | 11 => some (.mod3N32 (readDuo w l))
  | 12 => some (.movN64 (readDuo w l))
  | 13 => some (.negS64 (readDuo w l))
  | 14 => some (.div3N64 (readDuo w l))
  | 15 => some (.mod3N64 (readDuo w l))
  | 16 => some (.mset (readDuo w l))
  | 17 => if uA w then none else some (.mget (readDuoPlain w))
  | _ => none

/-- Opcode 0x1D: jumps, exit, yield, nop and windows (R161 to R165). -/
def decodeJump (w l : Word) : Option Instr :=
  match (fn8 w).toNat with
  | 0 => if dst w = 0 then some (.jmp (readJump w l)) else none
  | 1 => if dst w = 0 then some (.ret (readJump w l)) else none
  | 2 => some (.calli (readDuo w l))
  | 3 => if dst w = 0 ∧ srcA w = 0 ∧ uA w = false then some (.exit (predA w)) else none
  | 4 => if dst w = 0 ∧ srcA w = 0 ∧ uA w = false then some (.yield (predA w)) else none
  | 5 => if dst w = 0 ∧ predA w = 0 then some (.wbase (readWindowMove w l)) else none
  | 6 => if dst w = 0 ∧ predA w = 0 then some (.wbadd (readWindowMove w l)) else none
  | 7 => if dst w = 0 ∧ srcA w = 0 ∧ uA w = false then some (.nop (predA w)) else none
  | _ => none

/-- Opcode 0x2C: QN4 (R177, R178). -/
def decodeQn4 (w l : Word) : Option Instr :=
  match (fn8 w).toNat with
  | 0 => if uA w then none else some (.qntQn4 (readDuoPlain w))
  | 1 => some (.dqnQn4 (readDuo w l))
  | _ => none

/-- Opcode 0x2E: votes, scans and reductions (R181, R182). -/
def decodeVote (w l : Word) : Option Instr :=
  match (fn8 w).toNat with
  | 0 => some (.voteAny (readDuo w l))
  | 1 => some (.voteAll (readDuo w l))
  | 2 => some (.ballot (readDuo w l))
  | 3 => some (.scanAddS32 (readDuo w l))
  | 4 => some (.scanxAddS32 (readDuo w l))
  | 5 => some (.wredAddS32 (readDuo w l))
  | 6 => some (.wredMinS32 (readDuo w l))
  | 7 => some (.wredMaxS32 (readDuo w l))
  | 8 => some (.wredMinN32 (readDuo w l))
  | 9 => some (.wredMaxN32 (readDuo w l))
  | 10 => some (.wredAndB32 (readDuo w l))
  | 11 => some (.wredOrB32 (readDuo w l))
  | 12 => some (.wredXorB32 (readDuo w l))
  | 13 => some (.firstB32 (readDuo w l))
  | _ => none

/-- Opcode 0x36: exact-cell reductions (R194). -/
def decodeRed (w l : Word) : Option Instr :=
  match (fn8 w).toNat with
  | 0 => some (.redF32 (readDuo w l))
  | 1 => some (.redF16 (readDuo w l))
  | 2 => some (.redBf16 (readDuo w l))
  | 3 => some (.redS32 (readDuo w l))
  | 4 => some (.redS64 (readDuo w l))
  | 5 => some (.red2F16 (readDuo w l))
  | 6 => some (.red2Bf16 (readDuo w l))
  | _ => none

/-- Opcode 0x28: FP32 operations (R137, R174, R175). -/
def decodeF32 (w l : Word) : Option Instr :=
  match (fn5 w).toNat with
  | 0 => some (.faddF32Rm (readFlt w l))
  | 1 => some (.fsubF32Rm (readFlt w l))
  | 2 => some (.fmulF32Rm (readFlt w l))
  | 3 => some (.fdivF32 (readFlt w l))
  | 4 => some (.fsqrtF32 (readFlt w l))
  | 5 => some (.frndF32 (readFlt w l))
  | 6 => if rm w = 0 then some (.frcp (readDuo w l)) else none
  | 7 => if rm w = 0 then some (.frsq (readDuo w l)) else none
  | 8 => if rm w = 0 then some (.fex2 (readDuo w l)) else none
  | 9 => if rm w = 0 then some (.flg2 (readDuo w l)) else none
  | 10 => if rm w = 0 then some (.fsin (readDuo w l)) else none
  | 11 => if rm w = 0 then some (.fcos (readDuo w l)) else none
  | 12 => if rm w = 0 then some (.fabsF32 (readDuo w l)) else none
  | 13 => if rm w = 0 then some (.fnegF32 (readDuo w l)) else none
  | 14 => if rm w = 0 then some (.fsgnF32 (readDuo w l)) else none
  | _ => none

/-- Opcode 0x29: packed FP16 operations (R137, R174). -/
def decodeF16 (w l : Word) : Option Instr :=
  match (fn5 w).toNat with
  | 0 => some (.faddF16Rm (readFlt w l))
  | 1 => some (.fsubF16Rm (readFlt w l))
  | 2 => some (.fmulF16Rm (readFlt w l))
  | 3 => some (.fdivF16 (readFlt w l))
  | 4 => some (.fsqrtF16 (readFlt w l))
  | 5 => some (.frndF16 (readFlt w l))
  | 12 => if rm w = 0 then some (.fabsF16 (readDuo w l)) else none
  | 13 => if rm w = 0 then some (.fnegF16 (readDuo w l)) else none
  | 14 => if rm w = 0 then some (.fsgnF16 (readDuo w l)) else none
  | _ => none

/-- Opcode 0x2A: packed BF16 operations (R137, R174). -/
def decodeBf16 (w l : Word) : Option Instr :=
  match (fn5 w).toNat with
  | 0 => some (.faddBf16Rm (readFlt w l))
  | 1 => some (.fsubBf16Rm (readFlt w l))
  | 2 => some (.fmulBf16Rm (readFlt w l))
  | 3 => some (.fdivBf16 (readFlt w l))
  | 4 => some (.fsqrtBf16 (readFlt w l))
  | 5 => some (.frndBf16 (readFlt w l))
  | 12 => if rm w = 0 then some (.fabsBf16 (readDuo w l)) else none
  | 13 => if rm w = 0 then some (.fnegBf16 (readDuo w l)) else none
  | 14 => if rm w = 0 then some (.fsgnBf16 (readDuo w l)) else none
  | _ => none

/-- Opcode 0x37: finalisations (R196). -/
def decodeRfin (w l : Word) : Option Instr :=
  match (fn5 w).toNat with
  | 0 => some (.rfinF32 (readFlt w l))
  | 1 => some (.rfinF16 (readFlt w l))
  | 2 => some (.rfinBf16 (readFlt w l))
  | 3 => some (.rfinS32 (readFlt w l))
  | 4 => some (.rfinS64 (readFlt w l))
  | _ => none

/-- Opcode 0x2B: conversions, FN<3:0> (R137, R176). -/
def decodeCvt (w l : Word) : Option Instr :=
  match (fn4 w).toNat with
  | 0 => some (.cvtF16F32 (readCvtSat w l))
  | 1 => some (.cvtBf16F32 (readCvtSat w l))
  | 2 => some (.cvtE4m3F32 (readCvtSat w l))
  | 3 => some (.cvtE5m2F32 (readCvtSat w l))
  | 4 => if rm w = 0 ∧ satBit w = false then some (.cvtF32F16 (readDuo w l)) else none
  | 5 => if rm w = 0 ∧ satBit w = false then some (.cvtF32Bf16 (readDuo w l)) else none
  | 6 => if rm w = 0 ∧ satBit w = false then some (.cvtF32E4m3 (readDuo w l)) else none
  | 7 => if rm w = 0 ∧ satBit w = false then some (.cvtF32E5m2 (readDuo w l)) else none
  | 8 => if satBit w then none else some (.cvtS32F32 (readFlt w l))
  | 9 => if satBit w then none else some (.cvtN32F32 (readFlt w l))
  | 10 => if satBit w then none else some (.cvtF32S32 (readFlt w l))
  | 11 => if satBit w then none else some (.cvtF32N32 (readFlt w l))
  | 12 => if satBit w then none else some (.cvtS64F32 (readFlt w l))
  | 13 => if satBit w then none else some (.cvtF32S64 (readFlt w l))
  | 14 => if rm w = 0 then some (.cvtS8S32 (readCvtInt w l)) else none
  | 15 => if rm w = 0 then some (.cvtS16S32 (readCvtInt w l)) else none
  | _ => none

/-- Opcode 0x35: atomics (R138). -/
def decodeAtom (w : Word) : Option Instr :=
  if w.getLsbD 7 then none
  else if fld w 4 2 = 2#2 then some (.atom2 ⟨dst w, srcA w, predA w, uA w, w.getLsbD 6, fld w 0 4⟩)
  else some (.atom ⟨dst w, srcA w, predA w, uA w, w.getLsbD 6, fld w 4 2, fld w 0 4⟩)

/-- Opcode 0x38: copies and collectives (R197, R202). -/
def decodeAsy (w : Word) : Option Instr :=
  match (fn6Asy w).toNat with
  | 0 => some (.tcopyGl ⟨fld w 14 6, fld w 8 6, fld w 2 6⟩)
  | 1 => some (.tcopyLg ⟨fld w 14 6, fld w 8 6, fld w 2 6⟩)
  | 2 => some (.tcopyLl ⟨fld w 14 6, fld w 8 6, fld w 2 6⟩)
  | 8 => some (.collRed ⟨fld w 14 6, fld w 8 6, fld w 2 6⟩)
  | 9 => some (.collBcast ⟨fld w 14 6, fld w 8 6, fld w 2 6⟩)
  | 10 => some (.collAgat ⟨fld w 14 6, fld w 8 6, fld w 2 6⟩)
  | _ => none

/-- Opcode 0x39: waits and synchronisation (R139). -/
def decodeWait (w : Word) : Option Instr :=
  match (fld w 22 4).toNat with
  | 0 => if w.getLsbD 10 = false ∧ fld w 2 2 = 0#2 then some (.bwait ⟨fld w 16 6, fld w 11 5, fld w 4 6, w.getLsbD 1, w.getLsbD 0⟩) else none
  | 1 => some (.waitc ⟨fld w 16 6, fld w 11 5, fld w 3 8, fld w 0 3⟩)
  | 2 => some (.monw ⟨fld w 16 6, fld w 11 5, fld w 4 7, w.getLsbD 3, fld w 0 3⟩)
  | 3 => if fld w 11 5 = 0#5 ∧ fld w 0 4 = 0#4 then some (.qsend ⟨fld w 16 6, fld w 4 7⟩) else none
  | 4 => if fld w 0 4 = 0#4 then some (.qrecv ⟨fld w 16 6, fld w 11 5, fld w 4 7⟩) else none
  | 5 => if w.getLsbD 10 = false ∧ fld w 0 4 = 0#4 then some (.fence ⟨fld w 16 6, fld w 11 5, fld w 4 6⟩) else none
  | 6 => if fld w 4 7 = 0#7 then some (.fbar ⟨fld w 16 6, fld w 11 5, fld w 0 4⟩) else none
  | 7 => if fld w 11 11 = 0#11 ∧ fld w 0 4 = 0#4 then some (.bexp ⟨fld w 4 7⟩) else none
  | 8 => if fld w 11 11 = 0#11 ∧ fld w 0 4 = 0#4 then some (.barr ⟨fld w 4 7⟩) else none
  | 9 => if fld w 0 4 = 0#4 then some (.procEnter ⟨fld w 16 6, fld w 11 5, fld w 4 7⟩) else none
  | 10 => if fld w 11 11 = 0#11 ∧ fld w 0 4 = 0#4 then some (.procLeave ⟨fld w 4 7⟩) else none
  | 11 => if w.getLsbD 10 = false ∧ fld w 0 4 = 0#4 then some (.gbar ⟨fld w 16 6, fld w 11 5, fld w 4 6⟩) else none
  | _ => none

/-- Opcode 0x3A: matrix commands (R140). -/
def decodeMat (w : Word) : Option Instr :=
  match (fn4Mat w).toNat with
  | 0 => if w.getLsbD 17 then none else some (.mmaS8 ⟨fld w 20 2, fld w 18 2, fld w 14 3, w.getLsbD 13, fld w 7 6, fld w 1 6⟩)
  | 1 => if w.getLsbD 17 then none else some (.mmaE4m3 ⟨fld w 20 2, fld w 18 2, fld w 14 3, w.getLsbD 13, fld w 7 6, fld w 1 6⟩)
  | 2 => if w.getLsbD 17 then none else some (.mmaE5m2 ⟨fld w 20 2, fld w 18 2, fld w 14 3, w.getLsbD 13, fld w 7 6, fld w 1 6⟩)
  | 3 => if fld w 14 4 = 1#4 then some (.mmaQn4 ⟨fld w 20 2, fld w 18 2, w.getLsbD 13, fld w 7 6, fld w 1 6⟩) else none
  | 4 => some (.mmaF16 ⟨fld w 20 2, fld w 18 2, fld w 14 4, w.getLsbD 13, fld w 7 6, fld w 1 6⟩)
  | 5 => some (.mmaBf16 ⟨fld w 20 2, fld w 18 2, fld w 14 4, w.getLsbD 13, fld w 7 6, fld w 1 6⟩)
  | 6 => if fld w 13 5 = 0#5 then some (.msacc ⟨fld w 20 2, fld w 18 2, fld w 7 6, fld w 1 6⟩) else none
  | 7 => some (.mdrain ⟨fld w 20 2, fld w 18 2, fld w 14 4, w.getLsbD 13, fld w 7 6, fld w 1 6⟩)
  | 8 => some (.mdrainAdd ⟨fld w 20 2, fld w 18 2, fld w 14 4, w.getLsbD 13, fld w 7 6, fld w 1 6⟩)
  | 9 => if fld w 13 5 = 0#5 then some (.mclear ⟨fld w 20 2, fld w 18 2, fld w 7 6, fld w 1 6⟩) else none
  | _ => none

/-- Opcode 0x3B: graphics, rays and textures (R135). -/
def decodeGfx (w : Word) : Option Instr :=
  match (fn5Gfx w).toNat with
  | 0 => if fld w 7 7 = 0#7 then some (.cover ⟨fld w 14 7, fld w 1 6⟩) else none
  | 1 => some (.flins ⟨fld w 14 7, fld w 7 7, fld w 1 6⟩)
  | 2 => some (.flrep ⟨fld w 14 7, fld w 7 7, fld w 1 6⟩)
  | 3 => some (.flget ⟨fld w 14 7, fld w 7 7, fld w 1 6⟩)
  | 4 => some (.flclr ⟨fld w 14 7, fld w 7 7, fld w 1 6⟩)
  | 5 => some (.trace ⟨fld w 14 7, fld w 7 7, fld w 1 6⟩)
  | 6 => if fld w 1 6 = 0#6 then some (.boxu ⟨fld w 14 7, fld w 7 7⟩) else none
  | 7 => if fld w 1 6 = 0#6 then some (.sah ⟨fld w 14 7, fld w 7 7⟩) else none
  | 8 => some (.npack ⟨fld w 14 7, fld w 7 7, fld w 1 6⟩)
  | 9 => some (.sampleD ⟨fld w 14 7, fld w 7 7, fld w 1 6⟩)
  | 10 => some (.sampleC ⟨fld w 14 7, fld w 7 7, fld w 1 6⟩)
  | 11 => some (.sampleL ⟨fld w 14 7, fld w 7 7, fld w 1 6⟩)
  | 12 => if fld w 7 7 = 0#7 then some (.rmapinv ⟨fld w 14 7, fld w 1 6⟩) else none
  | _ => none

/-- Opcode 0x3C: system, traps and debug (R243). -/
def decodeSys (w : Word) : Option Instr :=
  match (fn6Asy w).toNat with
  | 0 => if fld w 6 14 = 0#14 then some (.trap (fld w 0 6)) else none
  | 1 => if fld w 0 20 = 0#20 then some .tret else none
  | 2 => some (.srd ⟨fld w 13 7, fld w 0 13⟩)
  | 3 => some (.swr ⟨fld w 13 7, fld w 0 13⟩)
  | 4 => if fld w 0 20 = 0#20 then some .halt else none
  | 5 => if fld w 6 14 = 0#14 then some (.brk (fld w 0 6)) else none
  | 6 => if fld w 2 18 = 0#18 then some (.prog (fld w 0 2)) else none
  | 7 => if fld w 6 14 = 0#14 then some (.ckmark (fld w 0 6)) else none
  | _ => none

/-- The instruction that a word of a major opcode stands for, with literal `l` (R131 to R142); `none` for an encoding that is not
assigned (R141). Fields whose illegal values trap under an entry of their own are left to the meanings. -/
def decodeMajor (op : Nat) (w l : Word) : Option Instr :=
  match op with
  | 0x00 => some (if x w then .subB32 (readTri w l) else .addB32 (readTri w l))
  | 0x01 => some (if x w then .madB32 (readTri w l) else .mulB32 (readTri w l))
  | 0x02 => some (if x w then .mulhiN32 (readTri w l) else .mulhiS32 (readTri w l))
  | 0x03 => some (if x w then .orB32 (readTri w l) else .andB32 (readTri w l))
  | 0x04 => some (if x w then .andnB32 (readTri w l) else .xorB32 (readTri w l))
  | 0x05 => some (if x w then .shrN32 (readTri w l) else .shlB32 (readTri w l))
  | 0x06 => some (if x w then .rotlB32 (readTri w l) else .shrS32 (readTri w l))
  | 0x07 => some (if x w then .maxS32 (readTri w l) else .minS32 (readTri w l))
  | 0x08 => some (if x w then .maxN32 (readTri w l) else .minN32 (readTri w l))
  | 0x09 => some (if x w then .subsS32 (readTri w l) else .addsS32 (readTri w l))
  | 0x0A => some (if x w then .subsN32 (readTri w l) else .addsN32 (readTri w l))
  | 0x0B => some (if x w then .bfxS32 (readTri w l) else .bfxN32 (readTri w l))
  | 0x0C => some (if x w then .absdN32 (readTri w l) else .bfiB32 (readTri w l))
  | 0x0D => some (if x w then .subN64 (readTri w l) else .addN64 (readTri w l))
  | 0x0E => some (if x w then .mulwN32 (readTri w l) else .mulN64 (readTri w l))
  | 0x0F => some (if x w then .addaS64 (readTri w l) else .mulwS32 (readTri w l))
  | 0x10 => some (if x w then .shrN64 (readTri w l) else .shlN64 (readTri w l))
  | 0x11 => some (if x w then .rotlN64 (readTri w l) else .shrS64 (readTri w l))
  | 0x12 => some (if x w then .cmpN32 (readCmp w l) else .cmpS32 (readCmp w l))
  | 0x13 => some (if x w then .cmpN64 (readCmp w l) else .cmpS64 (readCmp w l))
  | 0x14 => some (.addB32Imm ⟨dst w, srcA w, predA w, fld w 0 9⟩)
  | 0x15 => decodeShiftImm w
  | 0x16 => some (.addN64Imm ⟨dst w, srcA w, predA w, fld w 0 9⟩)
  | 0x17 => some (.movB32Imm ⟨dst w, fld w 16 3, fld w 0 16⟩)
  | 0x18 => some (.movB32ImmS ⟨dst w, fld w 16 3, fld w 0 16⟩)
  | 0x19 => decodeDuo19 w l
  | 0x1A => if u w then none else some (if x w then .mor (readMaskTri w) else .mand (readMaskTri w))
  | 0x1B => if u w then none else some (if x w then .mandn (readMaskTri w) else .mxor (readMaskTri w))
  | 0x1C => some (if fld w 16 7 = 120#7 then .br ⟨fld w 23 3, fld w 0 16⟩ else .call ⟨fld w 23 3, fld w 16 7, fld w 0 16⟩)
  | 0x1D => decodeJump w l
  | 0x1E => some (if x w then .fmulF32 (readTri w l) else .faddF32 (readTri w l))
  | 0x1F => some (if x w then .fsubF32 (readTri w l) else .ffmaF32 (readTri w l))
  | 0x20 => some (if x w then .fmaxF32 (readTri w l) else .fminF32 (readTri w l))
  | 0x21 => some (if x w then .fmulF16 (readTri w l) else .faddF16 (readTri w l))
  | 0x22 => some (if x w then .fsubF16 (readTri w l) else .ffmaF16 (readTri w l))
  | 0x23 => some (if x w then .fmaxF16 (readTri w l) else .fminF16 (readTri w l))
  | 0x24 => some (if x w then .fmulBf16 (readTri w l) else .faddBf16 (readTri w l))
  | 0x25 => some (if x w then .fsubBf16 (readTri w l) else .ffmaBf16 (readTri w l))
  | 0x26 => some (if x w then .fmaxBf16 (readTri w l) else .fminBf16 (readTri w l))
  | 0x27 => some (if x w then .fcmpF16 (readCmp w l) else .fcmpF32 (readCmp w l))
  | 0x28 => decodeF32 w l
  | 0x29 => decodeF16 w l
  | 0x2A => decodeBf16 w l
  | 0x2B => decodeCvt w l
  | 0x2C => decodeQn4 w l
  | 0x2D => some (if x w then .shflxB32 (readTri w l) else .shflB32 (readTri w l))
  | 0x2E => decodeVote w l
  | 0x2F => some (.ldg ⟨dst w, srcA w, predA w, uA w, fld w 5 3, fld w 0 5⟩)
  | 0x30 => some (.stg ⟨dst w, srcA w, predA w, uA w, fld w 5 3, fld w 0 5⟩)
  | 0x31 => some (.ldl ⟨dst w, srcA w, predA w, uA w, fld w 5 3, fld w 0 5⟩)
  | 0x32 => some (.stl ⟨dst w, srcA w, predA w, uA w, fld w 5 3, fld w 0 5⟩)
  | 0x33 => some (.ldgTry ⟨dst w, srcA w, predA w, uA w, fld w 5 3, fld w 0 5⟩)
  | 0x34 => some (.stgTry ⟨dst w, srcA w, predA w, uA w, fld w 5 3, fld w 0 5⟩)
  | 0x35 => decodeAtom w
  | 0x36 => decodeRed w l
  | 0x37 => decodeRfin w l
  | 0x38 => if fld w 0 2 = 0#2 then decodeAsy w else none
  | 0x39 => decodeWait w
  | 0x3A => if w.getLsbD 0 then none else decodeMat w
  | 0x3B => if w.getLsbD 0 then none else decodeGfx w
  | 0x3C => decodeSys w
  | _ => none

/-- The instruction that a 32-bit word with literal `l` stands for, by its major opcode, bits 31:26. -/
def decodeWord (w l : Word) : Option Instr := decodeMajor (fld w 26 6).toNat w l

/-- Whether the word has TRI format (R135). -/
def isTri (op : Nat) : Bool :=
  op ≤ 0x13 || op == 0x1A || op == 0x1B || (0x1E ≤ op && op ≤ 0x27) || op == 0x2D
/-- Whether the word has DUO or FLT format (R135). -/
def isDuo (op : Nat) : Bool :=
  op == 0x19 || op == 0x1D || (0x28 ≤ op && op ≤ 0x2C) || op == 0x2E || (0x35 ≤ op && op ≤ 0x37)

/-- Whether a literal follows the word (R58): its literal field, b of TRI, a of DUO and FLT when U is 0, holds 126.
R58 can be read both ways for `b` of a TRI word whose U is 1, which names an `s` register: it brings no literal (DESIGN CHOICE, log 67). -/
def hasLiteral (w : Word) : Bool :=
  let op := (fld w 26 6).toNat
  (isTri op && fld w 5 7 == 126#7 && !(u w)) || (isDuo op && srcA w == 126#7 && !(uA w))

/-- Two parcels as one word: the first carries bits 31:16 (R124). -/
def joinParcels (p q : Half) : Word := p ++ q
/-- The two parcels of a word, in the order of R124. -/
def splitWord (w : Word) : List Half := [fld w 16 16, fld w 0 16]
/-- The major opcode of a parcel that begins an instruction (R123). -/
def major (p : Half) : Nat := (p.extractLsb' 10 6).toNat

/-- The instruction that stands at the start of a run of parcels, and how many parcels it has (R123, R124, R125).
A prefix parcel belongs to the fetch unit and is no instruction of its own (R126). -/
def decodeParcels : List Half → Option (Instr × Nat)
  | [] => none
  | p :: rest =>
    if major p = 63 then some (.dictionaryParcel (p.extractLsb' 0 10), 1)
    else match rest with
      | [] => none
      | q :: more =>
        let w := joinParcels p q
        if hasLiteral w then
          match more with
          | a :: b :: _ => (decodeWord w (joinParcels a b)).map (·, 4)
          | _ => none
        else (decodeWord w 0).map (·, 2)

/-- Bytes as parcels, each parcel little-endian (R123). -/
def parcelsOf : List Byte → List Half
  | a :: b :: rest => (b ++ a) :: parcelsOf rest
  | _ => []
/-- Parcels as bytes. -/
def bytesOf (ps : List Half) : List Byte := ps.flatMap fun p => [p.extractLsb' 0 8, p.extractLsb' 8 8]

/-- The decoder: bytes of the instruction stream to the instruction and the number of bytes it takes. -/
def decode (bs : List Byte) : Option (Instr × Nat) := (decodeParcels (parcelsOf bs)).map fun (i, n) => (i, 2 * n)

/-- The instruction the decoder reads from an instruction whose bits are `w`, numbered as the opcode table numbers them:
a 32-bit word has bits 31:16 in the parcel at the lower address (R124); parcels that the table gives no bits are 0. -/
def decodeTableWord (nbits w : Nat) : Option Instr :=
  if nbits ≤ 16 then (decodeParcels [BitVec.ofNat 16 w]).map (·.1)
  else (decode (bytesOf (splitWord (BitVec.ofNat 32 w) ++ [0, 0]))).map (·.1)

/-- Fields of TRI put together (R131). -/
def triWord (op : BitVec 6) (o : Tri) (xx : BitVec 1) : Word := op ++ o.dst ++ o.a ++ o.b ++ o.p ++ BitVec.ofBool o.u ++ xx
/-- Fields of a compare put together (R134). -/
def cmpWord (op : BitVec 6) (o : Cmp) (xx : BitVec 1) : Word :=
  op ++ o.cond ++ BitVec.ofBool o.acc ++ o.mask ++ o.a ++ o.b ++ o.p ++ BitVec.ofBool o.u ++ xx
def maskWord (op : BitVec 6) (o : MaskTri) (xx : BitVec 1) : Word := op ++ o.dst ++ o.a ++ o.b ++ o.p ++ 0#1 ++ xx
/-- Fields of DUO put together (R131). -/
def duoWord (op : BitVec 6) (d a : BitVec 7) (p : BitVec 3) (uu : Bool) (fn : BitVec 8) : Word :=
  op ++ d ++ a ++ p ++ BitVec.ofBool uu ++ fn
/-- Fields of FLT put together (R131). -/
def fltWord (op : BitVec 6) (d a : BitVec 7) (p : BitVec 3) (uu : Bool) (r : BitVec 3) (fn : BitVec 5) : Word :=
  op ++ d ++ a ++ p ++ BitVec.ofBool uu ++ r ++ fn
/-- Fields of RRI put together (R131). -/
def rriWord (op : BitVec 6) (d a : BitVec 7) (p : BitVec 3) (imm : BitVec 9) : Word := op ++ d ++ a ++ p ++ imm
/-- Fields of MEM put together (R131). -/
def memWord (op : BitVec 6) (o : Mem) : Word := op ++ o.d ++ o.a ++ o.p ++ BitVec.ofBool o.u ++ o.sz ++ o.off
/-- Fields of WAIT put together (R131). -/
def waitWord (fn : BitVec 4) (st : BitVec 6) (dl : BitVec 5) (a : BitVec 7) (k : BitVec 4) : Word :=
  0x39#6 ++ fn ++ st ++ dl ++ a ++ k
/-- Fields of MAT put together (R131). -/
def matWord (fn : BitVec 4) (m n : BitVec 2) (k : BitVec 4) (sp : Bool) (sa sb : BitVec 6) : Word :=
  0x3A#6 ++ fn ++ m ++ n ++ k ++ BitVec.ofBool sp ++ sa ++ sb ++ 0#1
/-- Fields of GFX put together (R131). -/
def gfxWord (fn : BitVec 5) (d a : BitVec 7) (s : BitVec 6) : Word := 0x3B#6 ++ fn ++ d ++ a ++ s ++ 0#1
/-- Fields of SYS put together (R131). -/
def sysWord (fn : BitVec 6) (d : BitVec 7) (r : BitVec 13) : Word := 0x3C#6 ++ fn ++ d ++ r

/-- The word of an instruction that has one (R131 to R142). -/
def encodeWord : Instr → Option Word
  | .addB32 o => some (triWord 0x00#6 o 0)
  | .subB32 o => some (triWord 0x00#6 o 1)
  | .mulB32 o => some (triWord 0x01#6 o 0)
  | .madB32 o => some (triWord 0x01#6 o 1)
  | .mulhiS32 o => some (triWord 0x02#6 o 0)
  | .mulhiN32 o => some (triWord 0x02#6 o 1)
  | .andB32 o => some (triWord 0x03#6 o 0)
  | .orB32 o => some (triWord 0x03#6 o 1)
  | .xorB32 o => some (triWord 0x04#6 o 0)
  | .andnB32 o => some (triWord 0x04#6 o 1)
  | .shlB32 o => some (triWord 0x05#6 o 0)
  | .shrN32 o => some (triWord 0x05#6 o 1)
  | .shrS32 o => some (triWord 0x06#6 o 0)
  | .rotlB32 o => some (triWord 0x06#6 o 1)
  | .minS32 o => some (triWord 0x07#6 o 0)
  | .maxS32 o => some (triWord 0x07#6 o 1)
  | .minN32 o => some (triWord 0x08#6 o 0)
  | .maxN32 o => some (triWord 0x08#6 o 1)
  | .addsS32 o => some (triWord 0x09#6 o 0)
  | .subsS32 o => some (triWord 0x09#6 o 1)
  | .addsN32 o => some (triWord 0x0A#6 o 0)
  | .subsN32 o => some (triWord 0x0A#6 o 1)
  | .bfxN32 o => some (triWord 0x0B#6 o 0)
  | .bfxS32 o => some (triWord 0x0B#6 o 1)
  | .bfiB32 o => some (triWord 0x0C#6 o 0)
  | .absdN32 o => some (triWord 0x0C#6 o 1)
  | .addN64 o => some (triWord 0x0D#6 o 0)
  | .subN64 o => some (triWord 0x0D#6 o 1)
  | .mulN64 o => some (triWord 0x0E#6 o 0)
  | .mulwN32 o => some (triWord 0x0E#6 o 1)
  | .mulwS32 o => some (triWord 0x0F#6 o 0)
  | .addaS64 o => some (triWord 0x0F#6 o 1)
  | .shlN64 o => some (triWord 0x10#6 o 0)
  | .shrN64 o => some (triWord 0x10#6 o 1)
  | .shrS64 o => some (triWord 0x11#6 o 0)
  | .rotlN64 o => some (triWord 0x11#6 o 1)
  | .cmpS32 o => some (cmpWord 0x12#6 o 0)
  | .cmpN32 o => some (cmpWord 0x12#6 o 1)
  | .cmpS64 o => some (cmpWord 0x13#6 o 0)
  | .cmpN64 o => some (cmpWord 0x13#6 o 1)
  | .addB32Imm o => some (rriWord 0x14#6 o.dst o.a o.p o.imm)
  | .shlB32Imm o => some (rriWord 0x15#6 o.dst o.a o.p (0#4 ++ o.n))
  | .shrN32Imm o => some (rriWord 0x15#6 o.dst o.a o.p (1#4 ++ o.n))
  | .shrS32Imm o => some (rriWord 0x15#6 o.dst o.a o.p (2#4 ++ o.n))
  | .addN64Imm o => some (rriWord 0x16#6 o.dst o.a o.p o.imm)
  | .movB32Imm o => some (0x17#6 ++ o.dst ++ o.p ++ o.imm)
  | .movB32ImmS o => some (0x18#6 ++ o.dst ++ o.p ++ o.imm)
  | .movB32 o => some (duoWord 0x19#6 o.dst o.a o.p o.u 0)
  | .notB32 o => some (duoWord 0x19#6 o.dst o.a o.p o.u 1)
  | .negS32 o => some (duoWord 0x19#6 o.dst o.a o.p o.u 2)
  | .absS32 o => some (duoWord 0x19#6 o.dst o.a o.p o.u 3)
  | .popcB32 o => some (duoWord 0x19#6 o.dst o.a o.p o.u 4)
  | .clzB32 o => some (duoWord 0x19#6 o.dst o.a o.p o.u 5)
  | .ctzB32 o => some (duoWord 0x19#6 o.dst o.a o.p o.u 6)
  | .brevB32 o => some (duoWord 0x19#6 o.dst o.a o.p o.u 7)
  | .sxbS32 o => some (duoWord 0x19#6 o.dst o.a o.p o.u 8)
  | .sxhS32 o => some (duoWord 0x19#6 o.dst o.a o.p o.u 9)
  | .div3N32 o => some (duoWord 0x19#6 o.dst o.a o.p o.u 10)
  | .mod3N32 o => some (duoWord 0x19#6 o.dst o.a o.p o.u 11)
  | .movN64 o => some (duoWord 0x19#6 o.dst o.a o.p o.u 12)
  | .negS64 o => some (duoWord 0x19#6 o.dst o.a o.p o.u 13)
  | .div3N64 o => some (duoWord 0x19#6 o.dst o.a o.p o.u 14)
  | .mod3N64 o => some (duoWord 0x19#6 o.dst o.a o.p o.u 15)
  | .mset o => some (duoWord 0x19#6 o.dst o.a o.p o.u 16)
  | .mget o => some (duoWord 0x19#6 o.dst o.a o.p false 17)
  | .mand o => some (maskWord 0x1A#6 o 0)
  | .mor o => some (maskWord 0x1A#6 o 1)
  | .mxor o => some (maskWord 0x1B#6 o 0)
  | .mandn o => some (maskWord 0x1B#6 o 1)
  | .br o => some (0x1C#6 ++ o.p ++ 120#7 ++ o.off)
  | .call o => some (0x1C#6 ++ o.p ++ o.l ++ o.off)
  | .jmp o => some (duoWord 0x1D#6 0 o.a o.p o.u 0)
  | .ret o => some (duoWord 0x1D#6 0 o.a o.p o.u 1)
  | .calli o => some (duoWord 0x1D#6 o.dst o.a o.p o.u 2)
  | .exit p => some (duoWord 0x1D#6 0 0 p false 3)
  | .yield p => some (duoWord 0x1D#6 0 0 p false 4)
  | .wbase o => some (duoWord 0x1D#6 0 o.a 0 o.u 5)
  | .wbadd o => some (duoWord 0x1D#6 0 o.a 0 o.u 6)
  | .nop p => some (duoWord 0x1D#6 0 0 p false 7)
  | .faddF32 o => some (triWord 0x1E#6 o 0)
  | .fmulF32 o => some (triWord 0x1E#6 o 1)
  | .ffmaF32 o => some (triWord 0x1F#6 o 0)
  | .fsubF32 o => some (triWord 0x1F#6 o 1)
  | .fminF32 o => some (triWord 0x20#6 o 0)
  | .fmaxF32 o => some (triWord 0x20#6 o 1)
  | .faddF16 o => some (triWord 0x21#6 o 0)
  | .fmulF16 o => some (triWord 0x21#6 o 1)
  | .ffmaF16 o => some (triWord 0x22#6 o 0)
  | .fsubF16 o => some (triWord 0x22#6 o 1)
  | .fminF16 o => some (triWord 0x23#6 o 0)
  | .fmaxF16 o => some (triWord 0x23#6 o 1)
  | .faddBf16 o => some (triWord 0x24#6 o 0)
  | .fmulBf16 o => some (triWord 0x24#6 o 1)
  | .ffmaBf16 o => some (triWord 0x25#6 o 0)
  | .fsubBf16 o => some (triWord 0x25#6 o 1)
  | .fminBf16 o => some (triWord 0x26#6 o 0)
  | .fmaxBf16 o => some (triWord 0x26#6 o 1)
  | .fcmpF32 o => some (cmpWord 0x27#6 o 0)
  | .fcmpF16 o => some (cmpWord 0x27#6 o 1)
  | .faddF32Rm o => some (fltWord 0x28#6 o.dst o.a o.p o.u o.rm 0)
  | .fsubF32Rm o => some (fltWord 0x28#6 o.dst o.a o.p o.u o.rm 1)
  | .fmulF32Rm o => some (fltWord 0x28#6 o.dst o.a o.p o.u o.rm 2)
  | .fdivF32 o => some (fltWord 0x28#6 o.dst o.a o.p o.u o.rm 3)
  | .fsqrtF32 o => some (fltWord 0x28#6 o.dst o.a o.p o.u o.rm 4)
  | .frndF32 o => some (fltWord 0x28#6 o.dst o.a o.p o.u o.rm 5)
  | .frcp o => some (fltWord 0x28#6 o.dst o.a o.p o.u 0 6)
  | .frsq o => some (fltWord 0x28#6 o.dst o.a o.p o.u 0 7)
  | .fex2 o => some (fltWord 0x28#6 o.dst o.a o.p o.u 0 8)
  | .flg2 o => some (fltWord 0x28#6 o.dst o.a o.p o.u 0 9)
  | .fsin o => some (fltWord 0x28#6 o.dst o.a o.p o.u 0 10)
  | .fcos o => some (fltWord 0x28#6 o.dst o.a o.p o.u 0 11)
  | .fabsF32 o => some (fltWord 0x28#6 o.dst o.a o.p o.u 0 12)
  | .fnegF32 o => some (fltWord 0x28#6 o.dst o.a o.p o.u 0 13)
  | .fsgnF32 o => some (fltWord 0x28#6 o.dst o.a o.p o.u 0 14)
  | .faddF16Rm o => some (fltWord 0x29#6 o.dst o.a o.p o.u o.rm 0)
  | .fsubF16Rm o => some (fltWord 0x29#6 o.dst o.a o.p o.u o.rm 1)
  | .fmulF16Rm o => some (fltWord 0x29#6 o.dst o.a o.p o.u o.rm 2)
  | .fdivF16 o => some (fltWord 0x29#6 o.dst o.a o.p o.u o.rm 3)
  | .fsqrtF16 o => some (fltWord 0x29#6 o.dst o.a o.p o.u o.rm 4)
  | .frndF16 o => some (fltWord 0x29#6 o.dst o.a o.p o.u o.rm 5)
  | .fabsF16 o => some (fltWord 0x29#6 o.dst o.a o.p o.u 0 12)
  | .fnegF16 o => some (fltWord 0x29#6 o.dst o.a o.p o.u 0 13)
  | .fsgnF16 o => some (fltWord 0x29#6 o.dst o.a o.p o.u 0 14)
  | .faddBf16Rm o => some (fltWord 0x2A#6 o.dst o.a o.p o.u o.rm 0)
  | .fsubBf16Rm o => some (fltWord 0x2A#6 o.dst o.a o.p o.u o.rm 1)
  | .fmulBf16Rm o => some (fltWord 0x2A#6 o.dst o.a o.p o.u o.rm 2)
  | .fdivBf16 o => some (fltWord 0x2A#6 o.dst o.a o.p o.u o.rm 3)
  | .fsqrtBf16 o => some (fltWord 0x2A#6 o.dst o.a o.p o.u o.rm 4)
  | .frndBf16 o => some (fltWord 0x2A#6 o.dst o.a o.p o.u o.rm 5)
  | .fabsBf16 o => some (fltWord 0x2A#6 o.dst o.a o.p o.u 0 12)
  | .fnegBf16 o => some (fltWord 0x2A#6 o.dst o.a o.p o.u 0 13)
  | .fsgnBf16 o => some (fltWord 0x2A#6 o.dst o.a o.p o.u 0 14)
  | .cvtF16F32 o => some (fltWord 0x2B#6 o.dst o.a o.p o.u o.rm (BitVec.ofBool o.sat ++ 0#4))
  | .cvtBf16F32 o => some (fltWord 0x2B#6 o.dst o.a o.p o.u o.rm (BitVec.ofBool o.sat ++ 1#4))
  | .cvtE4m3F32 o => some (fltWord 0x2B#6 o.dst o.a o.p o.u o.rm (BitVec.ofBool o.sat ++ 2#4))
  | .cvtE5m2F32 o => some (fltWord 0x2B#6 o.dst o.a o.p o.u o.rm (BitVec.ofBool o.sat ++ 3#4))
  | .cvtF32F16 o => some (fltWord 0x2B#6 o.dst o.a o.p o.u 0 (0#1 ++ 4#4))
  | .cvtF32Bf16 o => some (fltWord 0x2B#6 o.dst o.a o.p o.u 0 (0#1 ++ 5#4))
  | .cvtF32E4m3 o => some (fltWord 0x2B#6 o.dst o.a o.p o.u 0 (0#1 ++ 6#4))
  | .cvtF32E5m2 o => some (fltWord 0x2B#6 o.dst o.a o.p o.u 0 (0#1 ++ 7#4))
  | .cvtS32F32 o => some (fltWord 0x2B#6 o.dst o.a o.p o.u o.rm (0#1 ++ 8#4))
  | .cvtN32F32 o => some (fltWord 0x2B#6 o.dst o.a o.p o.u o.rm (0#1 ++ 9#4))
  | .cvtF32S32 o => some (fltWord 0x2B#6 o.dst o.a o.p o.u o.rm (0#1 ++ 10#4))
  | .cvtF32N32 o => some (fltWord 0x2B#6 o.dst o.a o.p o.u o.rm (0#1 ++ 11#4))
  | .cvtS64F32 o => some (fltWord 0x2B#6 o.dst o.a o.p o.u o.rm (0#1 ++ 12#4))
  | .cvtF32S64 o => some (fltWord 0x2B#6 o.dst o.a o.p o.u o.rm (0#1 ++ 13#4))
  | .cvtS8S32 o => some (fltWord 0x2B#6 o.dst o.a o.p o.u 0 (BitVec.ofBool o.sat ++ 14#4))
  | .cvtS16S32 o => some (fltWord 0x2B#6 o.dst o.a o.p o.u 0 (BitVec.ofBool o.sat ++ 15#4))
  | .qntQn4 o => some (duoWord 0x2C#6 o.dst o.a o.p false 0)
  | .dqnQn4 o => some (duoWord 0x2C#6 o.dst o.a o.p o.u 1)
  | .shflB32 o => some (triWord 0x2D#6 o 0)
  | .shflxB32 o => some (triWord 0x2D#6 o 1)
  | .voteAny o => some (duoWord 0x2E#6 o.dst o.a o.p o.u 0)
  | .voteAll o => some (duoWord 0x2E#6 o.dst o.a o.p o.u 1)
  | .ballot o => some (duoWord 0x2E#6 o.dst o.a o.p o.u 2)
  | .scanAddS32 o => some (duoWord 0x2E#6 o.dst o.a o.p o.u 3)
  | .scanxAddS32 o => some (duoWord 0x2E#6 o.dst o.a o.p o.u 4)
  | .wredAddS32 o => some (duoWord 0x2E#6 o.dst o.a o.p o.u 5)
  | .wredMinS32 o => some (duoWord 0x2E#6 o.dst o.a o.p o.u 6)
  | .wredMaxS32 o => some (duoWord 0x2E#6 o.dst o.a o.p o.u 7)
  | .wredMinN32 o => some (duoWord 0x2E#6 o.dst o.a o.p o.u 8)
  | .wredMaxN32 o => some (duoWord 0x2E#6 o.dst o.a o.p o.u 9)
  | .wredAndB32 o => some (duoWord 0x2E#6 o.dst o.a o.p o.u 10)
  | .wredOrB32 o => some (duoWord 0x2E#6 o.dst o.a o.p o.u 11)
  | .wredXorB32 o => some (duoWord 0x2E#6 o.dst o.a o.p o.u 12)
  | .firstB32 o => some (duoWord 0x2E#6 o.dst o.a o.p o.u 13)
  | .ldg o => some (memWord 0x2F#6 o)
  | .stg o => some (memWord 0x30#6 o)
  | .ldl o => some (memWord 0x31#6 o)
  | .stl o => some (memWord 0x32#6 o)
  | .ldgTry o => some (memWord 0x33#6 o)
  | .stgTry o => some (memWord 0x34#6 o)
  | .atom o => some (duoWord 0x35#6 o.dst o.a o.p o.u (0#1 ++ BitVec.ofBool o.loc ++ o.width ++ o.oper))
  | .atom2 o => some (duoWord 0x35#6 o.dst o.a o.p o.u (0#1 ++ BitVec.ofBool o.loc ++ 2#2 ++ o.oper))
  | .redF32 o => some (duoWord 0x36#6 o.dst o.a o.p o.u 0)
  | .redF16 o => some (duoWord 0x36#6 o.dst o.a o.p o.u 1)
  | .redBf16 o => some (duoWord 0x36#6 o.dst o.a o.p o.u 2)
  | .redS32 o => some (duoWord 0x36#6 o.dst o.a o.p o.u 3)
  | .redS64 o => some (duoWord 0x36#6 o.dst o.a o.p o.u 4)
  | .red2F16 o => some (duoWord 0x36#6 o.dst o.a o.p o.u 5)
  | .red2Bf16 o => some (duoWord 0x36#6 o.dst o.a o.p o.u 6)
  | .rfinF32 o => some (fltWord 0x37#6 o.dst o.a o.p o.u o.rm 0)
  | .rfinF16 o => some (fltWord 0x37#6 o.dst o.a o.p o.u o.rm 1)
  | .rfinBf16 o => some (fltWord 0x37#6 o.dst o.a o.p o.u o.rm 2)
  | .rfinS32 o => some (fltWord 0x37#6 o.dst o.a o.p o.u o.rm 3)
  | .rfinS64 o => some (fltWord 0x37#6 o.dst o.a o.p o.u o.rm 4)
  | .tcopyGl o => some (0x38#6 ++ 0#6 ++ o.sa ++ o.sb ++ o.sc ++ 0#2)
  | .tcopyLg o => some (0x38#6 ++ 1#6 ++ o.sa ++ o.sb ++ o.sc ++ 0#2)
  | .tcopyLl o => some (0x38#6 ++ 2#6 ++ o.sa ++ o.sb ++ o.sc ++ 0#2)
  | .collRed o => some (0x38#6 ++ 8#6 ++ o.sa ++ o.sb ++ o.sc ++ 0#2)
  | .collBcast o => some (0x38#6 ++ 9#6 ++ o.sa ++ o.sb ++ o.sc ++ 0#2)
  | .collAgat o => some (0x38#6 ++ 10#6 ++ o.sa ++ o.sb ++ o.sc ++ 0#2)
  | .bwait o => some (waitWord 0 o.st o.dl (0#1 ++ o.a) (0#2 ++ BitVec.ofBool o.arrive ++ BitVec.ofBool o.parity))
  | .waitc o => some (0x39#6 ++ 1#4 ++ o.st ++ o.dl ++ o.n ++ o.cls)
  | .monw o => some (waitWord 2 o.st o.dl o.a (BitVec.ofBool o.wide ++ o.cond))
  | .qsend o => some (waitWord 3 o.st 0 o.a 0)
  | .qrecv o => some (waitWord 4 o.st o.dl o.a 0)
  | .fence o => some (waitWord 5 o.st o.dl (0#1 ++ o.mask) 0)
  | .fbar o => some (waitWord 6 o.st o.dl 0 o.k)
  | .bexp o => some (waitWord 7 0 0 o.a 0)
  | .barr o => some (waitWord 8 0 0 o.a 0)
  | .procEnter o => some (waitWord 9 o.st o.dl o.a 0)
  | .procLeave o => some (waitWord 10 0 0 o.a 0)
  | .gbar o => some (waitWord 11 o.st o.dl (0#1 ++ o.a) 0)
  | .mmaS8 o => some (matWord 0 o.m o.n (0#1 ++ o.k) o.sp o.sa o.sb)
  | .mmaE4m3 o => some (matWord 1 o.m o.n (0#1 ++ o.k) o.sp o.sa o.sb)
  | .mmaE5m2 o => some (matWord 2 o.m o.n (0#1 ++ o.k) o.sp o.sa o.sb)
  | .mmaQn4 o => some (matWord 3 o.m o.n 1 o.sp o.sa o.sb)
  | .mmaF16 o => some (matWord 4 o.m o.n o.k o.sp o.sa o.sb)
  | .mmaBf16 o => some (matWord 5 o.m o.n o.k o.sp o.sa o.sb)
  | .msacc o => some (matWord 6 o.m o.n 0 false o.sa o.sb)
  | .mdrain o => some (matWord 7 o.m o.n o.fmt o.sp o.sa o.sb)
  | .mdrainAdd o => some (matWord 8 o.m o.n o.fmt o.sp o.sa o.sb)
  | .mclear o => some (matWord 9 o.m o.n 0 false o.sa o.sb)
  | .cover o => some (gfxWord 0 o.d 0 o.s)
  | .flins o => some (gfxWord 1 o.d o.a o.s)
  | .flrep o => some (gfxWord 2 o.d o.a o.s)
  | .flget o => some (gfxWord 3 o.d o.a o.s)
  | .flclr o => some (gfxWord 4 o.d o.a o.s)
  | .trace o => some (gfxWord 5 o.d o.a o.s)
  | .boxu o => some (gfxWord 6 o.d o.a 0)
  | .sah o => some (gfxWord 7 o.d o.a 0)
  | .npack o => some (gfxWord 8 o.d o.a o.s)
  | .sampleD o => some (gfxWord 9 o.d o.a o.s)
  | .sampleC o => some (gfxWord 10 o.d o.a o.s)
  | .sampleL o => some (gfxWord 11 o.d o.a o.s)
  | .rmapinv o => some (gfxWord 12 o.d 0 o.s)
  | .trap n => some (sysWord 0 0 (0#7 ++ n))
  | .tret => some (sysWord 1 0 0)
  | .srd o => some (sysWord 2 o.d o.r)
  | .swr o => some (sysWord 3 o.d o.r)
  | .halt => some (sysWord 4 0 0)
  | .brk n => some (sysWord 5 0 (0#7 ++ n))
  | .prog n => some (sysWord 6 0 (0#11 ++ n))
  | .ckmark n => some (sysWord 7 0 (0#7 ++ n))
  | .dictionaryParcel _ => none
  | .scoutEnd _ _ => none
  | .heldRecordPost _ => none
  | .urgent _ _ => none
  | .waitEnd _ _ => none
  | .waitDeadline _ _ => none
  | .idesPoint _ _ => none
  | .monitorPoll _ _ => none
  | .processionAdmit _ _ => none
  | .lentHoldExpiry _ _ => none
  | .engineUnitRead _ _ => none
  | .copyCompletion _ => none
  | .matrixCompletion _ => none
  | .drainCompletion _ => none
  | .traceCompletion _ => none
  | .coverResult _ _ => none
  | .sampleResult _ _ => none
  | .fleResult _ _ => none
  | .rmapinvComplete _ _ => none
  | .mapCopyExpiry _ _ => none
  | .collectiveDecision _ => none
  | .collectiveDeadline _ => none
  | .collectiveDecisionTimeout _ => none
  | .qmDoorbell _ _ => none
  | .nopEntry _ => none
  | .launch _ => none
  | .fenceEntry _ => none
  | .queueEnable _ => none
  | .queueDisable _ => none
  | .queueClearError _ => none
  | .qmEnable _ => none
  | .deviceHalt _ => none
  | .launchReady _ => none
  | .dependencePoll _ _ => none
  | .priorityAging _ => none
  | .reserving _ => none
  | .swapEligible _ => none
  | .gangPlacement _ => none
  | .stopComplete _ => none
  | .saveBankWrite _ => none
  | .gangHaltComplete _ => none
  | .install _ => none
  | .update _ => none
  | .ctxEnd _ => none
  | .rightsinv _ => none
  | .replay _ => none
  | .replayall _ => none
  | .stop _ => none
  | .dbgsave _ => none
  | .dbgload _ => none
  | .suspend _ => none
  | .resume _ => none
  | .resumegang _ => none
  | .invalidateRange _ _ => none
  | .completeMigration => none
  | .fbEnable _ => none
  | .fbRd _ => none
  | .interruptStatusClear _ _ => none
  | .msixUnmask _ => none
  | .registerWrite _ _ _ => none
  | .physicalWindowRead _ _ => none
  | .physicalWindowWrite _ _ => none
  | .hostAtomicop _ _ => none
  | .hostSnoop _ => none
  | .atsInvalidation _ _ => none
  | .functionLevelReset _ => none
  | .mrstN => none
  | .pwrenRise => none
  | .pwrenFall => none
  | .railOutOfTolerance => none
  | .idle _ _ => none
  | .read _ _ => none
  | .write _ _ _ => none
  | .atomic _ _ => none
  | .contrib _ _ => none
  | .cellmerge _ _ _ => none
  | .monarm _ _ => none
  | .moncancel _ _ => none
  | .sliceop _ _ => none
  | .unitop _ _ _ => none
  | .rsp _ _ => none
  | .nackResend _ => none
  | .data _ _ => none
  | .credit _ _ => none
  | .retry _ _ => none
  | .down _ _ => none
  | .probe _ _ => none
  | .probeans _ _ => none
  | .flitDrop _ _ => none
  | .collContributionData _ _ _ => none
  | .collReadsDone _ _ => none
  | .collCommit _ _ _ => none
  | .collCancel _ _ => none
  | .portDown _ => none
  | .portUp _ _ => none
  | .requestTimeout _ => none
  | .rejoin _ => none
  | .markDown _ => none
  | .probeTimeout _ => none
  | .calStep _ => none
  | .ptpEventMessage _ _ => none
  | .locked => none
  | .sensorSample _ => none
  | .sensors => none
  | .log => none
  | .fwstage => none
  | .fwcommit => none
  | .fwconfirm => none
  | .attest => none
  | .setcap => none
  | .idcert => none
  | .timecfg => none
  | .vendorDefinedMessage _ _ => none
  | .setEndpointId _ _ _ => none
  | .getEndpointId _ => none
  | .getMctpVersionSupport _ _ => none
  | .getMessageTypeSupport _ => none
  | .getVendorDefinedMessageSupport _ _ => none
  | .illegalInstruction _ => none
  | .badentry _ => none
  | .mrstNDrivenLow => none
  | .hostLinkUp => none
  | .hostRequestCompletion _ _ => none
  | .ptmResponse _ => none

/-- The literal an instruction carries (R58). A field that takes no literal but holds 126 is still followed by one, whose value nothing reads. -/
def literalOf : Instr → Option Word
  | .addB32 o => o.lit
  | .subB32 o => o.lit
  | .mulB32 o => o.lit
  | .madB32 o => o.lit
  | .mulhiS32 o => o.lit
  | .mulhiN32 o => o.lit
  | .andB32 o => o.lit
  | .orB32 o => o.lit
  | .xorB32 o => o.lit
  | .andnB32 o => o.lit
  | .shlB32 o => o.lit
  | .shrN32 o => o.lit
  | .shrS32 o => o.lit
  | .rotlB32 o => o.lit
  | .minS32 o => o.lit
  | .maxS32 o => o.lit
  | .minN32 o => o.lit
  | .maxN32 o => o.lit
  | .addsS32 o => o.lit
  | .subsS32 o => o.lit
  | .addsN32 o => o.lit
  | .subsN32 o => o.lit
  | .bfxN32 o => o.lit
  | .bfxS32 o => o.lit
  | .bfiB32 o => o.lit
  | .absdN32 o => o.lit
  | .addN64 o => o.lit
  | .subN64 o => o.lit
  | .mulN64 o => o.lit
  | .mulwN32 o => o.lit
  | .mulwS32 o => o.lit
  | .addaS64 o => o.lit
  | .shlN64 o => o.lit
  | .shrN64 o => o.lit
  | .shrS64 o => o.lit
  | .rotlN64 o => o.lit
  | .cmpS32 o => o.lit
  | .cmpN32 o => o.lit
  | .cmpS64 o => o.lit
  | .cmpN64 o => o.lit
  | .movB32 o => o.lit
  | .notB32 o => o.lit
  | .negS32 o => o.lit
  | .absS32 o => o.lit
  | .popcB32 o => o.lit
  | .clzB32 o => o.lit
  | .ctzB32 o => o.lit
  | .brevB32 o => o.lit
  | .sxbS32 o => o.lit
  | .sxhS32 o => o.lit
  | .div3N32 o => o.lit
  | .mod3N32 o => o.lit
  | .movN64 o => o.lit
  | .negS64 o => o.lit
  | .div3N64 o => o.lit
  | .mod3N64 o => o.lit
  | .mset o => o.lit
  | .jmp o => o.lit
  | .ret o => o.lit
  | .calli o => o.lit
  | .wbase o => o.lit
  | .wbadd o => o.lit
  | .faddF32 o => o.lit
  | .fmulF32 o => o.lit
  | .ffmaF32 o => o.lit
  | .fsubF32 o => o.lit
  | .fminF32 o => o.lit
  | .fmaxF32 o => o.lit
  | .faddF16 o => o.lit
  | .fmulF16 o => o.lit
  | .ffmaF16 o => o.lit
  | .fsubF16 o => o.lit
  | .fminF16 o => o.lit
  | .fmaxF16 o => o.lit
  | .faddBf16 o => o.lit
  | .fmulBf16 o => o.lit
  | .ffmaBf16 o => o.lit
  | .fsubBf16 o => o.lit
  | .fminBf16 o => o.lit
  | .fmaxBf16 o => o.lit
  | .fcmpF32 o => o.lit
  | .fcmpF16 o => o.lit
  | .faddF32Rm o => o.lit
  | .fsubF32Rm o => o.lit
  | .fmulF32Rm o => o.lit
  | .fdivF32 o => o.lit
  | .fsqrtF32 o => o.lit
  | .frndF32 o => o.lit
  | .frcp o => o.lit
  | .frsq o => o.lit
  | .fex2 o => o.lit
  | .flg2 o => o.lit
  | .fsin o => o.lit
  | .fcos o => o.lit
  | .fabsF32 o => o.lit
  | .fnegF32 o => o.lit
  | .fsgnF32 o => o.lit
  | .faddF16Rm o => o.lit
  | .fsubF16Rm o => o.lit
  | .fmulF16Rm o => o.lit
  | .fdivF16 o => o.lit
  | .fsqrtF16 o => o.lit
  | .frndF16 o => o.lit
  | .fabsF16 o => o.lit
  | .fnegF16 o => o.lit
  | .fsgnF16 o => o.lit
  | .faddBf16Rm o => o.lit
  | .fsubBf16Rm o => o.lit
  | .fmulBf16Rm o => o.lit
  | .fdivBf16 o => o.lit
  | .fsqrtBf16 o => o.lit
  | .frndBf16 o => o.lit
  | .fabsBf16 o => o.lit
  | .fnegBf16 o => o.lit
  | .fsgnBf16 o => o.lit
  | .cvtF16F32 o => o.lit
  | .cvtBf16F32 o => o.lit
  | .cvtE4m3F32 o => o.lit
  | .cvtE5m2F32 o => o.lit
  | .cvtF32F16 o => o.lit
  | .cvtF32Bf16 o => o.lit
  | .cvtF32E4m3 o => o.lit
  | .cvtF32E5m2 o => o.lit
  | .cvtS32F32 o => o.lit
  | .cvtN32F32 o => o.lit
  | .cvtF32S32 o => o.lit
  | .cvtF32N32 o => o.lit
  | .cvtS64F32 o => o.lit
  | .cvtF32S64 o => o.lit
  | .cvtS8S32 o => o.lit
  | .cvtS16S32 o => o.lit
  | .dqnQn4 o => o.lit
  | .shflB32 o => o.lit
  | .shflxB32 o => o.lit
  | .voteAny o => o.lit
  | .voteAll o => o.lit
  | .ballot o => o.lit
  | .scanAddS32 o => o.lit
  | .scanxAddS32 o => o.lit
  | .wredAddS32 o => o.lit
  | .wredMinS32 o => o.lit
  | .wredMaxS32 o => o.lit
  | .wredMinN32 o => o.lit
  | .wredMaxN32 o => o.lit
  | .wredAndB32 o => o.lit
  | .wredOrB32 o => o.lit
  | .wredXorB32 o => o.lit
  | .firstB32 o => o.lit
  | .redF32 o => o.lit
  | .redF16 o => o.lit
  | .redBf16 o => o.lit
  | .redS32 o => o.lit
  | .redS64 o => o.lit
  | .red2F16 o => o.lit
  | .red2Bf16 o => o.lit
  | .rfinF32 o => o.lit
  | .rfinF16 o => o.lit
  | .rfinBf16 o => o.lit
  | .rfinS32 o => o.lit
  | .rfinS64 o => o.lit
  | .mget o => literal o.a false 0
  | .mand o => literal o.b false 0
  | .mor o => literal o.b false 0
  | .mxor o => literal o.b false 0
  | .mandn o => literal o.b false 0
  | .qntQn4 o => literal o.a false 0
  | .atom o => literal o.a o.u 0
  | .atom2 o => literal o.a o.u 0
  | .addB32Imm _ => none
  | .shlB32Imm _ => none
  | .shrN32Imm _ => none
  | .shrS32Imm _ => none
  | .addN64Imm _ => none
  | .movB32Imm _ => none
  | .movB32ImmS _ => none
  | .br _ => none
  | .call _ => none
  | .exit _ => none
  | .yield _ => none
  | .nop _ => none
  | .ldg _ => none
  | .stg _ => none
  | .ldl _ => none
  | .stl _ => none
  | .ldgTry _ => none
  | .stgTry _ => none
  | .tcopyGl _ => none
  | .tcopyLg _ => none
  | .tcopyLl _ => none
  | .collRed _ => none
  | .collBcast _ => none
  | .collAgat _ => none
  | .bwait _ => none
  | .waitc _ => none
  | .monw _ => none
  | .qsend _ => none
  | .qrecv _ => none
  | .fence _ => none
  | .fbar _ => none
  | .bexp _ => none
  | .barr _ => none
  | .procEnter _ => none
  | .procLeave _ => none
  | .gbar _ => none
  | .mmaS8 _ => none
  | .mmaE4m3 _ => none
  | .mmaE5m2 _ => none
  | .mmaQn4 _ => none
  | .mmaF16 _ => none
  | .mmaBf16 _ => none
  | .msacc _ => none
  | .mdrain _ => none
  | .mdrainAdd _ => none
  | .mclear _ => none
  | .cover _ => none
  | .flins _ => none
  | .flrep _ => none
  | .flget _ => none
  | .flclr _ => none
  | .trace _ => none
  | .boxu _ => none
  | .sah _ => none
  | .npack _ => none
  | .sampleD _ => none
  | .sampleC _ => none
  | .sampleL _ => none
  | .rmapinv _ => none
  | .trap _ => none
  | .tret => none
  | .srd _ => none
  | .swr _ => none
  | .halt => none
  | .brk _ => none
  | .prog _ => none
  | .ckmark _ => none
  | .dictionaryParcel _ => none
  | .scoutEnd _ _ => none
  | .heldRecordPost _ => none
  | .urgent _ _ => none
  | .waitEnd _ _ => none
  | .waitDeadline _ _ => none
  | .idesPoint _ _ => none
  | .monitorPoll _ _ => none
  | .processionAdmit _ _ => none
  | .lentHoldExpiry _ _ => none
  | .engineUnitRead _ _ => none
  | .copyCompletion _ => none
  | .matrixCompletion _ => none
  | .drainCompletion _ => none
  | .traceCompletion _ => none
  | .coverResult _ _ => none
  | .sampleResult _ _ => none
  | .fleResult _ _ => none
  | .rmapinvComplete _ _ => none
  | .mapCopyExpiry _ _ => none
  | .collectiveDecision _ => none
  | .collectiveDeadline _ => none
  | .collectiveDecisionTimeout _ => none
  | .qmDoorbell _ _ => none
  | .nopEntry _ => none
  | .launch _ => none
  | .fenceEntry _ => none
  | .queueEnable _ => none
  | .queueDisable _ => none
  | .queueClearError _ => none
  | .qmEnable _ => none
  | .deviceHalt _ => none
  | .launchReady _ => none
  | .dependencePoll _ _ => none
  | .priorityAging _ => none
  | .reserving _ => none
  | .swapEligible _ => none
  | .gangPlacement _ => none
  | .stopComplete _ => none
  | .saveBankWrite _ => none
  | .gangHaltComplete _ => none
  | .install _ => none
  | .update _ => none
  | .ctxEnd _ => none
  | .rightsinv _ => none
  | .replay _ => none
  | .replayall _ => none
  | .stop _ => none
  | .dbgsave _ => none
  | .dbgload _ => none
  | .suspend _ => none
  | .resume _ => none
  | .resumegang _ => none
  | .invalidateRange _ _ => none
  | .completeMigration => none
  | .fbEnable _ => none
  | .fbRd _ => none
  | .interruptStatusClear _ _ => none
  | .msixUnmask _ => none
  | .registerWrite _ _ _ => none
  | .physicalWindowRead _ _ => none
  | .physicalWindowWrite _ _ => none
  | .hostAtomicop _ _ => none
  | .hostSnoop _ => none
  | .atsInvalidation _ _ => none
  | .functionLevelReset _ => none
  | .mrstN => none
  | .pwrenRise => none
  | .pwrenFall => none
  | .railOutOfTolerance => none
  | .idle _ _ => none
  | .read _ _ => none
  | .write _ _ _ => none
  | .atomic _ _ => none
  | .contrib _ _ => none
  | .cellmerge _ _ _ => none
  | .monarm _ _ => none
  | .moncancel _ _ => none
  | .sliceop _ _ => none
  | .unitop _ _ _ => none
  | .rsp _ _ => none
  | .nackResend _ => none
  | .data _ _ => none
  | .credit _ _ => none
  | .retry _ _ => none
  | .down _ _ => none
  | .probe _ _ => none
  | .probeans _ _ => none
  | .flitDrop _ _ => none
  | .collContributionData _ _ _ => none
  | .collReadsDone _ _ => none
  | .collCommit _ _ _ => none
  | .collCancel _ _ => none
  | .portDown _ => none
  | .portUp _ _ => none
  | .requestTimeout _ => none
  | .rejoin _ => none
  | .markDown _ => none
  | .probeTimeout _ => none
  | .calStep _ => none
  | .ptpEventMessage _ _ => none
  | .locked => none
  | .sensorSample _ => none
  | .sensors => none
  | .log => none
  | .fwstage => none
  | .fwcommit => none
  | .fwconfirm => none
  | .attest => none
  | .setcap => none
  | .idcert => none
  | .timecfg => none
  | .vendorDefinedMessage _ _ => none
  | .setEndpointId _ _ _ => none
  | .getEndpointId _ => none
  | .getMctpVersionSupport _ _ => none
  | .getMessageTypeSupport _ => none
  | .getVendorDefinedMessageSupport _ _ => none
  | .illegalInstruction _ => none
  | .badentry _ => none
  | .mrstNDrivenLow => none
  | .hostLinkUp => none
  | .hostRequestCompletion _ _ => none
  | .ptmResponse _ => none

/-- The parcels of an instruction, its literal included, in stream order (R124, R127); no parcels for a step that has no word. -/
def encodeParcels (i : Instr) : List Half :=
  match i with
  | .dictionaryParcel k => [63#6 ++ k]
  | _ => match encodeWord i with
    | none => []
    | some w => splitWord w ++ (match literalOf i with | some l => splitWord l | none => [])

/-- The bytes of an instruction in the stream. -/
def encode (i : Instr) : List Byte := bytesOf (encodeParcels i)

end Sys2Proof
end

