-- ==== Sys2Proof/Machine/Fetch.lean ====
section
/-! DEFINITION. The next instruction of a fibre: the group that is served (R24), the hold of a Lent trial (R309), and the
parcels of its instruction with the checks of R128. -/

namespace Sys2Proof.Machine

/-! ## The group (R24, R25) -/

/-- The strands that can issue: in TRAP those in supervisor mode (R252), else every live strand. -/
def Fibre.issuing (f : Fibre) : Lanes := if f.inTrap then f.sup &&& ~~~f.exited else ~~~f.exited
/-- The strands of a set that stand at an address. -/
def Fibre.groupAt (f : Fibre) (set : Lanes) (pc : Quad) : Lanes := set &&& maskOf fun i => f.pc i == pc
/-- The smallest program counter of some lanes. -/
def smallestPc (f : Fibre) (ls : List Nat) : Option Quad :=
  ls.foldl (fun m i => match m with
    | none => some (f.pc i)
    | some p => if (f.pc i).toNat < p.toNat then some (f.pc i) else some p) none
/-- The address served next (R24): a group with a strand not served in the last 64 issues, else the next above the cursor,
else the lowest; after a stall or a hold the same again. -/
def Fibre.choose (f : Fibre) : Option Quad :=
  let set := f.issuing
  let ls := lanesIn set
  match f.retry.or f.trialed with
  | some pc => if f.groupAt set pc != 0 then some pc else smallestPc f ls
  | none =>
    match smallestPc f (ls.filter fun i => decide (64 ≤ f.ages.getD i 0)) with
    | some pc => some pc
    | none =>
      match smallestPc f (ls.filter fun i => decide (f.cursor.toNat < (f.pc i).toNat)) with
      | some pc => some pc
      | none => smallestPc f ls
/-- The served group's strands are young again, the others one issue older. The spec does not say whether an instruction that
issues again after a stall is one more issue of its fibre: it is counted once (R24, DESIGN CHOICE, log 28). -/
def Fibre.serve (f : Fibre) (pc : Quad) (lanes : Lanes) : Fibre :=
  if f.retry.isSome then f
  else { f with cursor := pc, ages := rowOf fun i => if lanes.getLsbD i then 0 else f.ages.getD i 0 + 1 }

/-- What stands at an address: an instruction, or a word that no row of the table assigns (R141). -/
inductive Fetched where
  | instr (i : Instr)
  | unassigned (w : Word)
  deriving DecidableEq, Repr
/-- The decoder's reading of a word. -/
def fetched (w l : Word) : Fetched :=
  match decodeWord w l with
  | some i => .instr i
  | none => .unassigned w

/-! ## Parcels (R123 to R129) -/

/-- One parcel of the issuing group (R128). After a store to code R129 allows the value at the acceptance of the launch or any value stored
since: it is the one that memory now holds (DESIGN CHOICE, log 69). -/
def fetchParcel (s : State) (h : Here) (a : Quad) : Except Stop (State × Half) :=
  if !(h.inCode a.toNat) then .error illegalInstruction
  else
    let c := check s (some h.g.tag) a.toNat rightRead true false true
    match c.2 with
    | .ok => .ok (c.1, BitVec.ofNat 16 (ofBytes (readGlobal c.1 a.toNat 2)))
    | .fail row level ro =>
      if row = 3 || row = 5 then .error (.park c.1 (rowCode row) a (pattr row level ro false) false {})
      else .error (.fault c.1 (rowCode row) a)
    | .host q => .error (.ask (askHost c.1 q))
    | .peer d => do
      let x ← askPeer h c.1 d (parcelKey a.toNat) { opc := 1, size := 2, addr := a.toNat }
      let row := statusRow x.status x.attr
      if x.status = 0 then .ok (c.1, BitVec.ofNat 16 (ofBytes (x.value.take 2)))
      else if row = 3 || row = 5 then .error (.park c.1 (rowCode row) a (pattr row (x.attr % 4) false false) false {})
      else .error (.fault c.1 (rowCode row) a)

/-- A literal: two parcels, bits 31:16 first (R58). -/
def fetchLiteral (s : State) (h : Here) (a : Quad) : Except Stop (State × Word) := do
  let p ← fetchParcel s h a
  let q ← fetchParcel p.1 h (a + 2)
  .ok (q.1, joinParcels p.2 q.2)

/-- The dictionary of a group's code, the kernel's or the handler's: the core's copy, taken when the gang was first placed there (R129,
R340). -/
def Here.dictionary (h : Here) : List Word :=
  match get? h.g.dicts (coreKey h.g.cluster h.coreOf) with
  | some d => if h.i.sup then d.2 else d.1
  | none => []

/-- The instruction whose opcode parcel `p` stands at `i.opc`, with its place and literal (R123, R125, R127). -/
def fetchBody (s : State) (h : Here) (i : Issue) (p : Half) : Except Stop (State × Issue × Fetched) :=
  if major p = 63 then
    let k := p.extractLsb' 0 10
    match h.dictionary[k.toNat]? with
    | none => .ok (s, { i with next := i.opc + 2 }, .instr (.dictionaryParcel k))
    | some w =>
      if hasLiteral w then do
        let l ← fetchLiteral s h (i.opc + 2)
        .ok (l.1, { i with next := i.opc + 6, lit := l.2 }, .instr (.dictionaryParcel k))
      else .ok (s, { i with next := i.opc + 2 }, .instr (.dictionaryParcel k))
  else do
    let q ← fetchParcel s h (i.opc + 2)
    let w := joinParcels p q.2
    if hasLiteral w then
      let l ← fetchLiteral q.1 h (i.opc + 4)
      .ok (l.1, { i with next := i.opc + 8, lit := l.2 }, fetched w l.2)
    else .ok (q.1, { i with next := i.opc + 4 }, fetched w 0)

/-- The instruction at the group's program counter, a prefix parcel read first, and the issue as far as the parcels have told
it: behind a prefix the opcode parcel is the next one (R126). -/
def fetchInstr (s : State) (h : Here) : Issue × Except Stop (State × Issue × Fetched) :=
  match fetchParcel s h h.i.pc with
  | .error e => (h.i, .error e)
  | .ok p =>
    if major p.2 = 62 then
      let i := { h.i with opc := h.i.pc + 2, swp := p.2.getLsbD 0, hint := (p.2.extractLsb' 1 2).toNat }
      (i, do
        orIllegal (p.2.extractLsb' 3 7 == 0#7)
        let q ← fetchParcel p.1 h (h.i.pc + 2)
        orIllegal (major q.2 != 62)
        fetchBody q.1 h i q.2)
    else (h.i, fetchBody p.1 h h.i p.2)

/-! ## Beginning an issue -/

/-- Whether a Lent trial holds the instruction (R309). -/
def heldByTrial (l : Launch) (f : Fibre) (pc : Quad) : Bool :=
  l.lentDelay != 0 && !f.inTrap && (f.retry.or f.trialed).isNone && !(decide (l.lentLo.toNat ≤ pc.toNat) && decide (pc.toNat < l.lentHi.toNat))

/-- The issue of the served group before its parcels are known. -/
def issueAt (w k : Nat) (lanes : Lanes) (sup : Bool) (pc : Quad) : Issue :=
  { wave := w, fibre := k, lanes, sup, pc, opc := pc, next := pc + 2, swp := false, hint := 0 }

/-- In scout mode an issue counts; the 256th is the last. The spec does not say whether one that issues again after a stall
counts again: it does not (R38, DESIGN CHOICE, log 28). -/
def Fibre.countScout (f : Fibre) : Fibre :=
  if f.retry.isSome then f
  else { f with scout := f.scout.map fun c => { c with count := c.count + 1, ended := c.ended || decide (255 ≤ c.count) } }

/-- The holder of a wave begins an issue: the instruction to perform, or the state that the fetch has left. -/
def beginIssue (s : State) (w : Nat) : State × Option Fetched :=
  match get? s.waves w with
  | none => (s, none)
  | some x =>
    match x.holder with
    | none => (s, none)
    | some k =>
      let f := x.fibres.getD k Fibre.blank
      match f.choose with
      | none => (s, none)
      | some pc =>
        let lanes := f.groupAt f.issuing pc
        let i := issueAt w k lanes f.inTrap pc
        let s0 := { s with issue := some i }
        match hereOf s0 with
        | none => (s, none)
        | some h =>
          if heldByTrial h.l f pc then
            let hold := { h.wait s (.hold (s.clk + h.l.lentDelay)) with next := pc }
            (passSlot (modFibre s w k fun f => { f with state := .waiting, wait := some hold, trialed := some pc }) w 0, none)
          else
            let f1 := { (f.serve pc lanes).countScout with urgency := 0, urgent := false, trialed := none, safe := if f.retry.isSome then f.safe else s.safe }
            let s1 := modFibre s0 w k fun _ => f1
            let h1 := { h with f := f1 }
            let r := fetchInstr s1 h1
            match r.2 with
            | .error e => (refrain { h1 with i := r.1 } s1 e, none)
            | .ok (s2, i2, instr) => ({ s2 with issue := some i2 }, some instr)

end Sys2Proof.Machine
end

