-- ==== Sys2Proof/Machine/Global.lean ====
section
/-! DEFINITION. The accesses of one issue to global memory (R185, R186): their checks in the order of the table, what peers
and the host are asked, and which stop the instruction meets. -/

namespace Sys2Proof.Machine

/-- One access of an issue: its lane, its number within the strand, its address. -/
structure Access where
  lane : Nat
  unit : Nat
  addr : Nat
  deriving DecidableEq, Repr

/-- The keys under which a peer's answers to an access are kept: to what performs it, and to what changes nothing there, the value
looked at and the check of a write. -/
def Access.key (u : Access) : Nat := 64 * u.lane + u.unit
def Access.look (u : Access) : Nat := 2 ^ 74 + u.key
def Access.probe (u : Access) : Nat := 2 ^ 75 + u.key
/-- The key under which what this device has made of an access is kept while peers make theirs, and that of the mark that the accesses
of an issue are being made. -/
def Access.own (u : Access) : Nat := 2 ^ 62 + u.key
def startKey : Nat := 2 ^ 63

/-- What an access found. -/
inductive Got where
  /-- It can be made here. -/
  | here
  /-- A peer has made it. -/
  | peer (value : List Byte)
  /-- Row, level, present but not writable, and the status. -/
  | fail (row level : Nat) (readOnly : Bool) (status : Nat)
  deriving DecidableEq, Repr

/-- How the accesses of an instruction are checked: right needed, whether it reads, whether an access writes, whether the
host window is accepted (R186, R343). -/
structure Kind where
  need   : Nat
  reads  : Bool
  writes : State → Access → Bool
  host   : Bool := true
  effect : Bool := false       -- whether what a peer is asked changes its memory
  /-- Of an access that writes only where its target has some value: the bytes looked at, and whether it then writes. -/
  peek   : Option (Nat × (Access → List Byte → Bool)) := none
/-- How this device makes its own accesses of an issue: their values, in their order. -/
abbrev Made := State → List Access → State × List (List Byte)

/-- The rows of R186 that this device decides, for each access in turn. An access that writes is checked again as a write
once it is known to be readable, since a failed `cas` is no write (R192). -/
def checkUnits (h : Here) (s : State) (k : Kind) (us : List Access) : State × List (Access × Acc) :=
  us.foldl (fun r u =>
    let c := check r.1 (some h.g.tag) u.addr k.need k.reads false k.host
    match c.2 with
    | .ok =>
      if k.writes c.1 u then
        let d := check c.1 (some h.g.tag) u.addr k.need k.reads true k.host
        (d.1, r.2 ++ [(u, d.2)])
      else (c.1, r.2 ++ [(u, .ok)])
    | .host (.translate p _) => (c.1, r.2 ++ [(u, .host (.translate p (k.writes c.1 u)))])
    | a => (c.1, r.2 ++ [(u, a)])) (s, [])

/-! ## What peers are asked (R185, R370, R373) -/

/-- What becomes of the accesses of one issue to one address of a peer: another request, what each of them gets, or the status
and attribute with which they fail. -/
inductive Move where
  | ask (key : Nat) (q : Ask)
  | got (vs : List (List Byte))
  | lost (status attr : Nat)
/-- How such accesses travel, by the answers that have come. -/
abbrev Carry := State → List Access → (Nat → Option Answer) → Move
/-- A request, and what follows its answer. -/
def Move.after (ans : Nat → Option Answer) (key : Nat) (q : Ask) (k : List Byte → Move) : Move :=
  match ans key with
  | none => .ask key q
  | some x => if x.status = 0 then k x.value else .lost x.status x.attr
/-- Every access on its own, one after the other, as safe mode ships them (R373). -/
def carryEach (q : Access → Ask) (ans : Nat → Option Answer) : List Access → List (List Byte) → Move
  | [], vs => .got vs
  | u :: t, vs => .after ans u.key (q u) fun v => carryEach q ans t (vs ++ [v])
/-- A load: one request, whose value every strand gets. -/
def carryLoad (n : Nat) : Carry := fun _ us ans =>
  match us with
  | [] => .got []
  | u :: _ => .after ans u.look { opc := 1, size := n, addr := u.addr } fun v => .got (us.map fun _ => v)
/-- A store: of strands that store to one address the highest lane's value stays (R185). -/
def carryStore (safe : Bool) (q : Access → Ask) : Carry := fun _ us ans =>
  match us, us.getLast? with
  | u :: _, some l => if safe then carryEach q ans us [] else .after ans u.key (q l) fun v => .got (us.map fun _ => v)
  | _, _ => .got []
/-- One request for one access. -/
def carryOne (q : Access → Ask) : Carry := fun _ us ans => carryEach q ans us []

/-- The accesses that go to one address of a peer. -/
def peersAt (rs : List (Access × Acc)) (a : Nat) : List Access :=
  (rs.filter fun r => r.1.addr == a && (match r.2 with | .peer _ => true | _ => false)).map (·.1)
/-- The addresses of peers that an issue accesses, each once, with their devices. -/
def peerTargets (rs : List (Access × Acc)) : List (Nat × Nat) :=
  rs.foldl (fun t r => match r.2 with
    | .peer d => if t.any fun x => x.1 == r.1.addr then t else t ++ [(r.1.addr, d)]
    | _ => t) []
/-- A peer asked on behalf of the issuing fibre, unless it has been. -/
def askFor (h : Here) (s : State) (d key : Nat) (q : Ask) : State :=
  let who := Requester.fibre h.i.wave h.i.fibre key
  if s.requests.any fun p => p.2.who = who then s else sendRequest s d who q
/-- What has been found so far, and whether an answer is still missing. -/
structure Asked where
  s    : State
  wait : Bool := false
  got  : List (Access × Got) := []

/-- The answer of a key, of those that a fibre has been given. -/
def Here.answer (h : Here) (key : Nat) : Option Answer := h.f.answers.find? fun y => y.key == key
/-- The move of every address of a peer, requests sent where they are missing; a peer that has become unreachable is ABSENT (R120). -/
def moveAll (h : Here) (s : State) (carry : Carry) (rs : List (Access × Acc)) : State × List (Nat × Move) :=
  (peerTargets rs).foldl (fun r t =>
    match carry r.1 (peersAt rs t.1) h.answer with
    | .ask key q => if reachable r.1 t.2 then (askFor h r.1 t.2 key q, r.2 ++ [(t.1, .ask key q)]) else (r.1, r.2 ++ [(t.1, .lost 12 0)])
    | m => (r.1, r.2 ++ [(t.1, m)])) (s, [])
/-- What an access to a peer got of the move of its address. -/
def Move.share (m : Move) (i : Nat) : Option Got :=
  match m with
  | .ask .. => none
  | .got vs => some (.peer (vs.getD i []))
  | .lost st attr => some (.fail (statusRow st attr) (attr % 4) false st)
/-- The answers of the host and of peers, asked for where they are missing. -/
def askUnits (h : Here) (s : State) (carry : Carry) (rs : List (Access × Acc)) : Asked :=
  let ms := moveAll h s carry rs
  rs.foldl (fun r x =>
    match x.2 with
    | .ok => { r with got := r.got ++ [(x.1, .here)] }
    | .fail row level ro => { r with got := r.got ++ [(x.1, .fail row level ro (rowStatus row))] }
    | .host a => { r with s := askHost r.s a, wait := true }
    | .peer _ =>
      match (get? ms.2 x.1.addr).bind fun m => m.share (((peersAt rs x.1.addr).findIdx? (· == x.1)).getD 0) with
      | some g => { r with got := r.got ++ [(x.1, g)] }
      | none => { r with wait := true }) { s := ms.1 }
/-- Before any peer changes its memory for one of several accesses, every peer is asked whether it can make its own: SUB bit 1 of a
READ asks for the check of a write that reads as well, bit 2 for that of one that reads nothing and so does not meet poison (DESIGN
CHOICE, log 25). A `cas` looks at its target first: where it writes nothing, it is a read only (R192). -/
def carryProbe (k : Kind) : Carry := fun _ us ans =>
  match us with
  | [] => .got []
  | u :: _ =>
    let probe : Move := .after ans u.probe { opc := 1, size := 16, addr := u.addr / 16 * 16, sub := if k.reads then 2 else 4 } fun _ => .got []
    match k.peek with
    | none => probe
    | some (n, writes) => .after ans u.look { opc := 1, size := n, addr := u.addr } fun v => if us.any fun x => writes x v then probe else .got []
/-- Whether row 2 has decided already: no access that nobody has been asked about comes before the one that meets it. -/
def decidedNow : List (Access × Acc) → Bool
  | [] => false
  | r :: t => match r.2 with
    | .fail 2 _ _ => true
    | .ok => decidedNow t
    | .fail .. => decidedNow t
    | _ => false
/-- Whether the accesses of an issue go to more than one address. -/
def severalTargets : List (Access × Acc) → Bool
  | [] => false
  | r :: t => t.any fun x => x.1.addr != r.1.addr
/-- Whether an access failed. -/
def Got.failed : Got → Bool
  | .fail .. => true
  | _ => false

/-- Whether the accesses of the issue are being made: peers have been asked to make theirs, and this device has made its own. -/
def Here.begun (h : Here) : Bool := (h.answer startKey).isSome
/-- The accesses of an issue that are being made, and whose checks are over (R37): those of this device with what it has made of them,
those of peers with their answers. -/
def goOn (h : Here) (s : State) (carry : Carry) (us : List Access) : Except Stop (State × List (Access × Got)) :=
  let a := askUnits h s carry (us.filterMap fun u => match placeOf s u.addr with | .peer d _ => some (u, .peer d) | _ => none)
  let got (u : Access) : Got := match h.answer u.own with | some y => .peer y.value | none => ((a.got.find? fun g => g.1 == u).map (·.2)).getD .here
  if a.wait then .error (.ask a.s) else .ok (a.s, us.map fun u => (u, got u))
/-- The accesses of an issue begin to be made, and what this device has made of them is kept. -/
def beginMaking (h : Here) (s : State) (own : List Answer) : Here × State :=
  let kept : List Answer := h.f.answers ++ { key := startKey, status := 0 } :: own
  ({ h with f := { h.f with answers := kept } }, modFibre s h.i.wave h.i.fibre fun f => { f with answers := kept, mapTime := s.logical })
/-- The accesses of an issue begin to be made: this device makes its own, then peers are asked. -/
def start (h : Here) (s : State) (carry : Carry) (made : Made) (us : List Access) (rs : List (Access × Acc)) :
    Except Stop (State × List (Access × Got)) :=
  let here := (rs.filter fun r => r.2 == .ok).map (·.1)
  let m := made s here
  let b := beginMaking h m.1 ((here.zip m.2).map fun x => { key := x.1.own, status := 0, value := x.2 })
  goOn b.1 b.2 carry us
/-- Whether a peer has performed an access at the address of one: it is not checked again. -/
def Here.donePeer (h : Here) (us : List Access) (u : Access) : Bool :=
  us.any fun x => x.addr == u.addr && (h.answer x.key).any (·.status == 0)
/-- What the checks of an issue in which each strand decides for itself have found (R189). -/
def checkAlone (h : Here) (s : State) (k : Kind) (us : List Access) : State × List (Access × Acc) :=
  let c := checkUnits h s k us
  (c.1, c.2.map fun r => match r.2, placeOf c.1 r.1.addr with
    | .ok, _ => r
    | _, .peer d _ => if h.donePeer us r.1 then (r.1, .peer d) else r
    | _, _ => r)

/-- What every access of an issue found; `alone` says that each strand decides for itself (`.try`, R189). While one of them fails,
none is made (R37, R186); of those that change memory, once all can be made, this device makes its own before peers make theirs, so
that none is checked again afterwards. -/
def examine (h : Here) (s : State) (k : Kind) (alone : Bool) (carry : Carry) (us : List Access) (made : Made := fun s _ => (s, [])) :
    Except Stop (State × List (Access × Got)) :=
  let done (a : Asked) : Except Stop (State × List (Access × Got)) := if a.wait then .error (.ask a.s) else .ok (a.s, a.got)
  if alone then let c := checkAlone h s k us; done (askUnits h c.1 carry c.2)
  else
    let c := checkUnits h s k us
    if c.2.all fun r => r.2 == .ok then done (askUnits h c.1 carry c.2)
    else if h.begun then goOn h s carry us
    else if decidedNow c.2 then done (askUnits h c.1 carry (c.2.filter fun x => match x.2 with | .fail .. => true | _ => false))
    else if k.effect && peerTargets c.2 != [] then
      if severalTargets c.2 then
        let a := askUnits h c.1 (carryProbe k) c.2
        if a.wait || a.got.any fun g => g.2.failed then done a else start h a.s carry made us c.2
      else start h c.1 carry made us c.2
    else done (askUnits h c.1 carry c.2)

/-! ## How the instruction ends -/

/-- The row of an access that failed, else 7. -/
def Got.row : Got → Nat
  | .fail row _ _ _ => row
  | _ => 7
/-- The access that decides: the first with the least row (R186, R248). -/
def deciding (gs : List (Access × Got)) : Option (Access × Nat × Nat × Bool) :=
  let least := gs.foldl (fun m g => min m g.2.row) 7
  gs.findSome? fun g => match g.2 with
    | .fail row level ro _ => if row = least then some (g.1, row, level, ro) else none
    | _ => none
/-- The stop of a failing access (R186, R37, R40). -/
def failStop (s : State) (writes : Bool) (dests : Dests) (u : Access) (row level : Nat) (ro : Bool) : Stop :=
  let a := BitVec.ofNat 64 u.addr
  if row = 3 || row = 5 then .park s (rowCode row) a (pattr row level ro writes) (row == 5) dests
  else .fault s (rowCode row) a
/-- Every access of the issue can be made, or the instruction stops. -/
def orFail (s : State) (writes : Bool) (dests : Dests) (gs : List (Access × Got)) : Except Stop PUnit :=
  match deciding gs with
  | some (u, row, level, ro) => .error (failStop s writes dests u row level ro)
  | none => .ok ⟨⟩
/-- Poison that a `.try` form reports is logged, of the lowest lane that meets it (R393). -/
def logMet (h : Here) (s : State) (gs : List (Access × Got)) : State :=
  match gs.find? fun g => g.2.row == 6 with
  | some g => if h.scouting then s else logPoison s (some h.g.tag) g.1.addr
  | none => s
/-- What a peer answered to an access, empty when it was made here. -/
def Got.value : Got → List Byte
  | .peer v => v
  | _ => []

/-- An address of a performing strand must be a multiple of `n` (R98, R186); the lowest lane that is not gives the address. -/
def aligned (us : List Access) (n : Nat) : Except Stop PUnit :=
  match us.find? fun u => u.addr % n != 0 with
  | some u => .error (.trap 3 (BitVec.ofNat 64 u.addr))
  | none => .ok ⟨⟩

end Sys2Proof.Machine
end

