-- ==== Sys2Proof/Machine/MemOps.lean ====
section
/-! DEFINITION. Loads and stores (R187 to R190) and atomics (R191 to R193): opcodes 0x2F to 0x35. -/

namespace Sys2Proof.Machine

/-! ## Sizes and fields (R133, R187) -/

/-- Bytes of a SZ code (R133). -/
def szBytes (sz : BitVec 3) : Nat := [1, 1, 2, 2, 4, 8, 16, 0].getD sz.toNat 0
/-- Registers of the data of a SZ code. -/
def szRegs (sz : BitVec 3) : Nat := max 1 (szBytes sz / 4)
/-- Whether a SZ code sign-extends. -/
def szSigned (sz : BitVec 3) : Bool := sz == 1 || sz == 3
/-- A data field is a multiple of the registers it names. -/
def dataAligned (d : BitVec 7) (sz : BitVec 3) : Bool := d.toNat % szRegs sz == 0
/-- What a load's fields may hold; `tries` in a `.try` form. -/
def loadOk (o : Mem) (tries : Bool) : Bool :=
  o.sz != 7 && dataAligned o.d o.sz && (if tries then decide (o.d.toNat ≤ 117) && o.sz != 6 else dstOk o.d)
/-- What a store's fields may hold. -/
def storeOk (o : Mem) (tries : Bool) : Bool :=
  o.sz != 7 && !(szSigned o.sz) && dataAligned o.d o.sz
    && (if tries then decide (o.d.toNat ≤ 117) && o.sz != 6 else decide (o.d.toNat ≤ 125))
/-- The effective address of a global form (R133, R188). -/
def memAddr (o : Mem) (a : Quad) : Nat := (a + BitVec.ofInt 64 (o.off.toInt * szBytes o.sz)).toNat
/-- The effective offset of a local form. -/
def memOffset (o : Mem) (a : Word) : Nat := (a + BitVec.ofInt 32 (o.off.toInt * szBytes o.sz)).toNat

/-! ## Data -/

/-- What a load writes to register `j` of its destination (R188). -/
def loadWord (sz : BitVec 3) (x j : Nat) : Word :=
  if szSigned sz then BitVec.ofInt 32 (signed (8 * szBytes sz) x) else BitVec.ofNat 32 (x / 2 ^ (32 * j))
/-- Registers from `d` on written with a loaded value; `bad` lanes are invalid (R38). -/
def putLoad (h : Here) (s : State) (ds : List Nat) (lanes : Lanes) (sz : BitVec 3) (x : Nat → Nat) (bad : Nat → Bool) : State :=
  (ds.zipIdx).foldl (fun s r => writeReg h s r.1 lanes (fun i => loadWord sz (x i) r.2) bad bad) s
/-- The value of a store's data (R187, R188). -/
def Here.storeData (h : Here) (d : BitVec 7) (sz : BitVec 3) : Except Stop (Nat → Nat) :=
  if d.toNat < 120 then do
    let rs ← h.dstN d (szRegs sz)
    h.clean rs
    .ok fun i => (rs.zipIdx.foldl (fun v r => v + (h.reg r.1 i).toNat * 2 ^ (32 * r.2)) 0) % 2 ^ (8 * szBytes sz)
  else .ok fun i => h.special d.toNat i % 2 ^ (8 * szBytes sz)

/-- A table of values by lane. -/
def byLane {α : Type} (t : List (Nat × α)) (d : α) (i : Nat) : α := (get? t i).getD d

/-! ## Scout mode -/

/-- A page added to what a scout run has collected; with the eighth the run ends (R38). -/
def Scout.addPage (c : Scout) (p : FaultPage) : Scout :=
  if c.pages.any fun q => q.page = p.page then c
  else if 8 ≤ c.pages.length then { c with ended := true }
  else { c with pages := c.pages ++ [p], ended := c.ended || decide (7 ≤ c.pages.length) }
/-- The absent page that an access of the run has met. -/
def Scout.meet (c : Scout) (g : Access × Got) : Scout :=
  match g.2 with
  | .fail 5 level ro _ => c.addPage { page := pageOf g.1.addr, attr := pattr 5 level ro false }
  | _ => c
/-- The absent pages that a load of the run has met. -/
def addPages (h : Here) (s : State) (gs : List (Access × Got)) : State :=
  if !h.scouting then s
  else modFibre s h.i.wave h.i.fibre fun f => { f with scout := f.scout.map fun c => gs.foldl Scout.meet c }
/-- The lanes whose access failed. -/
def failedLanes (gs : List (Access × Got)) : Lanes :=
  maskOf fun i => gs.any fun g => g.1.lane == i && decide (g.2.row < 7)
/-- Whether an access of a scout run meets a row that ends it. -/
def endsScout (gs : List (Access × Got)) : Bool := gs.any fun g => decide (g.2.row < 7) && g.2.row != 5

/-! ## Global loads and stores -/

/-- The accesses of the lanes of a mask. -/
def accesses (lanes : Lanes) (addr : Nat → Nat) : List Access := (lanesIn lanes).map fun i => ⟨i, 0, addr i⟩
/-- A load's accesses. -/
def loadKind : Kind := { need := rightRead, reads := true, writes := fun _ _ => false }
/-- A store's accesses. -/
def storeKind : Kind := { need := rightWrite, reads := false, writes := fun _ _ => true, effect := true }

/-! ### Leased copies (R100) -/

/-- Whether a copy is a core's. -/
def L1Copy.of (c : L1Copy) (cluster core : Nat) : Bool := c.cluster == cluster && c.core == core
/-- A table without the first `n` entries that meet a test. -/
def dropFirst {α : Type} (f : α → Bool) : Nat → List α → List α
  | 0, xs => xs
  | _, [] => []
  | n + 1, x :: t => if f x then dropFirst f n t else x :: dropFirst f (n + 1) t
/-- A copy taken by a core, whose L1 granules hold 682 sectors each; the oldest copies make room. -/
def keepCopy (s : State) (k : Nat) (c : L1Copy) : State :=
  let mine (p : Nat × L1Copy) : Bool := p.2.of c.cluster c.core
  let all := (s.l1.filter fun p => !(p.1 == k && mine p)) ++ [(k, c)]
  { s with l1 := dropFirst mine ((all.filter mine).length - 682 * l1Granules s c.cluster c.core) all }
/-- The copy that a core may read at a logical time: the time lies within its lease. -/
def copyFor (s : State) (cluster core k time : Nat) : Option L1Copy :=
  (s.l1.find? fun p => p.1 == k && p.2.of cluster core && decide (time ≤ p.2.lease)).map (·.2)
/-- One access of a load to this device's memory: from a leased copy, when a free value says so, or from the home slice, which
grants a lease. The value, and the logical time of the access. -/
def readLeased (h : Here) (s : State) (o n : Nat) : State × Nat × Nat :=
  let k := secKey s o
  let home (s : State) : State × Nat × Nat :=
    let y := grantLease s o h.f.time
    let bytes := readOwn y.1 (secStart s k) 48
    (keepCopy y.1 k { cluster := h.g.cluster, core := h.coreOf, bytes, wrote := y.2.wrote, lease := y.2.lease },
      ofBytes (readOwn y.1 o n), max h.f.time y.2.wrote)
  match copyFor s h.g.cluster h.coreOf k h.f.time with
  | none => home s
  | some c =>
    let b := s.takeFree
    if b.2.getLsbD 0 then (b.1, ofBytes ((c.bytes.drop (secOff s o)).take n), max h.f.time c.wrote) else home b.1
/-- One access of a load: its value, and its logical time; what a peer or the host has answered is as late as any write. -/
def loadOne (h : Here) (n : Nat) (s : State) (g : Access × Got) : State × Nat × Nat :=
  match g.2, placeOf s g.1.addr with
  | .here, .own o => readLeased h s o n
  | .here, _ => (s, ofBytes (readGlobal s g.1.addr n), s.logical)
  | .peer v, _ => (s, ofBytes (v.take n), s.logical)
  | .fail .., _ => (s, 0, h.f.time)
/-- What one access of a load has read: its lane, its address, its value, and its logical time. -/
structure LaneRead where
  lane  : Nat
  addr  : Nat
  value : Nat
  time  : Nat
/-- The accesses of a load made in turn; strands that read the same bytes read them in consecutive places of the memory order (R185), so
that they read one value. -/
def loadLanes (h : Here) (n : Nat) (s : State) (gs : List (Access × Got)) : State × List LaneRead :=
  gs.foldl (fun r g =>
    match r.2.find? fun x => x.addr == g.1.addr with
    | some x => (r.1, r.2 ++ [{ x with lane := g.1.lane }])
    | none => let y := loadOne h n r.1 g; (y.1, r.2 ++ [{ lane := g.1.lane, addr := g.1.addr, value := y.2.1, time := y.2.2 }])) (s, [])
/-- The accesses of a load: their values by lane; the fibre's next accesses are later than all of them (R99). -/
def loadAll (h : Here) (n : Nat) (s : State) (gs : List (Access × Got)) : State × List (Nat × Nat) :=
  let r := loadLanes h n s gs
  (modFibre r.1 h.i.wave h.i.fibre fun f => { f with time := r.2.foldl (fun t x => max t x.time) h.f.time },
    r.2.map fun x => (x.lane, x.value))

/-- A write of an access that is made here. -/
def storeHere (h : Here) (s : State) (n : Nat) (x : Nat → Nat) (g : Access × Got) : State :=
  match g.2 with
  | .here => writeGlobal s g.1.addr (toBytes n (x g.1.lane)) h.writer
  | _ => s

/-- The stores of an issue that this device makes before peers make theirs. -/
def storeMade (h : Here) (n : Nat) (x : Nat → Nat) : Made := fun s us => (us.foldl (fun s u => storeHere h s n x (u, .here)) s, us.map fun _ => [])
/-- A store on its way to a peer (R370). -/
def storeAsk (n : Nat) (x : Nat → Nat) (u : Access) : Ask := { opc := 2, size := n, addr := u.addr, data := toBytes n (x u.lane) }

/-- A load from global memory (R188); in scout mode as R38 says. -/
def globalLoad (h : Here) (s : State) (o : Mem) (lanes : Lanes) (ds : List Nat) (a : Src Quad) : Except Stop State := do
  let n := szBytes o.sz
  let bad := if h.scouting then lanes &&& maskOf a.bad else 0
  let us := accesses (lanes &&& ~~~bad) fun i => memAddr o (a.val i)
  aligned us n
  let r ← examine h s loadKind false (carryLoad n) us
  if h.scouting then
    if endsScout r.2 then .error .scout
    else
      let inv := bad ||| failedLanes r.2
      let t := loadAll h n r.1 r.2
      .ok (advance h (putLoad h (addPages h t.1 r.2) ds lanes o.sz (byLane t.2 0) fun i => inv.getLsbD i))
  else do
    orFail r.1 false { regs := ds.map fun d => (d, lanes) } r.2
    let t := loadAll h n r.1 r.2
    .ok (advance h (putLoad h t.1 ds lanes o.sz (byLane t.2 0) fun _ => false))

/-- R188 -/
def execLdg (o : Mem) (s : State) : Outcome :=
  perform s fun h => do
    orIllegal (loadOk o false && h.pairUOk o.a o.u none)
    let lanes ← h.performing o.p
    let ds ← h.dstN o.d (szRegs o.sz)
    let a ← h.src64 o.a o.u none
    globalLoad h s o lanes ds a

/-- R188 -/
def execStg (o : Mem) (s : State) : Outcome :=
  performLate s fun h => do
    orIllegal (storeOk o false && h.pairUOk o.a o.u none)
    notInScout h
    let x ← h.storeData o.d o.sz
    let a ← h.src64 o.a o.u none
    let n := szBytes o.sz
    let us := accesses (h.perf o.p) fun i => memAddr o (a.val i)
    aligned us n
    let r ← examine h s storeKind false (carryStore h.f.safe (storeAsk n x)) us (storeMade h n x)
    orFail r.1 true {} r.2
    .ok (advance h (r.2.foldl (fun s g => storeHere h s n x g) r.1))

/-! ## `.try` forms (R189) -/

/-- The status of an access. -/
def Got.status : Got → Nat
  | .fail _ _ _ st => st
  | _ => 0
/-- The statuses of the strands written to `v`(d + 2). -/
def putStatuses (h : Here) (s : State) (r : Nat) (lanes : Lanes) (gs : List (Access × Got)) (bad : Nat → Bool) : State :=
  let t := gs.map fun g => (g.1.lane, g.2.status)
  writeReg h s r lanes (fun i => BitVec.ofNat 32 (byLane t 0 i)) bad bad

/-- R189; in scout mode it is a load (R38). -/
def execLdgTry (o : Mem) (s : State) : Outcome :=
  perform s fun h => do
    orIllegal (loadOk o true && h.pairUOk o.a o.u none)
    let lanes ← h.performing o.p
    let ds ← h.dstN o.d (szRegs o.sz)
    let st ← h.resolve (o.d.toNat + 2)
    let a ← h.src64 o.a o.u none
    let n := szBytes o.sz
    let bad := if h.scouting then lanes &&& maskOf a.bad else 0
    let us := accesses (lanes &&& ~~~bad) fun i => memAddr o (a.val i)
    aligned us n
    let r ← examine h s loadKind true (carryLoad n) us
    if h.scouting && endsScout r.2 then .error .scout
    else
      let inv := if h.scouting then bad ||| failedLanes r.2 else 0
      let t := loadAll h n (logMet h r.1 r.2) r.2
      let s1 := putLoad h (addPages h t.1 r.2) ds lanes o.sz (byLane t.2 0) fun i => inv.getLsbD i
      .ok (advance h (putStatuses h s1 st lanes r.2 fun i => inv.getLsbD i))

/-- R189 -/
def execStgTry (o : Mem) (s : State) : Outcome :=
  performLate s fun h => do
    orIllegal (storeOk o true && h.pairUOk o.a o.u none)
    notInScout h
    let x ← h.storeData o.d o.sz
    let st ← h.resolve (o.d.toNat + 2)
    let a ← h.src64 o.a o.u none
    let n := szBytes o.sz
    let lanes := h.perf o.p
    let us := accesses lanes fun i => memAddr o (a.val i)
    aligned us n
    let r ← examine h s storeKind true (carryStore h.f.safe (storeAsk n x)) us
    let s1 := r.2.foldl (fun s g => storeHere h s n x g) (logMet h r.1 r.2)
    .ok (advance h (putStatuses h s1 st lanes r.2 fun _ => false))

/-! ## Local loads and stores (R190) -/

/-- Alignment of the local accesses, and the sizes that the aperture takes (R63, R98). -/
def localAligned (us : List Access) (n : Nat) : Except Stop PUnit :=
  match us.find? fun u => u.addr % n != 0 || (isAperture u.addr && n != 4 && n != 8) with
  | some u => .error (.trap 3 (BitVec.ofNat 64 u.addr))
  | none => .ok ⟨⟩
/-- The stray accesses of an issue: all counted, the lowest lane's offset kept (R51, R62). -/
def noteStrays (h : Here) (s : State) (offs : List Nat) : State := noteStray s h.w.gang h.i.wave offs.length (offs.headD 0)

/-- R190 -/
def execLdl (o : Mem) (s : State) : Outcome :=
  performLate s fun h => do
    orIllegal (loadOk o false && h.srcUOk o.a o.u none)
    let lanes ← h.performing o.p
    let ds ← h.dstN o.d (szRegs o.sz)
    let a ← h.srcU o.a o.u none
    let n := szBytes o.sz
    let bad := if h.scouting then lanes &&& maskOf a.bad else 0
    let us := accesses (lanes &&& ~~~bad) fun i => memOffset o (a.val i)
    localAligned us n
    localClean h s (us.map (·.addr)) n
    let r := us.map fun u => (u, localLoad s h.w.gang h.g.hdr u.addr n)
    let s1 := noteStrays h s ((r.filter fun x => x.2.2).map fun x => x.1.addr)
    let t := r.map fun x => (x.1.lane, x.2.1)
    .ok (advance h (putLoad h s1 ds lanes o.sz (byLane t 0) fun i => bad.getLsbD i))

/-- R190 -/
def execStl (o : Mem) (s : State) : Outcome :=
  performLate s fun h => do
    orIllegal (storeOk o false && h.srcUOk o.a o.u none)
    notInScout h
    let x ← h.storeData o.d o.sz
    let a ← h.srcU o.a o.u none
    let n := szBytes o.sz
    let us := accesses (h.perf o.p) fun i => memOffset o (a.val i)
    localAligned us n
    let r := us.foldl (fun r u =>
      let y := localStore r.1 h.w.gang h.g.hdr u.addr n (x u.lane)
      (y.1, if y.2 then r.2 ++ [u.addr] else r.2)) (s, [])
    .ok (advance h (noteStrays h r.1 r.2))

/-! ## Atomics (R191 to R193) -/

/-- The new value of a target, none when nothing is written (R192); `b` is the operand or the compare value. -/
def atomNew (oper w old b nv : Nat) : Option Nat :=
  match oper with
  | 0 => some ((old + b) % 2 ^ w)
  | 1 => some (if signed w old ≤ signed w b then old else b)
  | 2 => some (min old b)
  | 3 => some (if signed w old ≤ signed w b then b else old)
  | 4 => some (max old b)
  | 5 => some (old &&& b)
  | 6 => some (old ||| b)
  | 7 => some (old ^^^ b)
  | 8 => some b
  | _ => if old = b then some nv else none

/-- The target field of an atomic (R191). -/
def Here.targetOk (h : Here) (a : BitVec 7) (u loc : Bool) : Bool :=
  (if u then h.sregOk a.toNat else decide (a.toNat < 120)) && (loc || (a.toNat % 2 == 0 && (!u || h.sregOk (a.toNat + 1))))
/-- The addresses of an atomic's targets. -/
def Here.targets (h : Here) (a : BitVec 7) (u loc : Bool) : Except Stop (Nat → Nat) :=
  if loc then (h.srcU a u none).map fun x i => (x.val i).toNat else (h.src64 a u none).map fun x i => (x.val i).toNat
/-- Local atomics do not reach the aperture (R63). -/
def atomAligned (loc : Bool) (us : List Access) (n : Nat) : Except Stop PUnit :=
  match us.find? fun u => u.addr % n != 0 || (loc && isAperture u.addr) with
  | some u => .error (.trap 3 (BitVec.ofNat 64 u.addr))
  | none => .ok ⟨⟩
/-- The operand words of a lane, zeros for code 120. -/
def Here.words (h : Here) (rs : List Nat) (n lane : Nat) : List Nat :=
  if rs.isEmpty then List.replicate n 0 else rs.map fun r => (h.reg r lane).toNat
/-- An operand of `w` bits from the words at index `k` on. -/
def operandAt (ws : List Nat) (w k : Nat) : Nat := ws.getD k 0 + (if w = 64 then 2 ^ 32 * ws.getD (k + 1) 0 else 0)

/-- One part of an atomic: its place in the strand's words and its operands. -/
structure AtomPart where
  offset : Nat
  b  : Nat
  nv : Nat
/-- The parts of a strand's atomic: one, or the two halves of `atom2` (R193). -/
def atomParts (two : Bool) (w : Nat) (ws : List Nat) : List AtomPart :=
  if two then [{ offset := 0, b := ws.getD 0 0, nv := 0 }, { offset := 4, b := ws.getD 1 0, nv := 0 }]
  else [{ offset := 0, b := operandAt ws w 0, nv := operandAt ws w (w / 32) }]

/-- One indivisible read and write on local memory: the old value, and whether it was stray (R62, R192). -/
def atomLocal (h : Here) (s : State) (oper w o b nv : Nat) : State × Nat × Bool :=
  if isStray h.g.hdr o then (s, 0, true)
  else
    let old := ofBytes (readLocal s h.w.gang h.g.hdr o (w / 8))
    match atomNew oper w old b nv with
    | some x => (writeLocal s h.w.gang h.g.hdr o (toBytes (w / 8) x), old, false)
    | none => (s, old, false)
/-- One indivisible read and write at a global address of this device or the host window (R101, R192). -/
def atomHere (who : Nat × Nat × Nat) (s : State) (oper w a b nv : Nat) : State × Nat :=
  let old := ofBytes (readGlobal s a (w / 8))
  match atomNew oper w old b nv with
  | some x => (writeGlobal s a (toBytes (w / 8) x) who, old)
  | none => (s, old)

/-- The parts of a strand applied to local memory: the old value of the strand, the offsets that were stray. -/
def strandLocal (h : Here) (s : State) (oper w o : Nat) (ps : List AtomPart) : State × Nat × List Nat :=
  ps.foldl (fun r p =>
    let y := atomLocal h r.1 oper w (o + p.offset) p.b p.nv
    (y.1, r.2.1 + y.2.1 * 2 ^ (8 * p.offset), if y.2.2 then r.2.2 ++ [o + p.offset] else r.2.2)) (s, 0, [])
/-- The parts of a strand applied to global memory. -/
def strandHere (who : Nat × Nat × Nat) (s : State) (oper w a : Nat) (ps : List AtomPart) : State × Nat :=
  ps.foldl (fun r p =>
    let y := atomHere who r.1 oper w (a + p.offset) p.b p.nv
    (y.1, r.2 + y.2 * 2 ^ (8 * p.offset))) (s, 0)

/-- An atomic's accesses: a failed `cas` writes nothing (R192). -/
def atomKind (oper w : Nat) (parts : Nat → List AtomPart) : Kind where
  need := rightAtomic
  reads := true
  effect := true
  peek := if oper = 9 then some (w / 8, fun u v => (parts u.lane).any fun p => (atomNew oper w (ofBytes (v.take (w / 8))) p.b p.nv).isSome) else none
  writes := fun s u => (parts u.lane).any fun p =>
    (atomNew oper w (ofBytes (readGlobal s (u.addr + p.offset) (w / 8))) p.b p.nv).isSome

/-- Which of the two halves of a stray `atom2` came last is open (R193): its offset is taken by a free value. -/
def lastStray (s : State) (offs : List Nat) : State × Nat :=
  match offs with
  | x :: y :: _ => let f := s.takeFree; (f.1, if f.2.getLsbD 0 then y else x)
  | _ => (s, offs.headD 0)

/-- An atomic on local memory, in lane order (R185). -/
def atomLocalForm (h : Here) (s : State) (oper w : Nat) (us : List Access) (parts : Nat → List AtomPart) : State × List (Nat × Nat) :=
  let r := us.foldl (fun r u =>
    let y := strandLocal h r.1 oper w u.addr (parts u.lane)
    (y.1, r.2.1 ++ [(u.lane, y.2.1)], r.2.2 ++ [y.2.2])) (s, [], [])
  let strays := r.2.2.filter fun x => !x.isEmpty
  let f := lastStray r.1 (strays.headD [])
  (noteStray f.1 h.w.gang h.i.wave strays.flatten.length f.2, r.2.1)
/-- An atomic on global memory, in lane order (R185). -/
def atomGlobalForm (h : Here) (s : State) (oper w : Nat) (gs : List (Access × Got)) (parts : Nat → List AtomPart) : State × List (Nat × Nat) :=
  gs.foldl (fun r g =>
    match g.2 with
    | .here =>
      let y := strandHere h.writer r.1 oper w g.1.addr (parts g.1.lane)
      (y.1, r.2 ++ [(g.1.lane, y.2)])
    | x => (r.1, r.2 ++ [(g.1.lane, ofBytes (x.value.take 8))])) (s, [])

/-- The atomics of an issue that this device makes before peers make theirs: their old values. -/
def atomMade (h : Here) (oper w : Nat) (parts : Nat → List AtomPart) : Made := fun s us =>
  let r := atomGlobalForm h s oper w (us.map fun u => (u, .here)) parts
  (r.1, r.2.map fun x => toBytes 8 x.2)

/-! ### Atomics of one issue on one target of a peer (R185, R192) -/

/-- The code under which an atomic travels to a peer (R370). -/
def atomSub (oper : Nat) (two wide : Bool) : Nat := oper + 16 * (if two then 2 else if wide then 1 else 0)
/-- An atomic on its way to a peer: the operands of its parts, and the new value of a `cas`. -/
def atomAsk (oper w addr : Nat) (ps : List AtomPart) : Ask :=
  { opc := 3, size := ps.length * (w / 8), addr, sub := atomSub oper (ps.length == 2) (w == 64)
    imm := match ps with
      | [y, z] => toBytes 4 y.b ++ toBytes 4 z.b
      | y :: _ => toBytes 8 y.b ++ toBytes 8 y.nv
      | [] => [] }
/-- Atomics applied in turn to a target of known values: what each finds, and what they leave. -/
def runAtoms (oper w : Nat) : List (List AtomPart) → List Nat → List (List Nat) × List Nat
  | [], vs => ([], vs)
  | ps :: t, vs =>
    let r := runAtoms oper w t ((ps.zip vs).map fun x => (atomNew oper w x.2 x.1.b x.1.nv).getD x.2)
    (vs :: r.1, r.2)
/-- One atomic that leaves what two in turn leave; for `cas` there is none. -/
def AtomPart.fold (oper w : Nat) (x y : AtomPart) : AtomPart := { x with b := (atomNew oper w x.b y.b y.nv).getD x.b }
/-- The values of a target's parts in an answer, and as one. -/
def partsOf (n w : Nat) (v : List Byte) : List Nat := (List.range n).map fun k => numAt v (k * (w / 8)) (w / 8)
def joinParts (w : Nat) (vs : List Nat) : List Byte := vs.flatMap fun v => toBytes (w / 8) v
/-- `cas` of several strands: the value is read, and replaced by what the strands leave in lane order, until nothing has come
between; where none of them writes, the read is all. -/
def carryCas (w : Nat) (ps : List AtomPart) (addr key : Nat) (ans : Nat → Option Answer) : Nat → Nat → Nat → Move
  | 0, _, _ => .got []
  | fuel + 1, round, v =>
    let r := runAtoms 9 w (ps.map fun p => [p]) [v]
    let done : Move := .got (r.1.map (joinParts w))
    if (ps.zip r.1).all fun x => x.2 != [x.1.b] then done
    else
      let key' := key + 2 ^ 20 * (round + 1)
      .after ans key' (atomAsk 9 w addr [{ offset := 0, b := v, nv := r.2.headD 0 }]) fun bs =>
        let old := numAt bs 0 (w / 8)
        if old = v then done else carryCas w ps addr key ans fuel (round + 1) old
/-- How atomics of one issue on one target of a peer travel: one request with what they do together, so that nothing falls
between them; in safe mode each on its own (R373). -/
def carryAtom (h : Here) (oper w : Nat) (parts : Nat → List AtomPart) : Carry := fun _ us ans =>
  let all := us.map fun u => parts u.lane
  let ask (u : Access) : Ask := atomAsk oper w u.addr (parts u.lane)
  match us, all with
  | [u], _ => carryEach ask ans [u] []
  | u :: _, p :: rest =>
    if h.f.safe then carryEach ask ans us []
    else if oper = 9 then
      .after ans u.key { opc := 1, size := w / 8, addr := u.addr } fun bs =>
        carryCas w all.flatten u.addr u.key ans (h.f.answers.length + 1) 0 (numAt bs 0 (w / 8))
    else
      let sum := rest.foldl (fun c ps => (c.zip ps).map fun x => x.1.fold oper w x.2) p
      .after ans u.key (atomAsk oper w u.addr sum) fun bs =>
        .got ((runAtoms oper w all (partsOf p.length w bs)).1.map (joinParts w))
  | _, _ => .got []

/-- The old values written to dst and, for 64 bits, dst + 1. -/
def putOld (h : Here) (s : State) (rs : List Nat) (lanes : Lanes) (t : List (Nat × Nat)) : State :=
  (rs.zipIdx).foldl (fun s r =>
    writeReg h s r.1 lanes (fun i => BitVec.ofNat 32 (byLane t 0 i / 2 ^ (32 * r.2))) (fun _ => false) fun _ => false) s

/-- An atomic of one width or of two halves (R192, R193). Of a `cas` the registers from dst on are the compare value and the new
one; where the new value would be a register from 120 on, as with dst 119, which the spec does not speak of, it traps
(DESIGN CHOICE, log 30). -/
def atomForm (dst a : BitVec 7) (p : BitVec 3) (u loc : Bool) (oper w : Nat) (two : Bool) (s : State) : Outcome :=
  performLate s fun h => do
    let results := if two || w = 64 then 2 else 1
    let words := if oper = 9 then 2 * results else results
    orIllegal (decide (dst.toNat ≤ 120) && dst.toNat % (if w = 64 then words else results) == 0 && (dst == 120 || decide (dst.toNat + words ≤ 120))
      && h.targetOk a u loc)
    notInScout h
    let ds ← h.dstN dst words
    h.clean ds
    let at_ ← h.targets a u loc
    let lanes := h.perf p
    let us := accesses lanes at_
    let size := if two then 8 else w / 8
    atomAligned loc us size
    let parts (i : Nat) : List AtomPart := atomParts two w (h.words ds words i)
    if loc then do
      localClean h s (us.map (·.addr)) size
      let r := atomLocalForm h s oper w us parts
      .ok (advance h (putOld h r.1 (ds.take results) lanes r.2))
    else do
      let r ← examine h s (atomKind oper w parts) false (carryAtom h oper w parts) us (atomMade h oper w parts)
      orFail r.1 true { regs := (ds.take results).map fun d => (d, lanes) } r.2
      let t := atomGlobalForm h r.1 oper w r.2 parts
      .ok (advance h (putOld h t.1 (ds.take results) lanes t.2))

/-- R192 -/
def execAtom (o : Atom) (s : State) : Outcome :=
  if 9 < o.oper.toNat || 1 < o.width.toNat then perform s fun _ => .error illegalInstruction
  else atomForm o.dst o.a o.p o.u o.loc o.oper.toNat (if o.width = 1 then 64 else 32) false s
/-- R193 -/
def execAtom2 (o : Atom2) (s : State) : Outcome :=
  if 8 < o.oper.toNat then perform s fun _ => .error illegalInstruction
  else atomForm o.dst o.a o.p o.u o.loc o.oper.toNat 32 true s

end Sys2Proof.Machine
end

