-- ==== Sys2Proof/Machine/Cells.lean ====
section
/-! DEFINITION. Exact cells (R90 to R93), reductions and finalisation (R194 to R196): opcodes 0x36 and 0x37. -/

namespace Sys2Proof.Machine

/-! ## Images (R90) -/

/-- A cell's image read by its fields. -/
structure Cell where
  sum   : Nat
  count : Nat
  pay   : Nat
  nan   : Bool
  pinf  : Bool
  ninf  : Bool
  ovf   : Bool
  nz    : Bool
  deriving DecidableEq, Repr

/-- The cell of 48 bytes. -/
def Cell.read (bs : List Byte) : Cell :=
  let fl := numAt bs 44 4
  { sum := numAt bs 0 40, count := numAt bs 40 4, pay := fl % 2 ^ 22, nan := bitOf fl 22, pinf := bitOf fl 23, ninf := bitOf fl 24
    ovf := bitOf fl 25, nz := bitOf fl 26 }
/-- The 48 bytes of a cell; reserved flags are written 0 (R91). -/
def Cell.image (c : Cell) : List Byte :=
  toBytes 40 c.sum ++ toBytes 4 c.count
    ++ toBytes 4 (c.pay + 2 ^ 22 * bit c.nan + 2 ^ 23 * bit c.pinf + 2 ^ 24 * bit c.ninf + 2 ^ 25 * bit c.ovf + 2 ^ 26 * bit c.nz)

/-- The formats that a contribution may have (R91). -/
inductive CellFmt where
  | float (t : Fmt)
  | s32 | s64
  deriving DecidableEq, Repr
/-- The value of a contribution's bits; an integer 0 counts as +0. -/
def CellFmt.value (t : CellFmt) (x : Nat) : Exact :=
  match t with
  | .float f => f.value (x % 2 ^ f.bits)
  | .s32 => .ofInt (signed 32 x)
  | .s64 => .ofInt (signed 64 x)

/-- A contribution (R91). -/
def Cell.add (c : Cell) (x : Exact) : Cell :=
  let c1 := if c.count = 0xFFFFFFFF then { c with ovf := true } else { c with count := c.count + 1 }
  match x with
  | .nan p =>
    let k := 0x3FFFFF - p.getD 0
    { c1 with pay := if c.nan then max c.pay k else k, nan := true }
  | .inf false => { c1 with pinf := true }
  | .inf true => { c1 with ninf := true }
  | .fin neg n d =>
    { c1 with
      nz := c.nz || !(neg && n == 0)
      sum := wrap 320 ((c.sum : Int) + signedNum neg (n * 2 ^ 149 / d)) }
/-- A partial image merged into a cell (R370). -/
def Cell.merge (c x : Cell) : Cell :=
  { sum := (c.sum + x.sum) % 2 ^ 320
    count := min (c.count + x.count) 0xFFFFFFFF
    pay := if c.nan && x.nan then max c.pay x.pay else if x.nan then x.pay else c.pay
    nan := c.nan || x.nan, pinf := c.pinf || x.pinf, ninf := c.ninf || x.ninf
    ovf := c.ovf || x.ovf || decide (0xFFFFFFFF < c.count + x.count), nz := c.nz || x.nz }

/-- Finalisation to a floating format (R93). -/
def Cell.finFloat (c : Cell) (t : Fmt) (rm : Rm) : Nat :=
  if c.ovf then t.canonical
  else if c.nan then nanBits t false (0x3FFFFF - c.pay)
  else if c.pinf && c.ninf then t.canonical
  else if c.pinf then t.infCode
  else if c.ninf then t.sign + t.infCode
  else
    let v := signed 320 c.sum
    if v = 0 then (if 0 < c.count && !c.nz then t.sign else 0)
    else roundTo t rm false (.fin (decide (v < 0)) v.natAbs (2 ^ 149))
/-- Finalisation to an integer of `w` bits (R93). -/
def Cell.finInt (c : Cell) (w : Nat) (rm : Rm) : Nat :=
  let lo : Int := -(2 ^ (w - 1))
  let hi : Int := 2 ^ (w - 1) - 1
  if c.ovf || c.nan || (c.pinf && c.ninf) then 0
  else if c.pinf then wrap w hi
  else if c.ninf then wrap w lo
  else
    let v := signed 320 c.sum
    wrap w (roundToInt rm lo hi (.fin (decide (v < 0)) v.natAbs (2 ^ 149)))

/-- The raw image of the sector at a global address of this device (R90). -/
def rawSector (s : State) (a : Nat) : List Byte :=
  match placeOf s a with
  | .own o => padTo 48 (sectorAt s o).bytes
  | _ => List.replicate 48 0
/-- A cell at a global address of this device replaced (R116). -/
def putCell (s : State) (a : Nat) (c : Cell) (who : Nat × Nat × Nat) : State :=
  match placeOf s a with
  | .own o => writeCell s o c.image who
  | _ => s

/-! ## Reductions (R194, R195) -/

/-- One contribution of an issue: its access and its value. -/
structure Contribution where
  access : Access
  bits   : Nat
/-- The contributions to one sector applied as one update (R195). -/
def applySector (t : CellFmt) (who : Nat × Nat × Nat) (s : State) (a : Nat) (cs : List Contribution) : State :=
  let mine := cs.filter fun c => c.access.addr = a
  putCell s a (mine.foldl (fun c x => c.add (t.value x.bits)) (Cell.read (rawSector s a))) who
/-- The sectors of some accesses, each once, in order of the first. -/
def sectorsOf (us : List Access) : List Nat := us.foldl (fun xs u => insertNew xs u.addr) []
/-- Contributions read the cell's image (R394) and need the atomic right (R343); the host window holds no cells (R116). -/
def redKind : Kind := { need := rightAtomic, reads := true, writes := fun _ _ => true, host := false, effect := true }
/-- The code of a format in a contribution to a peer (R370). -/
def CellFmt.sub : CellFmt → Nat
  | .float .f32 => 0 | .float .f16 => 1 | .float _ => 2 | .s32 => 3 | .s64 => 4

/-- The values of an issue's contributions by one access. -/
def bitsAt (cs : List Contribution) (u : Access) : Nat := ((cs.find? fun c => c.access == u).map (·.bits)).getD 0
/-- How contributions of one issue to one sector of a peer travel: several as one partial image, so that they are one update
(R195, R370); in safe mode each on its own (R373). -/
def carryRed (safe : Bool) (t : CellFmt) (cs : List Contribution) : Carry := fun _ us ans =>
  let ask (u : Access) : Ask := { opc := 4, size := 48, addr := u.addr, sub := t.sub, imm := toBytes 8 (bitsAt cs u) }
  match us with
  | u :: _ :: _ =>
    if safe then carryEach ask ans us []
    else
      let image := (us.foldl (fun c x => c.add (t.value (bitsAt cs x))) (Cell.read [])).image
      .after ans u.key { opc := 5, size := 48, addr := u.addr, data := image } fun _ => .got (us.map fun _ => [])
  | _ => carryEach ask ans us []

/-- The contributions of an issue that this device makes, sector by sector. -/
def redMade (h : Here) (t : CellFmt) (cs : List Contribution) : Made := fun s us =>
  ((sectorsOf us).foldl (fun s x => applySector t h.writer s x cs) s, us.map fun _ => [])
/-- A reduction (R194): each performing strand contributes its values, one or two. Its address is a pair, never a literal (R57). -/
def redForm (t : CellFmt) (two : Bool) (o : Duo) (s : State) : Outcome :=
  performLate s fun h => do
    orIllegal (decide (o.dst.toNat ≤ 125) && (t != .s64 || o.dst.toNat % 2 == 0) && h.pairUOk o.a o.u none)
    notInScout h
    let v ← if t = .s64 then (h.src64 o.dst false none).map fun x i => (x.val i).toNat
      else (h.src o.dst none).map fun x i => (x.val i).toNat
    let a ← h.src64 o.a o.u none
    let base := accesses (h.perf o.p) fun i => (a.val i).toNat
    aligned base 48
    let cs := base.flatMap fun u =>
      if two then
        [{ access := u, bits := v u.lane % 2 ^ 16 },
         { access := { u with unit := 1, addr := (u.addr + 48) % 2 ^ 64 }, bits := v u.lane / 2 ^ 16 }]
      else [({ access := u, bits := v u.lane } : Contribution)]
    let us := cs.map (·.access)
    let r ← examine h s redKind false (carryRed h.f.safe t cs) us (redMade h t cs)
    orFail r.1 true {} r.2
    .ok (advance h (redMade h t cs r.1 ((r.2.filter fun g => g.2 == .here).map (·.1))).1)

/-- R195 -/
def execRedF32 (o : Duo) (s : State) : Outcome := redForm (.float .f32) false o s
/-- R195 -/
def execRedF16 (o : Duo) (s : State) : Outcome := redForm (.float .f16) false o s
/-- R195 -/
def execRedBf16 (o : Duo) (s : State) : Outcome := redForm (.float .bf16) false o s
/-- R195 -/
def execRedS32 (o : Duo) (s : State) : Outcome := redForm .s32 false o s
/-- R195 -/
def execRedS64 (o : Duo) (s : State) : Outcome := redForm .s64 false o s
/-- R195 -/
def execRed2F16 (o : Duo) (s : State) : Outcome := redForm (.float .f16) true o s
/-- R195 -/
def execRed2Bf16 (o : Duo) (s : State) : Outcome := redForm (.float .bf16) true o s

/-! ## Finalisation (R196) -/

/-- A finalisation reads the cell's image (R343, R394). -/
def rfinKind : Kind := { need := rightRead, reads := true, writes := fun _ _ => false, host := false }
/-- The image that an access has read: from this device's sector, or from a peer. -/
def imageOf (s : State) (g : Access × Got) : Cell :=
  match g.2 with
  | .peer v => Cell.read (padTo 48 v)
  | _ => Cell.read (rawSector s g.1.addr)

/-- The image of a cell of a peer: a READ of a sector gives it as it lies. -/
def carryImage : Carry := fun _ us ans =>
  match us with
  | [] => .got []
  | u :: _ => .after ans u.look { opc := 1, size := 48, addr := u.addr } fun v => .got (us.map fun _ => v)
/-- A finalisation (R196); it is a load in scout mode (R38). -/
def rfinForm (wide : Bool) (modes : Nat) (f : Cell → Rm → Nat) (o : Flt) (s : State) : Outcome :=
  performLate s fun h => do
    orIllegal ((if wide then dst64Ok o.dst else dstOk o.dst) && h.pairUOk o.a o.u none)
    let rm ← h.rm modes o.rm
    let lanes ← h.performing o.p
    let ds ← h.dstN o.dst (if wide then 2 else 1)
    let a ← h.src64 o.a o.u none
    let bad := if h.scouting then lanes &&& maskOf a.bad else 0
    let us := accesses (lanes &&& ~~~bad) fun i => (a.val i).toNat
    aligned us 48
    let r ← examine h s rfinKind false carryImage us
    let t := r.2.map fun g => (g.1.lane, f (imageOf r.1 g) rm)
    let put (s : State) (inv : Nat → Bool) : State :=
      (ds.zipIdx).foldl (fun s d => writeReg h s d.1 lanes (fun i => BitVec.ofNat 32 (byLane t 0 i / 2 ^ (32 * d.2))) inv inv) s
    if h.scouting then
      if endsScout r.2 then .error .scout
      else
        let inv := bad ||| failedLanes r.2
        .ok (advance h (put (addPages h r.1 r.2) fun i => inv.getLsbD i || h.rmBad o.rm))
    else do
      orFail r.1 false { regs := ds.map fun d => (d, lanes) } r.2
      .ok (advance h (put r.1 fun _ => false))

/-- R196 -/
def execRfinF32 (o : Flt) (s : State) : Outcome := rfinForm false 4 (fun c rm => c.finFloat .f32 rm) o s
/-- R196 -/
def execRfinF16 (o : Flt) (s : State) : Outcome := rfinForm false 4 (fun c rm => c.finFloat .f16 rm) o s
/-- R196 -/
def execRfinBf16 (o : Flt) (s : State) : Outcome := rfinForm false 4 (fun c rm => c.finFloat .bf16 rm) o s
/-- R196 -/
def execRfinS32 (o : Flt) (s : State) : Outcome := rfinForm false 3 (fun c rm => c.finInt 32 rm) o s
/-- R196 -/
def execRfinS64 (o : Flt) (s : State) : Outcome := rfinForm true 3 (fun c rm => c.finInt 64 rm) o s

end Sys2Proof.Machine
end

