-- ==== Sys2Proof/Machine/Engine.lean ====
section
/-! DEFINITION. Asynchronous operations (R102 to R107): how one is issued, how it reads its 16-byte units, how its writes join
the order, and how it completes, with its record (R350, R351) and its barrier event. -/

namespace Sys2Proof.Machine

/-! ## Issue (R106, R298) -/

/-- A fibre's counter of a class (R106). -/
def Fibre.count (f : Fibre) (cls : Nat) : Nat := f.counts.getD cls 0
/-- A counter of a fibre changed. -/
def bumpCount (s : State) (w k cls : Nat) (g : Nat → Nat) : State :=
  modFibre s w k fun f => { f with counts := (List.range 5).map fun c => if c = cls then g (f.count c) else f.count c }
/-- The counter of a fibre whose image is in memory changed there as well (R357). -/
def patchCount (s : State) (w k cls : Nat) : State :=
  match get? s.waves w with
  | some x =>
    let f := x.fibres.getD k Fibre.blank
    patchImage s x.gang (slotFibre (headerOf s x.gang) x.member x.index k + 0x230 + cls) (toBytes 1 (f.count cls))
  | none => s

/-- ACE slots of a core that are in use (R201). -/
def aceUsed (s : State) (cluster core : Nat) : Nat :=
  (s.ops.filter fun p => p.2.cls == 0 && p.2.cluster == cluster && p.2.core == core).length
/-- Whether an operation still stands in its MXE's queue: a drain leaves it once it has read its accumulator (R222). -/
def inMxe (o : Op) : Bool := (o.cls == 1 || o.cls == 4) && o.captured.isNone
/-- Operations in the queue of a cluster's MXE. -/
def mxeUsed (s : State) (cluster : Nat) : Nat := (s.ops.filter fun p => inMxe p.2 && p.2.cluster == cluster).length

/-- The barrier-object offset that a command names: none with 0xF in bits 31:28, else a multiple of 16 (R200). -/
def barrierOperand (o : Nat) : Except Stop (Option Word) :=
  if o / 2 ^ 28 = 15 then .ok none
  else if o % 16 = 0 then .ok (some (BitVec.ofNat 32 o))
  else .error (.trap 3 (BitVec.ofNat 64 o))

/-- An asynchronous command issues, or stalls while its counter or its queue is full (R106, R201, R222). -/
def startOp (h : Here) (s : State) (kind : OpKind) (cls : Nat) (bar : Option Word) (status : Nat := 0) : Except Stop State :=
  if 255 ≤ h.f.count cls then .error (.stall (.counter cls))
  else if cls = 0 && decide (96 ≤ aceUsed s h.g.cluster h.coreOf) then .error (.stall .ace)
  else if (cls = 1 || cls = 4) && decide (32 ≤ mxeUsed s h.g.cluster) then .error (.stall .mxe)
  else
    let u := s.takeUid
    let op : Op := { kind, gang := h.w.gang, launch := h.g.launch, tag := h.g.tag, wave := h.i.wave, fibre := h.i.fibre, pc := h.i.pc
                     lanes := h.i.lanes, seq := h.w.seq, cls, bar, issued := s.clk, safe := h.f.safe, cluster := h.g.cluster, core := h.coreOf, status }
    let s1 := modWave { u.1 with ops := put u.1.ops u.2 op } h.i.wave fun w => { w with seq := w.seq + 1 }
    .ok (advance h (bumpCount s1 h.i.wave h.i.fibre cls (· + 1)))

/-! ## Reads (R102) -/

/-- The unit of a local offset, among the units of global addresses. -/
def localUnit (o : Nat) : Nat := 2 ^ 64 + o % 2 ^ 32 / 16 * 16
/-- An operation changed. -/
def modOp (s : State) (id : Nat) (f : Op → Op) : State := { s with ops := upd s.ops id f }
/-- The header of an operation's gang. -/
def Op.header (s : State) (o : Op) : Header := headerOf s o.gang
/-- The unit that an operation has read, if it has. -/
def Op.read? (o : Op) (u : Nat) : Option UnitRead := o.reads.find? fun r => r.unit = u
/-- A unit entered among an operation's reads. -/
def addRead (s : State) (id : Nat) (r : UnitRead) : State := modOp s id fun o => { o with reads := o.reads ++ [r] }
/-- The clk at which an operation is done with waiting for its units: those that no owner has answered are then ABSENT (R222,
R235, R286). -/
def Op.expiry (o : Op) : Option Nat :=
  match o.cls with
  | 0 => some (o.issued + 2 ^ 21)
  | 2 => some (o.issued + 2 ^ 26)
  | 4 => some (o.issued + 262144)
  | _ => none
/-- Whether that clk has come. -/
def Op.late (o : Op) (s : State) : Bool := o.expiry.any fun t => decide (t ≤ s.clk)
/-- Whether the 16 bytes from a local offset on hold poison (R392). -/
def poisonedUnit (s : State) (o : Op) (a : Nat) : Bool := localPoison s o.gang (o.header s) a 16
/-- One aligned 16-byte unit read, now, unless it has been; `false` while a peer or the host has still to answer (R102, R186). -/
def engineRead (s : State) (id u : Nat) : State × Bool :=
  match get? s.ops id with
  | none => (s, true)
  | some o =>
    let none_ (s : State) : State × Bool := (addRead s id { unit := u, status := 12, bytes := [] }, true)
    if (o.read? u).isSome then (s, true)
    else if 2 ^ 64 ≤ u then
      (addRead s id (if poisonedUnit s o (u - 2 ^ 64) then { unit := u, status := 15, bytes := [] }
        else { unit := u, status := 0, bytes := readLocal s o.gang (o.header s) (u - 2 ^ 64) 16 }), true)
    else
      let c := check s (some o.tag) u rightRead true false true
      match c.2 with
      | .ok => (addRead c.1 id { unit := u, status := 0, bytes := readGlobal c.1 u 16 }, true)
      | .fail row level ro =>
        (addRead (forgetRefused c.1 u) id { unit := u, status := rowStatus row, row5 := row == 5, attr := pattr row level ro false, bytes := [] }, true)
      | .host a => if o.late s then none_ c.1 else (askHost c.1 a, false)
      | .peer d =>
        let who := Requester.engine id u
        if o.late s then none_ c.1
        else (if c.1.requests.any fun p => p.2.who = who then c.1 else sendRequest c.1 d who { opc := 1, size := 16, addr := u }, false)
/-- Units read in order; `false` while one is missing. -/
def engineReads (s : State) (id : Nat) (us : List Nat) : State × Bool :=
  us.foldl (fun r u => let x := engineRead r.1 id u; (x.1, r.2 && x.2)) (s, true)
/-- Neighbours that are the same taken once. -/
def squash : List Nat → List Nat
  | x :: y :: t => if x = y then squash (y :: t) else x :: squash (y :: t)
  | t => t
/-- The units of a run of bytes. -/
def unitsOfRange (base n : Nat) : List Nat :=
  if n = 0 then [] else (List.range ((base + n - 1) / 16 - base / 16 + 1)).map fun k => 16 * (base / 16 + k)
/-- The units of a run of local bytes. -/
def localUnitsOf (o n : Nat) : List Nat := (unitsOfRange o n).map localUnit
/-- A byte that an operation has read; none when its unit failed. -/
def Op.byte (o : Op) (u off : Nat) : Option Byte :=
  match o.read? u with
  | some r => if r.status = 0 then some (r.bytes.getD off 0) else none
  | none => none
/-- A byte at a global address. -/
def Op.globalByte (o : Op) (a : Nat) : Option Byte := o.byte (a / 16 * 16) (a % 16)
/-- A byte at a local offset. -/
def Op.localByte (o : Op) (a : Nat) : Option Byte := o.byte (localUnit a) (a % 16)
/-- Local bytes that an operation has read. -/
def Op.localRange (o : Op) (base n : Nat) : List Byte :=
  ((localUnitsOf base n).flatMap fun u => match o.read? u with | some r => r.bytes | none => List.replicate 16 0).drop (base % 16) |>.take n

/-! ## Units that failed (R351) -/

/-- A unit that failed, in the command's order; addresses from 2 ^ 64 on are local. -/
structure FailedUnit where
  status : Nat
  row5   : Bool
  attr   : Nat
  addr   : Nat
  deriving DecidableEq, Repr

/-- The failing units among some that were read. -/
def Op.badReads (o : Op) (us : List Nat) : List FailedUnit :=
  us.filterMap fun u => match o.read? u with
    | some r => if r.status = 0 then none else some { status := r.status, row5 := r.row5, attr := r.attr, addr := u }
    | none => none
/-- The code of a status (R351). -/
def codeOf (st : Nat) (row5 : Bool) : Nat := if st = 13 then 13 else if st = 12 then 8 else if st = 15 then 7 else if row5 then 14 else 6
/-- The record of a command that failed (R350, R351). -/
def opRecord (s : State) (o : Op) (st : Nat) (bad : List FailedUnit) : Record :=
  let u := bad.find? fun b => b.status = greatest (bad.map (·.status))
  let d := u.getD { status := st, row5 := false, attr := 0, addr := 0 }
  let w := get? s.waves o.wave
  { code := codeOf st d.row5, async := true, status := st, tag := o.tag, addr := o.pc
    gang := ((get? s.gangs o.gang).map (·.index)).getD 0, wmf := (w.map fun x => wmfOf x o.fibre).getD 0, lanes := o.lanes, seq := o.seq
    time := s.calends, info := BitVec.ofNat 64 d.addr
    pages := if st = 12 || u.isNone then [] else [{ page := pageOf (d.addr % 2 ^ 64), attr := d.attr }]
    launch := ((get? s.launches o.launch).map (·.desc)).getD 0 }

/-! ## Writes at completion (R102, R394) -/

/-- Bytes of one 16-byte unit to write; none leaves a byte as it is. -/
abbrev UnitBytes := List (Option Byte)
/-- A unit's bytes over its old ones. -/
def mergeBytes (old : List Byte) (bs : UnitBytes) : List Byte :=
  bs.zipIdx.map fun p => p.1.getD (old.getD p.2 0)
/-- A unit written at a global address of this device or the host window; only a whole unit marks poison (R394). -/
def writeUnit (s : State) (a : Nat) (bs : UnitBytes) (who : Nat × Nat × Nat) : State :=
  match placeOf s a with
  | .own o =>
    let d := sectorAt s o
    let base := if d.cell then List.replicate 48 0 else d.bytes
    let d' : DirtySector := { d with
      bytes := overlay base (secOff s o) (mergeBytes (base.drop (secOff s o)) bs), cell := false
      poison := if bs.all Option.isSome then markUnits d.poison (secOff s o) 16 else d.poison, writers := addWriter d.writers who }
    wakeMonitors { stampLine s o with l2 := put s.l2 (secKey s o) d' } a 16
  | .host o => writeHost s o (mergeBytes (readHost s o 16) bs) who
  | _ => s

/-- A byte put into the units collected so far, the latest first: the later of two to one address stays. -/
def addByte (us : List (Nat × UnitBytes)) (a : Nat) (b : Byte) : List (Nat × UnitBytes) :=
  let u := a / 16 * 16
  let new : Nat × UnitBytes := (u, setAt (List.replicate 16 none) (a % 16) (some b))
  match us with
  | [] => [new]
  | x :: t =>
    if x.1 = u then (u, setAt x.2 (a % 16) (some b)) :: t
    else if t.any fun y => y.1 = u then x :: t.map fun y => if y.1 = u then (u, setAt y.2 (a % 16) (some b)) else y
    else new :: us
/-- The units of some bytes, in the order in which they are first touched. -/
def gatherUnits (bs : List (Nat × Byte)) : List (Nat × UnitBytes) := (bs.foldl (fun us x => addByte us x.1 x.2) []).reverse

/-- The bytes of a unit that is written whole. -/
def wholeUnit (us : List (Nat × UnitBytes)) (a : Nat) : Option (List Byte) :=
  (get? us a).bind fun bs => if bs.all Option.isSome then some (bs.map fun b => b.getD 0) else none
/-- The bytes of `n` neighbouring units from an address on that are all written whole. -/
def wholeRun (us : List (Nat × UnitBytes)) (a n : Nat) : Option (List Byte) :=
  ((List.range n).mapM fun k => wholeUnit us (a + 16 * k)).map List.flatten
/-- The largest aligned pieces of a unit that is written in part. -/
def partPieces (u : Nat) (bs : UnitBytes) : List (Nat × List Byte) :=
  let piece (n k : Nat) : Option (Nat × List Byte) := ((bs.drop (n * k)).take n).mapM id |>.map fun b => (u + n * k, b)
  let taken (ps : List (Nat × List Byte)) (p : Nat × List Byte) : Bool := ps.any fun q => decide (q.1 ≤ p.1 ∧ p.1 < q.1 + q.2.length)
  [8, 4, 2, 1].foldl (fun ps n => ps ++ ((List.range (16 / n)).filterMap (piece n)).filter fun p => !(taken ps p)) []
/-- The pieces in which a unit travels to a peer: with its line, with its sector, alone, or in parts. -/
def unitPieces (us : List (Nat × UnitBytes)) (x : Nat × UnitBytes) : List (Nat × List Byte) :=
  match wholeRun us (x.1 / 192 * 192) 12, wholeRun us (x.1 / 48 * 48) 3, wholeRun us x.1 1 with
  | some bs, _, _ => [(x.1 / 192 * 192, bs)]
  | none, some bs, _ => [(x.1 / 48 * 48, bs)]
  | none, none, some bs => [(x.1, bs)]
  | none, none, none => partPieces x.1 x.2
/-- The key of a piece among the answers to an operation's writes. -/
def pieceKey (a n : Nat) : Nat := 256 * a + n
/-- One request of an operation to a peer: its answer, or none while it is out and the operation waits. -/
def askEngine (s : State) (id : Nat) (o : Op) (d key : Nat) (q : Ask) : State × Option Answer :=
  match o.remote.find? fun x => x.key = key with
  | some x => (s, some x)
  | none =>
    let who := Requester.engineWrite id key
    if o.late s then (s, some { key, status := 12 })
    else (if s.requests.any fun p => p.2.who = who then s else sendRequest s d who q, none)

/-- What the units to be written come to. -/
structure Writes where
  state   : State
  pending : Bool := false
  here    : List (Nat × UnitBytes) := []
  bad     : List FailedUnit := []

/-- A failed answer of a peer. -/
def badAnswer (a : Nat) (writes : Bool) (x : Answer) : FailedUnit :=
  { status := x.status, row5 := statusRow x.status x.attr == 5, attr := pattr (statusRow x.status x.attr) (x.attr % 4) false writes, addr := a }

/-- One unit checked, and sent to a peer if it is the peer's (R186). -/
def stageUnit (id : Nat) (o : Op) (us : List (Nat × UnitBytes)) (r : Writes) (x : Nat × UnitBytes) : Writes :=
  let c := check r.state (some o.tag) x.1 rightWrite false true true
  match c.2 with
  | .ok => { r with state := c.1, here := r.here ++ [x] }
  | .fail row level ro =>
    { r with state := c.1, bad := r.bad ++ [{ status := rowStatus row, row5 := row == 5, attr := pattr row level ro true, addr := x.1 }] }
  | .host a =>
    if o.late c.1 then { r with state := c.1, bad := r.bad ++ [{ status := 12, row5 := false, attr := 0, addr := x.1 }] }
    else { r with state := askHost c.1 a, pending := true }
  | .peer d =>
    (unitPieces us x).foldl (fun r p =>
      let y := askEngine r.state id o d (pieceKey p.1 p.2.length) { opc := 2, size := p.2.length, addr := p.1, data := p.2 }
      match y.2 with
      | none => { r with state := y.1, pending := true }
      | some a => if a.status = 0 then { r with state := y.1 } else { r with state := y.1, bad := r.bad ++ [badAnswer x.1 true a] })
      { r with state := c.1 }
/-- Whether a request out to some devices may still be performed there: one for an operation of its own, and those of monitors, whose
answers are kept back, are none. -/
def inTheirWay (id : Nat) (devs : List Nat) (r : Request) : Bool :=
  devs.contains r.dev && r.opc != 6 && r.opc != 7 && (match r.who with | .engineWrite op _ => op != id | _ => true)
/-- An operation whose writes to some devices are one step with each other, or with what it writes here, has the way to itself once no
other has it and no earlier request is out (R102). -/
def takeWay (s : State) (id : Nat) (devs : List Nat) : State × Bool :=
  match get? s.ops id with
  | none => (s, true)
  | some o =>
    if devs.isEmpty || o.begun || o.late s then (s, true)
    else
      let free := !(s.ops.any fun p => p.1 != id && p.2.begun && p.2.held.any devs.contains) && !(s.requests.any fun r => inTheirWay id devs r.2)
      (modOp s id fun o => { o with held := devs, begun := free }, free)
/-- The devices to which an operation needs the way for requests of some keys, `here` saying that it writes here as well; none for a
single request. -/
def wayFor (qs : List (Nat × Nat)) (here : Bool) : List Nat :=
  if here || decide (1 < qs.eraseDups.length) then (qs.map (·.1)).eraseDups else []
/-- The requests in which some units travel to peers: the device and the key. -/
def pieceRequests (s : State) (us : List (Nat × UnitBytes)) : List (Nat × Nat) :=
  us.flatMap fun x => match placeOf s x.1 with
    | .peer d _ => (unitPieces us x).map fun p => (d, pieceKey p.1 p.2.length)
    | _ => []
/-- Whether an address is another device's. -/
def isFar (s : State) (a : Nat) : Bool := match placeOf s a with | .peer .. => true | _ => false
/-- The units of an operation's writes checked in order, before any is made here; those of peers are made meanwhile, and seen by nobody
of this device before the others (R102). -/
def stageWrites (s : State) (id : Nat) (o : Op) (us : List (Nat × UnitBytes)) : Writes :=
  let way := takeWay s id (wayFor (pieceRequests s us) (us.any fun u => !(isFar s u.1)))
  if way.2 then us.foldl (stageUnit id o us) { state := way.1 } else { state := way.1, pending := true }
/-- Who writes, for an operation. -/
def Op.writer (o : Op) : Nat × Nat × Nat := (o.launch, o.wave, o.fibre)
/-- The staged writes that are this device's, made as one step (R102). -/
def commitWrites (o : Op) (r : Writes) : State := r.here.foldl (fun s x => writeUnit s x.1 x.2 o.writer) r.state

/-! ## Stray operands and the aperture (R62, R63) -/

/-- The first stray offset of some local runs, in their order. -/
def firstStray (h : Header) (rs : List (Nat × Nat)) : Option Nat :=
  rs.findSome? fun r => ((List.range r.2).map fun i => (r.1 + i) % 2 ^ 32).find? (isStray h)
/-- The failing unit of a command that names an offset in the aperture, and so makes no access (R63, R351). -/
def apertureBad (a : Nat) : FailedUnit := { status := 14, row5 := false, attr := 0, addr := a }
/-- The first offset of some local runs that lies in the aperture. -/
def firstAperture (rs : List (Nat × Nat)) : Option Nat :=
  rs.findSome? fun r => ((List.range r.2).map fun i => (r.1 + i) % 2 ^ 32).find? isAperture
/-- A command that touched stray bytes counts once (R62, R201). -/
def noteOpStray (s : State) (o : Op) (first : Option Nat) : State :=
  match first with
  | some a => noteStray s o.gang o.wave 1 a
  | none => s

/-! ## Completion (R103, R106, R109) -/

/-- Whether an operation is the oldest of its fibre and class (R106). -/
def oldestOfClass (s : State) (id : Nat) (o : Op) : Bool :=
  !(s.ops.any fun p => decide (p.1 < id) && p.2.wave == o.wave && p.2.fibre == o.fibre && p.2.cls == o.cls)
/-- Where an operation's record is held when it cannot be posted (R352). -/
def Op.origin (o : Op) : Origin :=
  match o.cls with
  | 0 => .core o.cluster o.core
  | 3 => .coe
  | _ => .clusterUnit o.cluster
/-- Poison that an operation has met is logged, that of the unified store with its cluster's number (R385, R393). -/
def logFailed (o : Op) (s : State) (b : FailedUnit) : State :=
  if b.status != 15 then s
  else if 2 ^ 64 ≤ b.addr then s.log 4 o.cluster (some o.tag) (BitVec.ofNat 64 b.addr)
  else logPoison s (some o.tag) b.addr
/-- A completion event at a barrier object. One that holds poison is left as it is, and the poison logged: the spec does not say what
the event, which no strand makes, does there (R392, R393, DESIGN CHOICE, log 63). Nor does it say whether such an event at a stray
offset is counted, which R62 says of strands' accesses and R201 of the command's as a whole: it is not (DESIGN CHOICE, log 32). -/
def opEvent (s : State) (o : Op) (b : Nat) (e : BarrierEvent) : State :=
  let here := match localByte (o.header s) (b % 2 ^ 32) with | .mem q => (awayLocal s o.gang (o.header s) q).isNone | _ => false
  if here && localPoison s o.gang (o.header s) b 16 then s.log 4 o.cluster (some o.tag) (BitVec.ofNat 64 b)
  else barrierEvent s o.gang (o.header s) b e
/-- An operation completes with a status: its barrier event, its counter, its record, and perhaps its gang's retirement. An
operation of an ended context posts nothing (R46). -/
def finishOp (s : State) (id : Nat) (o : Op) (st : Nat) (bad : List FailedUnit) (ev : Nat → BarrierEvent) (post : Bool := true) : State :=
  let s1 := patchCount (bumpCount { s with ops := del s.ops id } o.wave o.fibre o.cls (· - 1)) o.wave o.fibre o.cls
  let s2 := match o.bar with | some b => opEvent s1 o b.toNat (ev st) | none => s1
  let s3 := if post && decide (12 ≤ st) && decide (o.tag < 64) then postRecord s2 o.origin (opRecord s2 o st bad) else s2
  retire (bad.foldl (logFailed o) s3) o.gang
/-- The greatest status of an operation and its units (R94). -/
def Op.worst (o : Op) (bad : List FailedUnit) : Nat := max o.status (greatest (bad.map (·.status)))

end Sys2Proof.Machine
end

