-- ==== Sys2Proof/Machine/Copy.lean ====
section
/-! DEFINITION. Tensor copies (R197 to R201) and their completion; reading one unit for an operation (R102). -/

namespace Sys2Proof.Machine

/-! ## The descriptor (R198, R199) -/

/-- A copy's descriptor: its strided base, element size, dimensions, counts, strides, layout and dense base. -/
structure CopyDesc where
  form  : Nat                  -- 0 global to local, 1 local to global, 2 local to local
  base  : Quad
  esz   : Nat
  dims  : Nat                  -- dimension count minus 1
  tile  : Bool
  n     : List Nat
  st    : List Int
  dense : Word
  deriving DecidableEq, Repr

/-- The count of a dimension, 1 beyond those used. -/
def CopyDesc.count (c : CopyDesc) (k : Nat) : Nat := c.n.getD k 1
/-- Elements moved (R199). -/
def CopyDesc.total (c : CopyDesc) : Nat := c.n.foldl (· * ·) 1
/-- Bytes moved. -/
def CopyDesc.bytes (c : CopyDesc) : Nat := c.esz * c.total
/-- The indices of the `j`-th element in dense order (R199). -/
def CopyDesc.indices (c : CopyDesc) (j : Nat) : List Nat :=
  let n0 := c.count 0
  let n1 := c.count 1
  let per := n0 * n1
  let m := j / per
  let r := j % per
  let rest := [m % c.count 2, m / c.count 2 % c.count 3, m / (c.count 2 * c.count 3)]
  if c.tile then
    let t := r / 1024
    let q := r % 1024
    (t % (n0 / 32) * 32 + q % 32) :: (t / (n0 / 32) * 32 + q / 32) :: rest
  else (r % n0) :: (r / n0) :: rest
/-- The strided place of the `j`-th element: an address, or a local offset for `.ll` (R199). -/
def CopyDesc.strided (c : CopyDesc) (j : Nat) : Nat :=
  let i := c.indices j
  let x : Int := c.base.toNat + i.getD 0 0 * c.esz
    + ((List.range c.dims).map fun k => (i.getD (k + 1) 0 : Int) * c.st.getD k 0).foldl (· + ·) 0
  wrap (if c.form = 2 then 32 else 64) x
/-- The dense place of the `j`-th element. -/
def CopyDesc.densePlace (c : CopyDesc) (j : Nat) : Nat := (c.dense.toNat + j * c.esz) % 2 ^ 32

/-- Whether a descriptor is valid (R200). -/
def CopyDesc.ok (c : CopyDesc) : Bool :=
  c.n.all (· != 0) && decide (c.bytes ≤ 2097152) && c.base.toNat % c.esz == 0 && (c.st.all fun x => x % c.esz == 0)
    && c.dense.toNat % 16 == 0
    && (!c.tile || (c.dims != 0 && c.count 0 % 32 == 0 && c.count 1 % 32 == 0 && c.esz != 8 && c.esz != 16))
/-- The descriptor that `s` registers hold; none when CTL is invalid (R198, R200). -/
def readCopyDesc (h : Here) (form : Nat) (o : Asy) : Option CopyDesc :=
  let a := o.sa.toNat
  let ctl := (h.sreg (a + 2)).toNat
  let dims := bitsOf ctl 5 3
  if decide (4 < ctl % 8) || decide (4 < dims) || decide (1 < bitsOf ctl 7 6) || decide (256 ≤ ctl) then none
  else
    some { form, base := if form = 2 then (h.sreg a).setWidth 64 else h.spair a, esz := 2 ^ (ctl % 8), dims, tile := bitsOf ctl 7 6 == 1
           n := (List.range (dims + 1)).map fun k => (h.sreg (a + 3 + k)).toNat
           st := (List.range dims).map fun k => (h.sreg (a + 8 + k)).toInt
           dense := h.sreg o.sc.toNat }

/-! ## Places in dense order -/

/-- The source and destination places of the elements, in dense order. -/
def CopyDesc.moves (c : CopyDesc) : List (Nat × Nat) :=
  (List.range c.total).map fun j => if c.form = 1 then (c.densePlace j, c.strided j) else (c.strided j, c.densePlace j)
/-- Whether the source and the destination are local. -/
def CopyDesc.srcLocal (c : CopyDesc) : Bool := c.form != 0
def CopyDesc.dstLocal (c : CopyDesc) : Bool := c.form != 1
/-- The local runs of a copy in dense order: at one element the lower offset first (R201). -/
def CopyDesc.localRuns (c : CopyDesc) : List (Nat × Nat) :=
  c.moves.flatMap fun m =>
    if c.form = 2 then [(min m.1 m.2, c.esz), (max m.1 m.2, c.esz)] else [(if c.form = 1 then m.1 else m.2, c.esz)]
/-- The units of the source in dense order. -/
def CopyDesc.sourceUnits (c : CopyDesc) : List Nat :=
  squash (c.moves.map fun m => if c.srcLocal then localUnit m.1 else m.1 / 16 * 16)

/-! ## Issue (R197, R200, R201) -/

/-- The copy operation of a descriptor. -/
def CopyDesc.kind (c : CopyDesc) : OpKind := .copy c.form c.base c.esz c.dims c.tile c.n c.st c.dense
/-- The descriptor of a copy operation. -/
def OpKind.copyDesc : OpKind → Option CopyDesc
  | .copy form base esz dims tile n st dense => some { form, base, esz, dims, tile, n, st, dense }
  | _ => none

/-- A copy that touches the aperture makes no access and completes with FAULT (R63). -/
def apertureStatus (rs : List (Nat × Nat)) : Nat := if (firstAperture rs).isSome then 14 else 0

/-- A copy of one form. With an invalid descriptor and a misaligned barrier offset it traps for the descriptor: R200 gives no order of the
two (DESIGN CHOICE, log 66). -/
def copyForm (form : Nat) (o : Asy) (s : State) : Outcome :=
  perform s fun h => do
    orIllegal (!h.i.sup && o.sa.toNat % 4 == 0 && decide (o.sa.toNat ≤ 52))
    notInScout h
    match readCopyDesc h form o with
    | none => .error (.trap 4 0)
    | some c =>
      orTrap c.ok 4 0
      let bar ← barrierOperand (h.sreg o.sb.toNat).toNat
      startOp h s c.kind 0 bar (apertureStatus c.localRuns)

/-- R201 -/
def execTcopyGl (o : Asy) (s : State) : Outcome := copyForm 0 o s
/-- R201 -/
def execTcopyLg (o : Asy) (s : State) : Outcome := copyForm 1 o s
/-- R201 -/
def execTcopyLl (o : Asy) (s : State) : Outcome := copyForm 2 o s

/-! ## Completion (R201) -/

/-- The bytes that a copy moves, with their destinations, in dense order; bytes of failed units are left out. -/
def copyBytes (o : Op) (c : CopyDesc) : List (Nat × Byte) :=
  c.moves.flatMap fun m =>
    (List.range c.esz).filterMap fun i =>
      (if c.srcLocal then o.localByte (m.1 + i) else o.globalByte (m.1 + i)).map fun b => (m.2 + i, b)
/-- Bytes written to local memory, the later of two to one place staying. -/
def writeLocalBytes (s : State) (g : Nat) (h : Header) (bs : List (Nat × Byte)) : State :=
  modGang s g fun x => { x with
    mem := bs.foldl (fun m p => putLocalByte h m p.1 p.2) x.mem
    badMem := unpoisoned x.badMem (bs.flatMap fun p => localPlaces h p.1 1) }

/-- The failing units of a copy in dense order, what is read for an element before what is written (R351). -/
def CopyDesc.badUnits (c : CopyDesc) (o : Op) (written : List FailedUnit) : List FailedUnit :=
  (c.moves.flatMap fun m =>
    o.badReads [if c.srcLocal then localUnit m.1 else m.1 / 16 * 16] ++ written.filter fun b => b.addr == m.2 / 16 * 16).eraseDups
/-- A copy completes: all its writes at once, then its byte count on its barrier object (R201). -/
def completeCopy (s : State) (id : Nat) : State :=
  match get? s.ops id with
  | none => s
  | some o =>
    match o.kind.copyDesc with
    | none => s
    | some c =>
      if !(oldestOfClass s id o) then s
      else
        let h := o.header s
        let done (s : State) (bad : List FailedUnit) : State := finishOp s id o (o.worst bad) bad fun st => .copied c.bytes st
        match firstAperture c.localRuns with
        | some a => done s [apertureBad a]
        | none =>
          let r := engineReads s id c.sourceUnits
          let o1 := (get? r.1.ops id).getD o
          if !r.2 then r.1
          else
            let bs := copyBytes o1 c
            if c.dstLocal then
              done (writeLocalBytes (noteOpStray r.1 o1 (firstStray h c.localRuns)) o.gang h bs) (c.badUnits o1 [])
            else
              let w := stageWrites r.1 id o1 (gatherUnits bs)
              if w.pending then w.state
              else done (commitWrites o1 { w with state := noteOpStray w.state o1 (firstStray h c.localRuns) }) (c.badUnits o1 w.bad)

/-- R201 -/
def execCopyCompletion (op : Nat) (s : State) : Outcome := event (completeCopy s op)

end Sys2Proof.Machine
end

