-- ==== Sys2Proof/Machine/Lists.lean ====
section
/-! DEFINITION. Fragment lists (R229 to R232, R256, R257): reading a list, and its four operations as one indivisible access
each, in local memory (tile mode) or global memory (immediate mode). -/

namespace Sys2Proof.Machine

/-! ## The list context (R229) -/

/-- A list context. -/
structure ListCtx where
  imm    : Bool                -- immediate mode: global addresses, else local offsets
  head   : Nat
  pool   : Nat
  budget : Nat
  pitch  : Nat
  deriving DecidableEq, Repr

/-- The context that five words hold; none when CTL is invalid (R229, R242). -/
def listCtx (ws : List Word) : Option ListCtx :=
  let w (k : Nat) : Nat := (ws.getD k 0).toNat
  let ctl := w 4
  if bitsOf ctl 15 5 != 0 || bitsOf ctl 31 16 == 0 then none
  else
    let imm := bitOf ctl 0
    some { imm, head := w 0 + (if imm then 2 ^ 32 * w 1 else 0), pool := w 2 + (if imm then 2 ^ 32 * w 3 else 0)
           budget := bitsOf ctl 4 1 + 1, pitch := bitsOf ctl 31 16 }
/-- An address or offset of the context's space. -/
def ListCtx.wrap (c : ListCtx) (a : Nat) : Nat := a % (if c.imm then 2 ^ 64 else 2 ^ 32)
/-- The head entry of a pixel (R229, R230). -/
def ListCtx.entry (c : ListCtx) (pixel : Nat) : Nat := c.wrap (c.head + 4 * (bitsOf pixel 31 16 * c.pitch + pixel % 2 ^ 16))

/-- A fragment (R230). -/
structure Fragment where
  payload : Nat
  depth   : Nat
  order   : Nat
  deriving DecidableEq, Repr
/-- The four registers of a returned fragment. -/
def Fragment.words (f : Fragment) : List Word :=
  [BitVec.ofNat 32 f.payload, BitVec.ofNat 32 (f.payload / 2 ^ 32), BitVec.ofNat 32 f.depth, BitVec.ofNat 32 f.order]
/-- A DEPTH in its order: NaN counts as +Inf, the zeros are equal (R229). -/
def depthKey (x : Nat) : Int :=
  let m : Nat := x % 2 ^ 31
  if 0x7F800000 < m then 0x7F800000 else if bitOf x 31 then -(m : Int) else m
/-- Whether a node lies after a new fragment in list order; an equal one does not (R229). -/
def Fragment.after (x f : Fragment) : Bool :=
  decide (depthKey f.depth < depthKey x.depth) || (depthKey f.depth == depthKey x.depth && decide (f.order < x.order))

/-! ## Accesses of a list operation -/

/-- For whom an operation is performed. -/
structure ListEnv where
  tag  : Option Nat            -- the context whose rights are checked; none for a peer's, which its core has checked
  gang : Nat
  hdr  : Header
  who  : Nat × Nat × Nat
  engine : Bool := false       -- a command's append, which may not reach the aperture (R63)
  far : Option (Nat → Option Answer) := none   -- of an operation that is only tried, on a peer's list: what the peer has answered

/-- Why an operation does not go on: a broken list, an access that the aperture does not take, or one that fails; in tile mode
only poison fails (R230, R392). One that is tried on a peer's list may have to ask first, whether as a write. -/
inductive ListStop where
  | broken (stray : Option Nat)
  | trap (off : Nat)
  | fail (addr row level : Nat) (readOnly : Bool)
  | ask (addr : Nat) (write : Bool)

/-- An operation in progress: the state it has left so far, its first stray offset, and what it would have written at a peer. -/
structure ListRun where
  s     : State
  stray : Option Nat := none
  shown : List (Nat × Byte) := []

/-- The owner of an address: list structures lie in the space of the head table (R229). -/
def ownerOf (s : State) (a : Nat) : Option Nat :=
  match placeOf s a with
  | .own _ => some s.devId.toNat
  | .peer d _ => some d
  | .host _ => some 127
  | .bad => none
/-- The key of a peer's answer to a 16-byte unit of a list, read or checked as a write. -/
def farKey (a : Nat) (w : Bool) : Nat := 2 ^ 76 + 2 ^ 70 * bit w + a / 16 * 16
/-- The request that has that answer: SUB bit 1 of a READ asks for the check of a write (log 25). -/
def farAsk (a : Nat) (w : Bool) : Ask := { opc := 1, size := 16, addr := a / 16 * 16, sub := 2 * bit w }
/-- A peer's unit of a list, from its answers. -/
def farUnit (ans : Nat → Option Answer) (a : Nat) (w : Bool) : Except ListStop (List Byte) :=
  match ans (farKey a w) with
  | none => .error (.ask a w)
  | some x => if x.status = 0 then .ok x.value else .error (.fail a (statusRow x.status x.attr) (x.attr % 4) false)
/-- One checked byte of a global access, as of an atomic (R186, R230, R343); immediate lists lie in device memory (R255). -/
def listCheckAt (e : ListEnv) (s : State) (a : Nat) (w : Bool) : Except ListStop State :=
  let c := check s e.tag a rightAtomic true w false
  match c.2, e.far with
  | .ok, _ => .ok c.1
  | .fail row level ro, _ => .error (.fail a row level ro)
  | .peer _, some ans => (farUnit ans a w).map fun _ => c.1
  | _, _ => .error (.fail a 2 0 false)
/-- Bytes of a list, those of a peer from its answers and from what would have been written there. -/
def listBytes (e : ListEnv) (c : ListCtx) (r : ListRun) (a n : Nat) : Except ListStop (List Byte) :=
  match e.far with
  | none => .ok ((List.range n).flatMap fun i => readGlobal r.s (c.wrap (a + i)) 1)
  | some ans => (List.range n).mapM fun i =>
    match get? r.shown (c.wrap (a + i)) with
    | some b => .ok b
    | none => (farUnit ans (c.wrap (a + i)) false).map fun bs => bs.getD (c.wrap (a + i) % 16) 0
/-- An access of `n` bytes checked. -/
def listCheck (e : ListEnv) (c : ListCtx) (s : State) (a n : Nat) (w : Bool) : Except ListStop State :=
  if ownerOf s a != ownerOf s c.head then .error (.fail a 2 0 false)
  else do
    let s1 ← listCheckAt e s a w
    if 16 < a % 16 + n then listCheckAt e s1 (c.wrap (a + n - 1)) w else .ok s1
/-- A local access of the register aperture must be aligned as R63 says; a command may have no byte there. -/
def listAligned (e : ListEnv) (a n : Nat) : Except ListStop PUnit :=
  if e.engine && ((List.range n).any fun i => isAperture (a + i)) then .error (.trap a)
  else if isAperture a && (a % 4 != 0 || (n == 8 && a / 4 % 2 == 1)) then .error (.trap a)
  else .ok ⟨⟩
/-- A read of 4 or 8 bytes. Of several stray offsets that one operation meets in tile mode, the first in the order of these accesses is
the one that `scratch.straylast` names: R62 does not say which (DESIGN CHOICE, log 32). -/
def listRead (e : ListEnv) (c : ListCtx) (r : ListRun) (addr n : Nat) : Except ListStop (ListRun × Nat) :=
  let a := c.wrap addr
  if c.imm then do
    let s1 ← listCheck e c r.s a n false
    let bs ← listBytes e c { r with s := s1 } a n
    .ok ({ r with s := s1 }, ofBytes bs)
  else do
    listAligned e a n
    if localPoison r.s e.gang e.hdr a n then .error (.fail a 6 0 false)
    let x := localLoad r.s e.gang e.hdr a n
    .ok ({ r with stray := if x.2 && r.stray.isNone then some a else r.stray }, x.1)
/-- A write of 4 or 8 bytes, or of a node's 16. -/
def listWrite (e : ListEnv) (c : ListCtx) (r : ListRun) (addr n v : Nat) : Except ListStop ListRun :=
  let a := c.wrap addr
  if c.imm then do
    let s1 ← listCheck e c r.s a n true
    .ok (if e.far.isSome then { r with s := s1, shown := (toBytes n v).zipIdx.foldl (fun t b => put t (c.wrap (a + b.2)) b.1) r.shown }
      else { r with s := writeGlobal s1 a (toBytes n v) e.who })
  else do
    listAligned e a n
    let x := localStore r.s e.gang e.hdr a n v
    .ok { r with s := x.1, stray := if x.2 && r.stray.isNone then some a else r.stray }

/-! ## Nodes (R229, R257) -/

/-- A node as read: its place, its fragment and NEXT. -/
structure Node where
  index : Nat
  addr  : Nat
  frag  : Fragment
  next  : Nat
  deriving DecidableEq, Repr

/-- The end mark of NEXT. -/
def listEnd : Nat := 0xFFFFF
/-- The pool as its descriptor gives it. -/
structure Pool where
  pages : Nat
  dir   : Nat

/-- The place of a node; an index beyond the pool breaks the list (R256, R257). -/
def nodeAddr (e : ListEnv) (c : ListCtx) (p : Pool) (r : ListRun) (n : Nat) : Except ListStop (ListRun × Nat) :=
  if 256 * p.pages ≤ n then .error (.broken r.stray)
  else do
    let x ← listRead e c r (p.dir + 8 * (n / 256)) 8
    .ok (x.1, c.wrap x.2 / 16 * 16 + 16 * (n % 256))
/-- A node's bytes written. The spec does not say in which accesses a tile-mode operation reaches the register aperture: it
makes accesses of 4 and 8 bytes, a node as 8 + 4 + 4, none of which traps for its size (R63, R230, DESIGN CHOICE, log 37). -/
def putNode (e : ListEnv) (c : ListCtx) (r : ListRun) (a : Nat) (f : Fragment) (next : Nat) : Except ListStop ListRun := do
  let link := next + 2 ^ 20 * f.order
  if c.imm then listWrite e c r a 16 (f.payload + 2 ^ 64 * f.depth + 2 ^ 96 * link)
  else
    let r1 ← listWrite e c r a 8 f.payload
    let r2 ← listWrite e c r1 (a + 8) 4 f.depth
    listWrite e c r2 (a + 12) 4 link
/-- The pool descriptor read. -/
def readPool (e : ListEnv) (c : ListCtx) (r : ListRun) : Except ListStop (ListRun × Pool) := do
  let x ← listRead e c r (c.pool + 4) 4
  let y ← listRead e c x.1 (c.pool + 8) 8
  .ok (y.1, { pages := x.2, dir := c.wrap y.2 })
/-- The nodes of a list, from HEAD for COUNT nodes (R256). -/
def readNodes (e : ListEnv) (c : ListCtx) (p : Pool) : Nat → Nat → ListRun → List Node → Except ListStop (ListRun × List Node)
  | 0, _, r, acc => .ok (r, acc.reverse)
  | k + 1, n, r, acc =>
    if n = listEnd then .error (.broken r.stray)
    else do
      let a ← nodeAddr e c p r n
      let x ← listRead e c a.1 a.2 8
      let y ← listRead e c x.1 (a.2 + 8) 4
      let z ← listRead e c y.1 (a.2 + 12) 4
      let node : Node := { index := n, addr := a.2, frag := { payload := x.2, depth := y.2, order := z.2 / 2 ^ 20 }, next := z.2 % 2 ^ 20 }
      let broken := match acc with | prev :: _ => decide (depthKey node.frag.depth < depthKey prev.frag.depth) | [] => false
      if broken then .error (.broken z.1.stray) else readNodes e c p k node.next z.1 (node :: acc)

/-! ## The operations (R230 to R232) -/

/-- What an operation answers: status, fragments returned, COUNT and PEND after it (R230). -/
structure ListAnswer where
  status : Nat
  frags  : List Fragment := []
  count  : Nat
  pend   : Bool
  deriving DecidableEq, Repr
/-- The status word (R230). -/
def ListAnswer.word (x : ListAnswer) (returned : Nat) : Word :=
  BitVec.ofNat 32 (x.status + 2 ^ 8 * returned + 2 ^ 20 * (x.count % 32) + 2 ^ 25 * bit x.pend)

/-- A head entry's fields. -/
def headCount (h : Nat) : Nat := bitsOf h 24 20
def headPend (h : Nat) : Bool := bitOf h 25

/-- The fragments of a list with a new one at its place (R231). -/
def insertFragment (ns : List Node) (f : Fragment) : List Fragment :=
  (ns.map (·.frag)).takeWhile (fun x => !(x.after f)) ++ f :: (ns.map (·.frag)).dropWhile (fun x => !(x.after f))
/-- A new node taken from the pool and linked at the fragment's place (R231). -/
def linkNode (e : ListEnv) (c : ListCtx) (p : Pool) (r : ListRun) (at_ h : Nat) (ns : List Node) (free : Nat) (f : Fragment) :
    Except ListStop ListRun := do
  let before := ns.takeWhile fun x => !(x.frag.after f)
  let next := match ns.dropWhile fun x => !(x.frag.after f) with | x :: _ => x.index | [] => listEnd
  let r1 ← listWrite e c r c.pool 4 (free + 1)
  let a ← nodeAddr e c p r1 free
  let r2 ← putNode e c a.1 a.2 f next
  match before.getLast? with
  | some x =>
    let r3 ← listWrite e c r2 (x.addr + 12) 4 (free + 2 ^ 20 * x.frag.order)
    listWrite e c r3 at_ 4 (h + 2 ^ 20)
  | none => listWrite e c r2 at_ 4 (h / 2 ^ 20 * 2 ^ 20 + free + 2 ^ 20)
/-- The nodes of a list take new fragments, their links unchanged. -/
def refill (e : ListEnv) (c : ListCtx) : ListRun → List (Node × Fragment) → Except ListStop ListRun
  | r, [] => .ok r
  | r, (n, f) :: t => do
    let r1 ← putNode e c r n.addr f n.next
    refill e c r1 t

/-- `flins` (R231). -/
def listInsert (e : ListEnv) (c : ListCtx) (r0 : ListRun) (pixel : Nat) (f : Fragment) : Except ListStop (ListRun × ListAnswer) := do
  let at_ := c.entry pixel
  let x ← listRead e c r0 at_ 4
  let h := x.2
  let count := headCount h
  if headPend h then
    .ok (x.1, { status := if count = 0 then 14 else 4, count, pend := true })
  else
    let y ← readPool e c x.1
    let z ← readNodes e c y.2 count (h % 2 ^ 20) y.1 []
    let w ← listRead e c z.1 c.pool 4
    if count < c.budget && decide (w.2 < 256 * y.2.pages) then
      let r ← linkNode e c y.2 w.1 at_ h z.2 w.2 f
      .ok (r, { status := 0, count := count + 1, pend := false })
    else if count = 0 then .ok (w.1, { status := 8, frags := [f], count := 0, pend := false })
    else
      let sq := insertFragment z.2 f
      let t1 := sq.getD (count - 1) f
      let r1 ← refill e c w.1 (z.2.zip (sq.take (count - 1) ++ [t1]))
      let r2 ← listWrite e c r1 at_ 4 (h + 2 ^ 25)
      .ok (r2, { status := if count = c.budget then 7 else 8, frags := [t1, sq.getD count f], count, pend := true })
/-- The append of a trace (R234): as `flins` where that inserts; otherwise the list is left unchanged, and nothing returned. -/
def listAppend (e : ListEnv) (c : ListCtx) (r0 : ListRun) (pixel : Nat) (f : Fragment) : Except ListStop (ListRun × ListAnswer) := do
  let x ← listInsert e c r0 pixel f
  if x.2.status = 0 then .ok x
  else .ok ({ r0 with stray := x.1.stray }, { x.2 with frags := [], pend := x.2.pend && x.2.frags.isEmpty })
/-- `flrep` (R232): a list whose head names a pending tail that does not exist is broken (R256). -/
def listReplace (e : ListEnv) (c : ListCtx) (r0 : ListRun) (pixel : Nat) (f : Fragment) : Except ListStop (ListRun × ListAnswer) := do
  let at_ := c.entry pixel
  let x ← listRead e c r0 at_ 4
  let h := x.2
  let count := headCount h
  if !(headPend h) || count = 0 then .ok (x.1, { status := 14, count, pend := headPend h })
  else
    let y ← readPool e c x.1
    let z ← readNodes e c y.2 count (h % 2 ^ 20) y.1 []
    match z.2.reverse with
    | [] => .error (.broken z.1.stray)
    | tail :: rest =>
      let depth := match rest with
        | p :: _ => if depthKey f.depth < depthKey p.frag.depth then p.frag.depth else f.depth
        | [] => f.depth
      let r1 ← putNode e c z.1 tail.addr { f with depth } tail.next
      let r2 ← listWrite e c r1 at_ 4 (h - 2 ^ 25)
      .ok (r2, { status := 0, count, pend := false })
/-- `flget` (R232). -/
def listGet (e : ListEnv) (c : ListCtx) (r0 : ListRun) (pixel k : Nat) : Except ListStop (ListRun × ListAnswer) := do
  let x ← listRead e c r0 (c.entry pixel) 4
  let h := x.2
  let count := headCount h
  if headPend h && count == 0 then .ok (x.1, { status := 14, count, pend := true })
  else
    let y ← readPool e c x.1
    let z ← readNodes e c y.2 count (h % 2 ^ 20) y.1 []
    .ok (z.1, { status := 0, frags := ((z.2[k]?).map (·.frag)).toList, count, pend := headPend h })
/-- `flclr` (R232). -/
def listClear (e : ListEnv) (c : ListCtx) (r0 : ListRun) (pixel : Nat) : Except ListStop (ListRun × ListAnswer) := do
  let r ← listWrite e c r0 (c.entry pixel) 4 0
  .ok (r, { status := 0, count := 0, pend := false })

/-- An operation by its FN (R230), whose operands are the words of its A block; 5, the FN of `trace`, is its append. -/
def listOp (e : ListEnv) (c : ListCtx) (fn : Nat) (r : ListRun) (ws : List Word) : Except ListStop (ListRun × ListAnswer) :=
  let w (k : Nat) : Nat := (ws.getD k 0).toNat
  let f : Fragment := { payload := w 3 + 2 ^ 32 * w 4, depth := w 1, order := w 2 % 2 ^ 12 }
  match fn with
  | 1 => listInsert e c r (w 0) f
  | 2 => listReplace e c r (w 0) f
  | 3 => listGet e c r (w 0) (w 1)
  | 5 => listAppend e c r (w 0) f
  | _ => listClear e c r (w 0)
/-- COUNT and PEND of a pixel whose list is broken, for the status word. -/
def brokenAnswer (e : ListEnv) (c : ListCtx) (r0 : ListRun) (pixel : Nat) : ListAnswer :=
  match listRead e c r0 (c.entry pixel) 4 with
  | .ok x => { status := 14, count := headCount x.2, pend := headPend x.2 }
  | .error _ => { status := 14, count := 0, pend := false }
/-- An operation, whole or not at all: a broken list answers FAULT and stays as it is (R256). -/
def listTry (e : ListEnv) (c : ListCtx) (fn : Nat) (r0 : ListRun) (ws : List Word) : Except ListStop (ListRun × ListAnswer) :=
  match listOp e c fn { r0 with stray := none } ws with
  | .error (.broken stray) => .ok ({ r0 with stray }, brokenAnswer e c r0 (ws.getD 0 0).toNat)
  | r => r
/-- An operation performed in a state. -/
def listPerform (e : ListEnv) (c : ListCtx) (fn : Nat) (s : State) (ws : List Word) : Except ListStop (ListRun × ListAnswer) :=
  listTry e c fn { s := s } ws
/-- The registers that an operation writes from D on: the status word, then the fragments (R230); `flget` beyond the last
node writes four zeros (R232). -/
def listWords (fn : Nat) (x : ListAnswer) : List Word :=
  let fs := x.frags.flatMap Fragment.words
  x.word x.frags.length :: (if fn = 3 && x.status = 0 && x.frags.isEmpty then [0, 0, 0, 0] else fs)

end Sys2Proof.Machine
end

