-- ==== Sys2Proof/Machine/Procession.lean ====
section
/-! DEFINITION. The procession of a gang (R225 to R228, R262, R263): participants, floors, and who is admitted. -/

namespace Sys2Proof.Machine

/-- A participant: its wave, lane and entry (R225). -/
structure Participant where
  wave  : Nat
  lane  : Nat
  entry : ProcEntry
  deriving DecidableEq, Repr

/-- The strands of a fibre that have exited; those that a scout run has only marked exited are live (R38, R265). -/
def Fibre.gone (f : Fibre) : Lanes := match f.scout with | some c => c.cp.exited | none => f.exited
/-- The participants of the procession to which fibre `k` of a wave belongs: the live strands of its gang in members of the
same stage and in fibres of the same index (R225). -/
def participants (s : State) (w k : Nat) : List Participant :=
  match get? s.waves w with
  | none => []
  | some x =>
    let h := headerOf s x.gang
    let stage (m : Nat) : Nat := h.stages.getD m 0
    (s.waves.filter fun p => p.2.gang == x.gang && stage p.2.member == stage x.member).flatMap fun p =>
      match p.2.fibres[k]? with
      | none => []
      | some f => (lanesIn (~~~f.gone)).map fun i => { wave := p.1, lane := i, entry := f.procAt i }

/-- Whether a floor admits an order (R225). -/
def ProcEntry.admits (e : ProcEntry) (o : Nat) : Bool :=
  match e.floor with
  | none => true
  | some n => decide (o ≤ n)
/-- The three conditions of R226 for a registered strand, against the other participants. -/
def admitted (others : List Participant) (e : ProcEntry) : Bool :=
  others.all fun p =>
    !(p.entry.inside && p.entry.key == e.key)
    && !(p.entry.registered && p.entry.key == e.key && p.entry.order == e.order && decide (p.entry.stamp < e.stamp))
    && p.entry.admits e.order
/-- An entry of a fibre's lane written. -/
def putProc (s : State) (w k i : Nat) (e : ProcEntry) : State := modFibre s w k fun f => { f with proc := put f.proc i e }
/-- Whether a strand is registered and can be admitted. -/
def canAdmit (s : State) (w k i : Nat) : Bool :=
  let e := (fibreAt s w k).procAt i
  e.registered && admitted ((participants s w k).filter fun p => !(p.wave == w && p.lane == i)) e
/-- One strand is inside if it can be admitted. -/
def admitLane (s : State) (w k i : Nat) : State :=
  if canAdmit s w k i then putProc s w k i { (fibreAt s w k).procAt i with registered := false, inside := true } else s
/-- The strands of a group admitted as far as they can be, in lane order (R226, R263). -/
def admitGroup (s : State) (w k : Nat) (lanes : Lanes) : State := (lanesIn lanes).foldl (fun s i => admitLane s w k i) s
/-- Whether every strand of a group is inside. -/
def groupInside (s : State) (w k : Nat) (lanes : Lanes) : Bool :=
  (lanesIn lanes).all fun i => ((fibreAt s w k).procAt i).inside

/-- Whether a strand may register an order: it holds nothing, and the order is not below its floor (R226). -/
def ProcEntry.mayRegister (e : ProcEntry) (o : Nat) : Bool :=
  !e.registered && !e.inside && (match e.floor with | none => false | some n => decide (n ≤ o))
/-- A strand registers (R225). -/
def registerLane (s : State) (w k i : Nat) (key : Word) (o : Nat) : State :=
  let t := s.takeUid
  putProc t.1 w k i { key, order := o, floor := some o, registered := true, inside := false, stamp := t.2 }
/-- A strand leaves the section it is inside (R225, R227). -/
def leaveLane (s : State) (w k i : Nat) : State :=
  let e := (fibreAt s w k).procAt i
  if e.inside then putProc s w k i { e with inside := false, floor := some (e.order + 1) } else s
/-- Every registration and section of a group withdrawn; its floors stay (R226). -/
def withdrawGroup (s : State) (w k : Nat) (lanes : Lanes) : State :=
  modFibre s w k fun f => { f with proc := f.proc.map fun p =>
    (p.1, if lanes.getLsbD p.1 then { p.2 with registered := false, inside := false } else p.2) }

end Sys2Proof.Machine
end

