-- ==== Sys2Proof/Machine/Waits.lean ====
section
/-! DEFINITION. Waits (R31 to R36, R106 to R115, R119, R205 to R214): how one begins, when its condition holds, what its deadline
and its Ides point do, and the waiting instructions of opcode 0x39. -/

namespace Sys2Proof.Machine

/-! ## Monitors (R113) -/

/-- Entries of a slice's monitor table in use. -/
def tableUsed (s : State) (slice : Nat) : Nat :=
  (s.monitors.filter fun p => p.2.entry && (match placeOf s p.2.addr.toNat with | .peer _ _ => false | _ => true) && sliceOf p.2.addr.toNat == slice).length
/-- A monitor armed, if the table of its slice has a free entry. -/
def armMonitor (s : State) (m : Monitor) : State × Option Nat :=
  if 128 ≤ tableUsed s (sliceOf m.addr.toNat) then (s, none)
  else let u := s.takeUid; ({ u.1 with monitors := put u.1.monitors u.2 m }, some u.2)
/-- The value with which a wait's monitor has woken. -/
def wokenValue (s : State) (x : Wait) : Option Quad := ((x.monitor.bind fun m => get? s.monitors m).bind (·.woken))

/-- Whether what a wait's monitor has read met poison (R394). -/
def wokenBad (s : State) (x : Wait) : Bool := (x.monitor.bind fun m => get? s.monitors m).any (·.bad)

/-! ## Registers that a wait writes -/

/-- An `s` register written in the file of the mode in which the wait was made (R244). -/
def putS (s : State) (w k : Nat) (sup : Bool) (n : Nat) (v : Word) : State :=
  if sup then modWave s w fun y => { y with supS := setAt y.supS n v }
  else modFibre s w k fun f => { f with s := setAt f.s n v }
/-- The value that `monw` returns (R208). -/
def putValue (s : State) (w k : Nat) (sup wide : Bool) (n : Nat) (v : Quad) : State :=
  let s1 := putS s w k sup n v.low
  if wide then putS s1 w k sup (n + 1) v.high else s1

/-! ## Conditions -/

/-- The gang of a wave. -/
def gangOf (s : State) (w : Nat) : Nat := ((get? s.waves w).map (·.gang)).getD 0
/-- The context of a wave. -/
def tagOf (s : State) (w : Nat) : Nat := ((get? s.gangs (gangOf s w)).map (·.tag)).getD 0
/-- The classes of a fence that have completed (R119), once the write-back of bit 5 has been made here; peers have to have made theirs. -/
def fenceBits (s : State) (w f : Nat) (mask : BitVec 6) : Nat :=
  (List.range 6).foldl (fun b k =>
    if mask.getLsbD k && (if k = 5 then (farOf s w f).isEmpty else (fibreAt s w f).count k = 0) then b + 2 ^ k else b) 0
/-- Whether a fence has a peer to ask for its write-back: one that it has not asked since the last write there. -/
def flushDue (s : State) (w k : Nat) (x : Wait) : Bool :=
  match x.kind with
  | .fence mask => mask.getLsbD 5 && decide (flushFar s w k ≠ s)
  | _ => false
/-- A wait ends; with OK it makes the Vigil record of R299. -/
def concludeWait (s : State) (w k : Nat) (x : Wait) (st : Nat) : State :=
  let s1 := endWait s w k x st
  if st != 0 || x.sup then s1
  else match x.kind with
    | .bwait _ _ (some _) => vigilRecord s1 w k 0 0 x.pc
    | .gbar .. => vigilRecord s1 w k 1 0 x.pc
    | _ => s1
/-- A fibre whose stall has cleared; it issues the same instruction again, once it holds its slot (R28, R29). -/
def wakeRetry (s : State) (w k : Nat) : State := modFibre s w k fun f => { f.afterWait with wait := none }

/-! ## Waits that end in a trap or a park -/

/-- A record of a fibre at a time when it does not issue (R350). -/
def fibreRecord (s : State) (w k code : Nat) (addr info : Quad) (lanes : Lanes) : Record :=
  match get? s.waves w with
  | none => { code, tag := 0, addr, info, lanes }
  | some y =>
    let g := get? s.gangs y.gang
    { code, tag := (g.map (·.tag)).getD 0, addr, gang := (g.map (·.index)).getD 0, wmf := wmfOf y k, lanes, seq := y.seq
      time := s.calends, info, launch := ((g.bind fun g => get? s.launches g.launch).map (·.desc)).getD 0 }
/-- The core at which a wave's records are held (R352). -/
def waveOrigin (s : State) (w : Nat) : Origin :=
  match get? s.waves w with
  | none => .core 0 0
  | some y => match get? s.gangs y.gang with | some g => .core g.cluster (g.core + y.member) | none => .core 0 0
/-- A trap that the end of a wait brings: at once for a fibre that holds its slot, pending for one that does not (R36, R248). -/
def trapAfter (s : State) (w k : Nat) (t : TrapRegs) (finish : State → State) : State :=
  if (fibreAt s w k).state = .stalled then modFibre (finish s) w k fun f => f.enterTrap t (handlerOf s (gangOf s w))
  else
    -- the trap is pending before the slot can pass to the fibre
    finish (modFibre s w k fun f => { f with escalate := some t })
/-- An access of a waiting instruction that fails with a trap: cause access or poison at the instruction (R186), and in supervisor
mode a double trap (R250). -/
def trapWait (s : State) (w k : Nat) (x : Wait) (cause : Nat) (info : Quad) : State :=
  if x.sup then endContextByDevice s (tagOf s w) (waveOrigin s w) { fibreRecord s w k 16 x.pc info x.lanes with xkind := cause }
  else
    let t : TrapRegs := { cause, pc := x.pc, ret := x.pc, lanes := x.lanes, info, seq := ((get? s.waves w).map (·.seq)).getD 0 }
    trapAfter (postRecord s (waveOrigin s w) (fibreRecord s w k cause x.pc info x.lanes)) w k t fun s => leaveWait s w k { x with next := x.pc }
/-- A read of a waiting `monw` or `gbar` that meets poison (R113, R394). -/
def poisonWord (s : State) (w k : Nat) (x : Wait) (a : Quad) : State := trapWait (logPoison s (some (tagOf s w)) a.toNat) w k x 7 a
/-- The same for local memory, whose errors are logged with the cluster's number. -/
def poisonObject (s : State) (w k : Nat) (x : Wait) (o : Word) : State :=
  let c := ((get? s.gangs (gangOf s w)).map (·.cluster)).getD 0
  trapWait (s.log 4 c (some (tagOf s w)) (o.setWidth 64)) w k x 7 (o.setWidth 64)

/-- The write-back of a fence (R118): every dirty system-shared line, whoever wrote it before the fence; the first that cannot
be written is named. Peers are asked for theirs (`flushFar`). -/
def fenceWriteBack (s : State) : State × Option Unwritten :=
  let s1 := writeBackHost s fun _ _ => true
  writeBackSectors s1 (keysWhere s1.l2 fun d => d.sys)
/-- The line of a failed write-back, as a fence's record names it. -/
def Unwritten.line (u : Unwritten) : Quad := BitVec.ofNat 64 (u.addr / 192 * 192)
/-- A waiting fence whose write-back fails: an absent page, or one that is not writable, parks its fibre at the fence (R119, R354); a
malformed entry, one with NR, and poison trap (R40, R186, R345). -/
def stopFence (s : State) (w k : Nat) (x : Wait) (u : Unwritten) : State :=
  if u.row = 5 then
    match get? s.waves w with
    | none => s
    | some y =>
      if x.sup then endContextByDevice s (tagOf s w) (waveOrigin s w) { fibreRecord s w k 16 x.pc u.line x.lanes with xkind := 14 }
      else
        let cp := checkpointOf (headerOf s y.gang) y (fibreAt s w k) k x.pc
        let r := { fibreRecord s w k 14 x.pc u.line x.lanes with pages := [{ page := pageOf u.addr, attr := u.attr }] }
        parkFibre (modFibre s w k fun f => { f with wait := none }) w k 0 cp r []
  else trapWait (if u.row = 6 then logPoison s (some (tagOf s w)) u.addr else s) w k x (rowCode u.row) u.line
/-- A fence ends as its classes stand, the lines that its operations have dirtied written back as well: its bitmask is
written, and its status follows (R119). -/
def endFence (s : State) (w k : Nat) (x : Wait) (mask : BitVec 6) (status : Nat → Nat) : State :=
  let r := if mask.getLsbD 5 then fenceWriteBack s else (s, none)
  match r.2 with
  | some u => stopFence r.1 w k x u
  | none =>
    let b := fenceBits r.1 w k mask
    concludeWait (putS r.1 w k x.sup (x.st + 1) (BitVec.ofNat 32 b)) w k x (status b)

/-- Coverage operations that the CVU of a cluster holds (R258). -/
def cvuUsed (s : State) (cluster : Nat) : Nat :=
  ((s.waves.filter fun p => (get? s.gangs p.2.gang).any fun g => g.cluster == cluster).map fun p =>
    (p.2.pending.filter fun q => q.2.kind == .cover).length).foldl (· + ·) 0
/-- Whether a resource that a stall lacks is there again (R29). -/
def resourceFree (s : State) (w k : Nat) (r : Resource) : Bool :=
  match get? s.waves w with
  | none => false
  | some x =>
    let f := x.fibres.getD k Fibre.blank
    let g := get? s.gangs x.gang
    match r with
    | .register sup n => !(x.pending.any fun p => p.2.writes.any fun y => y.sup == sup && y.reg == n)
    | .counter c => decide (f.count c < 255)
    | .ace => g.any fun g => decide (aceUsed s g.cluster (g.core + x.member) < 96)
    | .mxe => g.any fun g => decide (mxeUsed s g.cluster < 32)
    | .cvu => g.any fun g => decide (cvuUsed s g.cluster < 16)

/-- The state in which a wait has ended by its condition, when the condition holds (R33). Where the status register is one of those that
receive a value, the status is written last: R208 and R209 do not say which write remains (DESIGN CHOICE, log 66). -/
def tryEnd (s : State) (w k : Nat) (x : Wait) : Option State :=
  let g := gangOf s w
  let h := headerOf s g
  match x.kind with
  | .bwait off parity _ =>
    match x.won with
    | some last => some (concludeWait s w k x last)
    | none =>
      let b := barrierAt s g h off.toNat
      if localPoison s g h off.toNat 16 then some (poisonObject s w k x off)
      else if b.phase != parity then some (concludeWait s w k x b.last)
      else none
  | .waitc cls n => if (fibreAt s w k).count cls ≤ n then some (concludeWait s w k x 0) else none
  | .monw addr wide _ _ a => (wokenValue s x).map fun v =>
      if wokenBad s x then poisonWord s w k x addr else concludeWait (putValue s w k x.sup wide a v) w k x 0
  | .qrecv off a =>
    if localPoison s g h off.toNat 16 then some (poisonObject s w k x off)
    else match queueAt s g h off.toNat with
    | none => some (concludeWait s w k x 14)
    | some q =>
      if q.head = q.tail then none
      else if localPoison s g h (q.entry off.toNat q.head) (4 * q.words) then some (poisonObject s w k x off)
      else
        let r := queueReceive s w g h off.toNat q
        some (concludeWait (r.2.zipIdx.foldl (fun s v => putS s w k x.sup (a + v.2) v.1) r.1) w k x 0)
  | .fence mask =>
    if fenceBits s w k mask = mask.toNat then some (endFence s w k x mask fun _ => 0) else none
  | .fbar mask =>
    match get? s.waves w with
    | some y => if barrierComplete y mask then some (completeBarrier s w mask) else none
    | none => none
  | .gbar addr _ =>
    -- a withdrawal on its way to a peer decides
    if x.ending.isSome then none
    else (wokenValue s x).map fun _ => if wokenBad s x then poisonWord s w k x addr else concludeWait s w k x 0
  | .resource r => if resourceFree s w k r then some (wakeRetry s w k) else none
  | .hold t => if t ≤ s.clk then some (wakeRetry s w k) else none
  | .answers => none
  | .procEnter =>
    let s1 := admitGroup s w k x.lanes
    if groupInside s1 w k x.lanes then some (concludeWait s1 w k x 0) else none
  | .rmapinv .. => none

/-! ## Grid barriers (R211, R212) -/

/-- The words of a grid barrier object of this device. -/
structure GridBarrier where
  exp  : Nat
  pend : Nat
  gen  : Nat
  wdr  : Nat
  deriving DecidableEq, Repr

/-- The object at an address of this device. -/
def gridAt (s : State) (a : Nat) : GridBarrier :=
  let bs := readGlobal s a 16
  { exp := numAt bs 0 4, pend := numAt bs 4 4, gen := numAt bs 8 4, wdr := numAt bs 12 4 }
/-- The object written, in one access. -/
def putGrid (s : State) (a : Nat) (g : GridBarrier) (who : Nat × Nat × Nat) : State :=
  writeGlobal s a (toBytes 4 g.exp ++ toBytes 4 g.pend ++ toBytes 4 g.gen ++ toBytes 4 g.wdr) who
/-- An arrival (R212). -/
def GridBarrier.arrive (g : GridBarrier) : GridBarrier :=
  if g.pend ≤ 1 then { g with gen := (g.gen + 1) % 2 ^ 32, pend := g.exp, wdr := 0 } else { g with pend := g.pend - 1 }
/-- A withdrawal from generation `n` (R212). -/
def GridBarrier.withdraw (g : GridBarrier) (n : Nat) : GridBarrier :=
  if g.gen = n then { g with pend := min g.exp (g.pend + 1), wdr := min (g.wdr + 1) 0xFFFFFFFF } else g
/-- The operands of a slice operation on its way to a peer: kind, count, generation, status (R370). -/
def sliceImm (kind count gen st : Nat) : List Byte := toBytes 4 kind ++ toBytes 4 count ++ toBytes 4 gen ++ toBytes 4 st
/-- The key of a withdrawal among a fibre's answers. -/
def withdrawKey : Nat := 2 ^ 73

/-! ## Deadlines and Ides points (R33, R36) -/

/-- What a deadline or an Ides point has made of a wait. -/
inductive Expiry where
  /-- The status, and whether the wait completed after all. -/
  | over (s : State) (st : Nat) (completed : Bool)
  /-- A peer has still to answer the withdrawal. -/
  | pending (s : State)
  /-- The wait has ended in a trap or a park. -/
  | ended (s : State)

/-- The withdrawal from a grid barrier, checked as any access (R186, R212): poison traps (R394); an object that is then lost, or
that the withdrawal may no longer write, stays as it is (log 31). -/
def withdrawGrid (s : State) (w k : Nat) (x : Wait) (addr : Quad) (gen : Word) (ides : Bool) : Expiry :=
  let a := addr.toNat
  let lost := if ides then 11 else 2
  let absent := if ides then 11 else 12
  let c := check s (some (tagOf s w)) a rightAtomic true true false
  match c.2 with
  | .ok =>
    let b := gridAt c.1 a
    if b.gen = gen.toNat then
      .over (putGrid c.1 a (b.withdraw gen.toNat) (((get? c.1.gangs (gangOf c.1 w)).map (·.launch)).getD 0, w, k)) lost false
    else .over c.1 0 true
  | .fail 4 _ _ => .over c.1 absent false
  | .fail 6 _ _ => .ended (poisonWord c.1 w k x addr)
  | .fail .. => .over c.1 lost false
  | .host _ => .over c.1 lost false
  | .peer d =>
    match (fibreAt c.1 w k).answers.find? fun y => y.key = withdrawKey with
    | some y =>
      if y.status = 15 then .ended (poisonWord c.1 w k x addr)
      else if y.status = 12 then .over c.1 absent false
      else if y.status != 0 then .over c.1 lost false
      else if ofBytes (y.value.take 4) = gen.toNat then .over c.1 lost false else .over c.1 0 true
    | none =>
      let who := Requester.fibre w k withdrawKey
      let asked := if c.1.requests.any fun p => p.2.who = who then c.1
        else sendRequest c.1 d who { opc := 8, size := 16, addr := a, sub := 2, imm := sliceImm 2 1 gen.toNat 0 }
      .pending (modFibre asked w k fun f => { f with wait := f.wait.map fun y => { y with ending := some ides } })

/-- The withdrawal of what a wait has made, and the status with which it ends (R30, R110, R112, R119, R212, R226). -/
def expireWait (s : State) (w k : Nat) (x : Wait) (ides : Bool) : Expiry :=
  let late := if ides then 11 else 1
  let g := gangOf s w
  let h := headerOf s g
  match x.kind with
  | .bwait off _ (some c) =>
    let b := barrierAt s g h off.toNat
    let s1 := barrierEvent s g h off.toNat (.withdraw c x.gen)
    let s2 := if isStray h off.toNat then noteStray s1 g w 1 off.toNat else s1
    if b.gen = x.gen then .over s2 (if ides then 11 else 2) false else .over s2 b.last true
  | .monw _ wide _ _ a => .over (putValue s w k x.sup wide a x.last) late false
  | .procEnter => .over (withdrawGroup s w k x.lanes) late false
  | .gbar addr gen => withdrawGrid s w k x addr gen ides
  | _ => .over s late false
/-- The status of a fence that expires (R119). -/
def fenceLate (b : Nat) : Nat := if b = 0 then 1 else 3

/-- ESCALATE: the status is written, a record posted, and the fibre traps: at once if it holds its slot, else when it next
does. In supervisor mode it does not trap (R36, R250). -/
def escalateBy (s : State) (w k : Nat) (x : Wait) (finish : State → State) : State :=
  let t : TrapRegs := { cause := 9, pc := x.pc, ret := x.next, lanes := x.lanes, info := BitVec.ofNat 64 x.ides
                        seq := ((get? s.waves w).map (·.seq)).getD 0 }
  let s1 := postRecord s (waveOrigin s w) (fibreRecord s w k 9 x.pc (BitVec.ofNat 64 x.ides) x.lanes)
  if x.sup then finish s1 else trapAfter s1 w k t finish
/-- ESCALATE of a wait that writes no more than its status. -/
def escalate (s : State) (w k : Nat) (x : Wait) : State := escalateBy s w k x fun s => endWait s w k x 11

/-- A fence's deadline or Ides point (R119): its lines are written back as far as its operations have come. -/
def expireFence (s : State) (w k : Nat) (x : Wait) (mask : BitVec 6) (ides : Bool) : State :=
  let r := if mask.getLsbD 5 then fenceWriteBack s else (s, none)
  match r.2 with
  | some u => stopFence r.1 w k x u
  | none =>
    if ides then
      escalate (putS r.1 w k x.sup (x.st + 1) (BitVec.ofNat 32 (fenceBits r.1 w k mask))) w k x
    else endFence r.1 w k x mask fenceLate
/-- What a wait has come to at its deadline or its Ides point. -/
def concludeExpiry (s : State) (w k : Nat) (x : Wait) (ides : Bool) : State :=
  match x.kind with
  | .fence mask => expireFence s w k x mask ides
  | _ =>
    match expireWait s w k x ides with
    | .pending s1 => s1
    | .ended s1 => s1
    | .over s1 st completed => if ides && !completed then escalate s1 w k x else concludeWait s1 w k x st
/-- A wait's deadline or Ides point is handled: the condition first, then the deadline, then the Ides point (R33); a withdrawal
that waits for its answer ends as it began (R212). -/
def handleExpiry (s : State) (w k : Nat) (x : Wait) : State :=
  match tryEnd s w k x with
  | some s1 => s1
  | none => concludeExpiry s w k x (x.ending.getD (!(reached s (tagOf s w) x.deadline)))
/-- Whether a fibre's wait has a deadline and an Ides point: stalls have none. -/
def WaitKind.timed : WaitKind → Bool
  | .resource _ => false
  | .answers => false
  | .hold _ => false
  | .rmapinv .. => false
  | _ => true

/-! ## Beginning a wait -/

/-- A wait with its status register, its deadline pair and its Ides point (R33). -/
def Here.timedWait (h : Here) (s : State) (kind : WaitKind) (st : BitVec 6) (dl : BitVec 5) : Wait :=
  { h.wait s kind with st := st.toNat, deadline := h.deadline dl, ides := contextTime s h.g.tag + h.c.ides, polled := s.clk }
/-- The fields of a wait that every mode checks (R244). -/
def Here.waitOk (h : Here) (st : BitVec 6) (dl : BitVec 5) : Bool := h.sregOk st.toNat && h.deadlineOk dl
/-- A wait begins: its condition is tested; a deadline that is reached makes it poll once; else the fibre waits, passing its
slot with the prefix, or always at a fibre barrier (R28, R29, R31). -/
def openWait (h : Here) (s : State) (x : Wait) : State :=
  let w := h.i.wave
  let k := h.i.fibre
  let s1 := modFibre s w k fun f => { f with wait := some x, state := .stalled }
  match tryEnd s1 w k x with
  | some s2 => s2
  | none =>
    if reached s1 h.g.tag x.deadline then concludeExpiry s1 w k x false
    else match x.kind with
      | .fbar _ => passSlot (modFibre s1 w k fun f => { f with state := .fbarrier }) w h.i.hint
      | _ => if h.i.swp then passSlot (modFibre s1 w k fun f => { f with state := .waiting }) w h.i.hint else s1
/-- A wait that ends at its issue with a status. -/
def closeWait (h : Here) (s : State) (st : BitVec 6) (status : Nat) : State := advance h (writeS h s st.toNat (BitVec.ofNat 32 status))

/-! ## Instructions -/

/-- R110, R206. At a stray object the issue counts one stray access, arrival and first test together, and a withdrawal one
more; the later tests count nothing (R62, DESIGN CHOICE, log 32). -/
def execBwait (o : Bwait) (s : State) : Outcome :=
  performLate s fun h => do
    orIllegal (h.waitOk o.st o.dl && decide (o.a.toNat ≤ if o.arrive then 61 else 62) && h.sregOk (o.a.toNat + bit o.arrive))
    notInScout h
    let off := h.sreg o.a.toNat
    objectAligned off.toNat
    objectClean h s off.toNat 16
    if isAperture off.toNat then .ok (closeWait h s o.st 14)
    else
      let b := barrierAt s h.w.gang h.g.hdr off.toNat
      let c := (h.sreg (o.a.toNat + 1)).toNat % 2 ^ 16
      let s1 := if o.arrive then barrierEvent s h.w.gang h.g.hdr off.toNat (.arrive c) else s
      let s2 := if isStray h.g.hdr off.toNat then noteStray s1 h.w.gang h.i.wave 1 off.toNat else s1
      let x := h.timedWait s2 (.bwait off o.parity (if o.arrive then some c else none)) o.st o.dl
      .ok (openWait h s2 { x with gen := b.gen })
/-- R107, R207 -/
def execWaitc (o : Waitc) (s : State) : Outcome :=
  performLate s fun h => do
    orIllegal (decide (o.cls.toNat ≤ 4) && h.waitOk o.st o.dl)
    notInScout h
    .ok (openWait h s (h.timedWait s (.waitc o.cls.toNat o.n.toNat) o.st o.dl))

/-- An answer of a peer to `monw`: the value, and whether an entry was taken (R370). -/
def monAnswer (v : List Byte) : Quad × Bool := (BitVec.ofNat 64 (numAt v 0 8), bitOf (numAt v 8 1) 0)
/-- R112, R113, R208: the first read, then an entry of the table, or polling. -/
def execMonw (o : Monw) (s : State) : Outcome :=
  performLate s fun h => do
    let a := o.a.toNat
    orIllegal (h.waitOk o.st o.dl && decide (a ≤ 58) && a % 2 == 0 && h.sregOk (a + 4 + bit o.wide))
    notInScout h
    let addr := h.spair a
    let n := if o.wide then 8 else 4
    let operand : Quad := if o.wide then h.spair (a + 2) else (h.sreg (a + 2)).setWidth 64
    let u : Access := ⟨0, 0, addr.toNat⟩
    aligned [u] n
    let imm := toBytes 8 operand.toNat ++ toBytes 4 (fibreMonitor h.i.wave h.i.fibre)
    let r ← examine h s { loadKind with effect := true } false (carryOne fun _ => { opc := 6, size := n, addr := addr.toNat, sub := o.cond.toNat + 8 * bit o.wide, imm }) [u]
    let dests : Dests := { s := [o.st.toNat, a + 4] ++ (if o.wide then [a + 5] else []) }
    match deciding r.2 with
    | some (_, 4, _, _) => .ok (closeWait h (putValue r.1 h.i.wave h.i.fibre h.i.sup o.wide (a + 4) 0) o.st 12)
    | some (u, row, level, ro) => .error (failStop r.1 false dests u row level ro)
    | none =>
      let x := h.timedWait r.1 (.monw addr o.wide o.cond operand (a + 4)) o.st o.dl
      let m : Monitor := { addr, wide := o.wide, cond := o.cond, operand, who := .fibre h.i.wave h.i.fibre }
      match r.2 with
      | [(_, .peer v)] =>
        let y := monAnswer v
        if monTrue o.cond y.1.toNat operand.toNat then
          .ok (closeWait h (putValue r.1 h.i.wave h.i.fibre h.i.sup o.wide (a + 4) y.1) o.st 0)
        else if y.2 then
          let t := r.1.takeUid
          .ok (openWait h { t.1 with monitors := put t.1.monitors t.2 m } { x with last := y.1, monitor := some t.2 })
        else .ok (openWait h r.1 { x with last := y.1 })
      | _ =>
        let v := ofBytes (readGlobal r.1 addr.toNat n)
        if monTrue o.cond v operand.toNat then
          .ok (closeWait h (putValue r.1 h.i.wave h.i.fibre h.i.sup o.wide (a + 4) (BitVec.ofNat 64 v)) o.st 0)
        else if reached r.1 h.g.tag x.deadline then
          .ok (openWait h r.1 { x with last := BitVec.ofNat 64 v })
        else
          let t := armMonitor r.1 m
          .ok (openWait h t.1 { x with last := BitVec.ofNat 64 v, monitor := t.2 })

/-- A queue's offset and the header found there; in the aperture and at an invalid header FAULT (R63, R114, R209). The spec does not say
what happens to a queue whose header lies in scratch and whose ring runs on into the aperture: an entry there reads 0 and is dropped, and
is not counted as stray (DESIGN CHOICE, log 37). -/
def queueHere (h : Here) (s : State) (off : Nat) : State × Option StageQueue :=
  if isAperture off then (s, none)
  else (if isStray h.g.hdr off then noteStray s h.w.gang h.i.wave 1 off else s, queueAt s h.w.gang h.g.hdr off)
/-- The words of an entry lie within the file of the mode (R209, R244). -/
def entryOk (h : Here) (a words : Nat) : Bool := decide (a ≤ 59) && h.sregOk (a + words)
/-- R115, R209 -/
def execQsend (o : Qsend) (s : State) : Outcome :=
  performLate s fun h => do
    orIllegal (h.sregOk o.st.toNat && entryOk h o.a.toNat 0)
    notInScout h
    let off := (h.sreg o.a.toNat).toNat
    objectAligned off
    objectClean h s off 16
    let q := queueHere h s off
    match q.2 with
    | none => .ok (closeWait h q.1 o.st 14)
    | some x =>
      orIllegal (entryOk h o.a.toNat x.words)
      if 2 ^ x.log ≤ x.held then .ok (closeWait h q.1 o.st 4)
      else
        let ws := (List.range x.words).map fun j => h.sreg (o.a.toNat + 1 + j)
        .ok (closeWait h (queueSend q.1 h.i.wave h.w.gang h.g.hdr off x ws) o.st 0)
/-- R115, R209 -/
def execQrecv (o : WaitA) (s : State) : Outcome :=
  performLate s fun h => do
    orIllegal (h.waitOk o.st o.dl && entryOk h o.a.toNat 0)
    notInScout h
    let off := h.sreg o.a.toNat
    objectAligned off.toNat
    objectClean h s off.toNat 16
    let q := queueHere h s off.toNat
    match q.2 with
    | none => .ok (closeWait h q.1 o.st 14)
    | some x =>
      orIllegal (entryOk h o.a.toNat x.words)
      .ok (openWait h q.1 (h.timedWait q.1 (.qrecv off (o.a.toNat + 1)) o.st o.dl))

/-- R119, R210, R354 -/
def execFence (o : Fence) (s : State) : Outcome :=
  performLate s fun h => do
    orIllegal (h.waitOk o.st o.dl && decide (o.st.toNat ≤ 62) && h.sregOk (o.st.toNat + 1))
    notInScout h
    let w := if o.mask.getLsbD 5 then fenceWriteBack s else (s, none)
    match w.2 with
    | some u => .error (if u.row = 5 then .park w.1 14 u.line u.attr false {} else .fault w.1 (rowCode u.row) u.line)
    | none => .ok (openWait h w.1 (h.timedWait w.1 (.fence o.mask) o.st o.dl))

/-- R30, R166 -/
def execFbar (o : Fbar) (s : State) : Outcome :=
  performLate s fun h => do
    orIllegal (!h.i.sup && h.waitOk o.st o.dl && o.k.getLsbD h.i.fibre)
    notInScout h
    .ok (openWait h s (h.timedWait s (.fbar o.k) o.st o.dl))

/-- A grid barrier's accesses (R343, R394). -/
def gbarKind : Kind := { need := rightAtomic, reads := true, writes := fun _ _ => true, host := false, effect := true }
/-- A peer is asked to watch a word for a fibre (R370). -/
def askMonitor (s : State) (w k : Nat) (m : Monitor) : State :=
  match placeOf s m.addr.toNat with
  | .peer d _ =>
    if (s.requests.any fun p => p.2.who = .monitor w k) || !(reachable s d) then s
    else sendRequest s d (.monitor w k)
      { opc := 6, size := if m.wide then 8 else 4, addr := m.addr.toNat, sub := m.cond.toNat + 8 * bit m.wide
        imm := toBytes 8 m.operand.toNat ++ toBytes 4 (fibreMonitor w k) }
  | _ => s
/-- A `gbar` whose own arrival completed the generation (R212, R299). -/
def gbarPassed (h : Here) (s : State) (st : BitVec 6) : State :=
  if h.i.sup then closeWait h s st 0 else vigilRecord (closeWait h s st 0) h.i.wave h.i.fibre 1 0 h.i.pc
/-- R212 -/
def execGbar (o : Gbar) (s : State) : Outcome :=
  performLate s fun h => do
    let a := o.a.toNat
    orIllegal (h.waitOk o.st o.dl && a % 2 == 0 && h.sregOk (a + 1))
    notInScout h
    let addr := h.spair a
    let u : Access := ⟨0, 0, addr.toNat⟩
    aligned [u] 16
    let r ← examine h s gbarKind false (carryOne fun _ => { opc := 8, size := 16, addr := addr.toNat, sub := 1, imm := sliceImm 1 1 0 0 }) [u]
    match deciding r.2 with
    | some (_, 4, _, _) => .ok (closeWait h r.1 o.st 12)
    | some (u, row, level, ro) => .error (failStop r.1 true { s := [o.st.toNat] } u row level ro)
    | none =>
      let wait (s : State) (g : Nat) : Wait := h.timedWait s (.gbar addr (BitVec.ofNat 32 g)) o.st o.dl
      let watch (g : Nat) : Monitor :=
        { addr := addr + 8, wide := false, cond := 1, operand := BitVec.ofNat 64 g, who := .fibre h.i.wave h.i.fibre }
      match r.2 with
      | [(_, .peer v)] =>
        let g := numAt v 0 4
        if numAt v 4 4 = g then
          let s1 := openWait h r.1 (wait r.1 g)
          .ok (if (fibreAt s1 h.i.wave h.i.fibre).wait.isSome then askMonitor s1 h.i.wave h.i.fibre (watch g) else s1)
        else .ok (gbarPassed h r.1 o.st)
      | _ =>
        let b := gridAt r.1 addr.toNat
        let s1 := putGrid r.1 addr.toNat b.arrive h.writer
        if b.arrive.gen = b.gen then
          if reached s1 h.g.tag (h.deadline o.dl) then .ok (openWait h s1 (wait s1 b.gen))
          else
            let t := armMonitor s1 (watch b.gen)
            .ok (openWait h t.1 { wait t.1 b.gen with monitor := t.2 })
        else .ok (gbarPassed h s1 o.st)

/-- R226: every strand of the group registers, or none does. -/
def execProcEnter (o : WaitA) (s : State) : Outcome :=
  performLate s fun h => do
    orIllegal (!h.i.sup && h.waitOk o.st o.dl && decide (o.a.toNat ≤ 118))
    notInScout h
    let key ← h.src o.a none
    let order ← h.src (o.a + 1) none
    let ls := lanesIn h.i.lanes
    if ls.all fun i => (h.f.procAt i).mayRegister (order.val i).toNat then
      let s1 := ls.foldl (fun s i => registerLane s h.i.wave h.i.fibre i (key.val i) (order.val i).toNat) s
      let s2 := admitGroup s1 h.i.wave h.i.fibre h.i.lanes
      .ok (openWait h s2 (h.timedWait s2 .procEnter o.st o.dl))
    else .ok (closeWait h s o.st 14)
/-- R227: the key is read, and the section is left whatever its value. -/
def execProcLeave (o : BarA) (s : State) : Outcome :=
  performLate s fun h => do
    orIllegal (!h.i.sup && decide (o.a.toNat ≤ 119))
    notInScout h
    let _ ← h.src o.a none
    .ok (advance h ((lanesIn h.i.lanes).foldl (fun s i => leaveLane s h.i.wave h.i.fibre i) s))

end Sys2Proof.Machine
end

