-- ==== Sys2Proof/Machine/Graphics.lean ====
section
/-! DEFINITION. Coverage (R223, R224, R258), the fragment-list instructions (R230 to R232) and the BVH build aids (R236, R237)
of opcode 0x3B. -/

namespace Sys2Proof.Machine

/-! ## Results that a unit owes -/

/-- One register of a result: where it goes, in which lanes, and its values. -/
def owedWrite (h : Here) (r : Nat) (lanes : Lanes) (val : Nat → Word) : PendingWrite :=
  { sup := h.i.sup, reg := r, lanes, row := rowOf val }
/-- A unit takes an operation whose registers it writes later (R56). -/
def owe (h : Here) (s : State) (kind : UnitKind) (writes : List PendingWrite) (maps : List Nat := []) : State :=
  let t := s.takeUid
  modWave t.1 h.i.wave fun w => { w with pending := put w.pending t.2 { kind, writes, fibre := h.i.fibre, maps } }
/-- Whether a wave owes a result of a kind. -/
def owes (s : State) (w r : Nat) (kind : UnitKind) : Bool :=
  ((get? s.waves w).bind fun x => get? x.pending r).any fun p => p.kind == kind
/-- A unit's result is written. -/
def unitResult (kind : UnitKind) (w r : Nat) (s : State) : State := if owes s w r kind then landResult s w r else s
/-- A block of registers: `n` of them from a field on. -/
def Here.block (h : Here) (d : BitVec 7) (n : Nat) : Except Stop (List Nat) := (List.range n).mapM fun k => h.resolve (d.toNat + k)
/-- A block that is read: none of its registers holds poison (R392). -/
def Here.source (h : Here) (d : BitVec 7) (n : Nat) : Except Stop (List Nat) := do
  let rs ← h.block d n
  h.clean rs
  .ok rs

/-! ## Coverage (R223, R224) -/

/-- Sample offsets of a sample count code, in 1/16 pixel (R223). -/
def sampleOffsets (code : Nat) : List (Int × Int) :=
  match code with
  | 0 => [(8, 8)]
  | 1 => [(4, 4), (12, 12)]
  | 2 => [(6, 2), (14, 6), (2, 10), (10, 14)]
  | _ => [(9, 5), (7, 11), (13, 9), (5, 3), (3, 13), (1, 7), (11, 15), (15, 1)]
/-- A set-up triangle. -/
structure CoverTri where
  x : List Int
  y : List Int
  cull : Bool
/-- A vertex, indices modulo 3. -/
def CoverTri.vx (t : CoverTri) (k : Nat) : Int := t.x.getD (k % 3) 0
def CoverTri.vy (t : CoverTri) (k : Nat) : Int := t.y.getD (k % 3) 0
/-- Twice the signed area. -/
def CoverTri.area (t : CoverTri) : Int :=
  (t.vx 1 - t.vx 0) * (t.vy 2 - t.vy 0) - (t.vx 2 - t.vx 0) * (t.vy 1 - t.vy 0)
/-- The edge function of R224. -/
def CoverTri.edge (t : CoverTri) (k : Nat) (px py : Int) : Int :=
  t.area.sign * ((t.vx (k + 1) - t.vx k) * (py - t.vy k) - (t.vy (k + 1) - t.vy k) * (px - t.vx k))
/-- Whether a sample is covered (R224). -/
def CoverTri.inside (t : CoverTri) (px py : Int) : Bool :=
  if t.area = 0 ∨ (t.area < 0 ∧ t.cull) then false
  else [0, 1, 2].all fun k =>
    let dx := t.area.sign * (t.vx (k + 1) - t.vx k)
    let dy := t.area.sign * (t.vy (k + 1) - t.vy k)
    let w := t.edge k px py
    decide (0 < w) || (w == 0 && (decide (dy < 0) || (dy == 0 && decide (0 < dx))))
/-- A barycentric weight rounded to FP32; +0 when the area is 0. -/
def CoverTri.weight (t : CoverTri) (k : Nat) (px py : Int) : Word :=
  if t.area = 0 then 0
  else
    let w := t.edge k px py
    BitVec.ofNat 32 (roundTo .f32 .rn false (.fin (decide (w < 0)) w.natAbs t.area.natAbs))
/-- The pixel corner of a lane, in 1/256 pixel. -/
def blockCorner (origin : Word) (lane : Nat) : Int × Int :=
  (256 * ((origin.toNat % 2 ^ 16 : Nat) + (lane % 8 : Nat)), 256 * ((origin.toNat / 2 ^ 16 : Nat) + (lane / 8 : Nat)))
/-- The three results of a lane. -/
def coverLane (t : CoverTri) (code : Nat) (origin : Word) (lane : Nat) : List Word :=
  let c := blockCorner origin lane
  let m := ((sampleOffsets code).zipIdx.map fun o => if t.inside (c.1 + 16 * o.1.1) (c.2 + 16 * o.1.2) then 2 ^ o.2 else 0).foldl (· + ·) 0
  [BitVec.ofNat 32 m, t.weight 2 (c.1 + 128) (c.2 + 128), t.weight 0 (c.1 + 128) (c.2 + 128)]
/-- R223, R224: the CVU takes the triangle, or the instruction stalls while it holds 16 (R258). -/
def execCover (o : GfxDS) (s : State) : Outcome :=
  perform s fun h => do
    let a := o.s.toNat
    orIllegal (decide (o.d.toNat ≤ 117) && a % 2 == 0 && decide (a ≤ 56) && h.sregOk (a + 7))
    notInScout h
    let ctl := (h.sreg (a + 6)).toNat
    orTrap (decide (ctl < 8)) 4 0
    let ds ← h.block o.d 3
    if 16 ≤ cvuUsed s h.g.cluster then .error (.stall .cvu)
    let v (k : Nat) : Int := (h.sreg (a + k)).toInt
    let t : CoverTri := { x := [v 0, v 2, v 4], y := [v 1, v 3, v 5], cull := bitOf ctl 2 }
    let row (k i : Nat) : Word := (coverLane t (ctl % 4) (h.sreg (a + 7)) i).getD k 0
    .ok (advance h (owe h s .cover (ds.zipIdx.map fun d => owedWrite h d.1 h.i.lanes (row d.2))))
/-- R224: the results of a `cover` are written. -/
def execCoverResult (w r : Nat) (s : State) : Outcome := event (unitResult .cover w r s)

/-! ## Fragment lists (R230 to R232) -/

/-- Registers of the A block and of the D block, by FN; 5 is a trace's append. -/
def listBlocks (fn : Nat) : Nat × Nat :=
  match fn with
  | 1 => (5, 9)
  | 2 => (5, 1)
  | 3 => (2, 5)
  | 5 => (5, 1)
  | _ => (1, 1)
/-- Whom a list operation of the issuing group serves. -/
def Here.listEnv (h : Here) : ListEnv := { tag := some h.g.tag, gang := h.w.gang, hdr := h.g.hdr, who := h.writer }
/-- The request of a list operation on a peer's list (R370): context words in IMM, the A block in the DATA flit. -/
def listAsk (c : ListCtx) (fn : Nat) (ctx ws : List Word) : Ask :=
  { opc := 9, size := 48, addr := c.entry (ws.getD 0 0).toNat, sub := fn, imm := ctx.flatMap fun w => toBytes 4 w.toNat
    data := ws.flatMap fun w => toBytes 4 w.toNat }
/-- Words from bytes. -/
def wordsOf (n : Nat) (bs : List Byte) : List Word := (List.range n).map fun k => BitVec.ofNat 32 (numAt bs (4 * k) 4)

/-- What the lanes of one issue have come to: the state, the words each writes, stray offsets, the failures, what a peer has to be
asked first, and what they would have written there. -/
structure ListLanes where
  s     : State
  out   : List (Nat × List Word) := []
  stray : List Nat := []
  bad   : List (Access × Got) := []
  stop  : Option Stop := none
  asks  : Option (Nat × Bool) := none
  shown : List (Nat × Byte) := []
/-- One lane's operation, made here or tried on a peer's list. -/
def listLane (e : ListEnv) (c : ListCtx) (fn : Nat) (words : Nat → List Word) (r : ListLanes) (u : Access) : ListLanes :=
  if r.asks.isSome then r
  else match listTry e c fn { s := r.s, shown := r.shown } (words u.lane) with
  | .ok (x, y) => { r with s := x.s, shown := x.shown, out := r.out ++ [(u.lane, listWords fn y)], stray := r.stray ++ x.stray.toList }
  | .error (.fail a row level ro) => { r with bad := r.bad ++ [({ u with addr := a }, .fail row level ro (rowStatus row))] }
  | .error (.trap a) => { r with stop := some (r.stop.getD (.trap 3 (BitVec.ofNat 64 a))) }
  | .error (.ask a w) => { r with asks := some (a, w) }
  | .error (.broken _) => r
/-- The state that the check of a failing address leaves (R392). -/
def recheck (h : Here) (s : State) (a : Nat) : State := (check s (some h.g.tag) a rightAtomic true false true).1
/-- The stop of the lanes' failures, if there are any (R186, R230). -/
def ListLanes.ends (t : ListLanes) (h : Here) (s : State) (fn : Nat) : Except Stop PUnit :=
  match deciding t.bad with
  | some (u, row, level, ro) => .error (failStop (recheck h s u.addr) (fn != 3) {} u row level ro)
  | none => .ok ⟨⟩
/-- A peer asked on behalf of an instruction, which issues again with its answer; one that has become unreachable is asked no more. -/
def farStop (h : Here) (s : State) (d key : Nat) (q : Ask) (u : Access) : Stop :=
  if reachable s d then .ask (askFor h s d key q) else failStop s true {} u 4 0 false
/-- Operations on a peer's list being made, each leaving once the one before it has been answered (R185, R230). -/
def farMade (h : Here) (s : State) (d fn : Nat) (q : Access → Ask) (us : List Access) : Except Stop ListLanes :=
  let next := (us.find? fun u => !((h.answer u.key).any (·.status == 0))).getD ⟨0, 0, 0⟩
  match carryEach q h.answer us [] with
  | .ask key a => .error (farStop h s d key a next)
  | .got vs => .ok { s, out := (us.zip vs).map fun x => (x.1.lane, wordsOf (listBlocks fn).2 x.2) }
  | .lost st attr => .error (failStop s (fn != 3) {} next (statusRow st attr) (attr % 4) false)
/-- The lanes' operations on a peer's list: all are tried on what the peer answers to reads and to checks of writes, so that an access
that fails stops the group before any is made; then they are made in lane order (R37, R186, R230, log 25). -/
def farLanes (h : Here) (s : State) (d : Nat) (c : ListCtx) (fn : Nat) (ctx : List Word) (words : Nat → List Word) (us : List Access) :
    Except Stop ListLanes := do
  let q (u : Access) : Ask := listAsk c fn ctx (words u.lane)
  if h.begun then farMade h s d fn q us
  else
    let t := us.foldl (listLane { h.listEnv with far := some h.answer } c fn words) { s := s : ListLanes }
    match t.asks with
    | some (a, w) => .error (farStop h t.s d (farKey a w) (farAsk a w) ⟨0, 0, a⟩)
    | none =>
      t.ends h t.s fn
      let b := beginMaking h t.s []
      farMade b.1 b.2 d fn q us

/-- The lanes' operations, in lane order (R185, R230): in tile mode, or in immediate mode where the head table lies (R229). -/
def listLanes (h : Here) (s : State) (c : ListCtx) (fn : Nat) (ctx : List Word) (words : Nat → List Word) (us : List Access) :
    Except Stop ListLanes := do
  let here : ListLanes := us.foldl (listLane h.listEnv c fn words) { s := s }
  match c.imm, placeOf s c.head with
  | true, .peer d _ => farLanes h s d c fn ctx words us
  | true, _ =>
    here.ends h s fn
    .ok here
  | false, _ =>
    match here.stop, here.bad with
    | some e, _ => .error e
    | none, b :: _ => .error (.trap 7 (BitVec.ofNat 64 b.1.addr))
    | none, [] => .ok here

/-- The lanes in which register `k` of the D block is written. -/
def writtenLanes (out : List (Nat × List Word)) (k : Nat) : Lanes := maskOf fun i => (get? out i).any fun ws => decide (k < ws.length)
/-- Words that a peer's answer holds, cut to those that the operation wrote (R230). -/
def cutWords (fn : Nat) (ws : List Word) : List Word :=
  if fn = 3 then (if (ws.getD 0 0).toNat % 256 = 0 then ws else ws.take 1) else ws.take (1 + 4 * bitsOf (ws.getD 0 0).toNat 9 8)
/-- One fragment-list instruction. -/
def listForm (fn : Nat) (o : GfxDAS) (s : State) : Outcome :=
  performLate s fun h => do
    let b := listBlocks fn
    let a := o.s.toNat
    orIllegal (a % 2 == 0 && decide (a ≤ 58) && h.sregOk (a + 4) && decide (o.a.toNat + b.1 ≤ 120) && decide (o.d.toNat + b.2 ≤ 120))
    notInScout h
    let ctx := (List.range 5).map fun k => h.sreg (a + k)
    match listCtx ctx with
    | none => .error (.trap 4 0)
    | some c =>
      let as ← h.source o.a b.1
      let ds ← h.block o.d b.2
      let words (i : Nat) : List Word := as.map fun r => h.reg r i
      let us := accesses h.i.lanes fun i => c.entry ((words i).getD 0 0).toNat
      aligned us 4
      aligned [⟨0, 0, c.pool⟩] 16
      let t ← listLanes h s c fn ctx words us
      let out := t.out.map fun x => (x.1, cutWords fn x.2)
      let val (k i : Nat) : Word := ((get? out i).getD []).getD k 0
      let s1 := noteStray t.s h.w.gang h.i.wave t.stray.length (t.stray.headD 0)
      .ok (advance h (owe h s1 .list (ds.zipIdx.map fun d => owedWrite h d.1 (writtenLanes out d.2) (val d.2))))

/-- R231 -/
def execFlins (o : GfxDAS) (s : State) : Outcome := listForm 1 o s
/-- R232 -/
def execFlrep (o : GfxDAS) (s : State) : Outcome := listForm 2 o s
/-- R232 -/
def execFlget (o : GfxDAS) (s : State) : Outcome := listForm 3 o s
/-- R232 -/
def execFlclr (o : GfxDAS) (s : State) : Outcome := listForm 4 o s
/-- R230: the results of a list operation are written. -/
def execFleResult (w r : Nat) (s : State) : Outcome := event (unitResult .list w r s)

/-! ## BVH build aids (R236, R237) -/

/-- A block's registers as one lane's words, and whether any of them is invalid there. -/
def Here.blockWords (h : Here) (rs : List Nat) (i : Nat) : List Nat := rs.map fun r => (h.reg r i).toNat
def Here.blockBad (h : Here) (rs : List Nat) (i : Nat) : Bool := rs.any fun r => h.lowMark r i || h.highMark r i
/-- Words written to a block in every strand of the group. -/
def putBlock (h : Here) (s : State) (ds : List Nat) (val : Nat → List Nat) (bad : Nat → Bool) : State :=
  ds.zipIdx.foldl (fun s d => writeReg h s d.1 h.i.lanes (fun i => BitVec.ofNat 32 ((val i).getD d.2 0)) bad bad) s

/-- R236: the union of two boxes. -/
def execBoxu (o : GfxDA) (s : State) : Outcome :=
  perform s fun h => do
    orIllegal (decide (o.d.toNat ≤ 114) && decide (o.a.toNat ≤ 114))
    let ds ← h.source o.d 6
    let as ← h.source o.a 6
    let val (i : Nat) : List Nat := (List.range 6).map fun k =>
      minMax .f32 (decide (3 ≤ k)) ((h.blockWords ds i).getD k 0) ((h.blockWords as i).getD k 0)
    .ok (advance h (putBlock h s ds val fun i => h.blockBad ds i || h.blockBad as i))

/-- Values of a box: three minima and three maxima. -/
def boxValue (ws : List Nat) (k : Nat) : Exact := Fmt.f32.value (ws.getD k 0)
/-- Whether an axis has min > max. -/
def axisEmpty (ws : List Nat) (k : Nat) : Bool := (boxValue ws (k + 3)).lt (boxValue ws k)
/-- An extent, max − min, exactly. -/
def extent (ws : List Nat) (k : Nat) : Exact := Exact.add false (boxValue ws (k + 3)) (boxValue ws k).negate
/-- The surface measure of a box times a count (R236). -/
def sahValue (ws : List Nat) : Nat :=
  let axes := [0, 1, 2]
  let n := ws.getD 6 0
  if (List.range 6).any fun k => (boxValue ws k).isNan then roundTo .f32 .rn false ((nanOf ((List.range 6).map (boxValue ws))).getD (.nan none))
  else if n = 0 || axes.any (axisEmpty ws) then 0
  else if axes.any fun k => match extent ws k with | .inf _ => true | _ => false then Fmt.f32.infCode
  else
    let d (k : Nat) : Exact := extent ws k
    let sum := Exact.add false (Exact.add false ((d 0).mul (d 1)) ((d 1).mul (d 2))) ((d 2).mul (d 0))
    if sum.isZero then 0 else roundTo .f32 .rn false (sum.mul (Exact.ofInt n))
/-- R236: `sah`. -/
def execSah (o : GfxDA) (s : State) : Outcome :=
  perform s fun h => do
    orIllegal (decide (o.d.toNat ≤ 119) && decide (o.a.toNat ≤ 112))
    let as ← h.source o.a 7
    let d ← h.block o.d 1
    .ok (advance h (putBlock h s d (fun i => [sahValue (h.blockWords as i)]) fun i => h.blockBad as i))

/-- The least exponent e with a value at most 255 · 2 ^ e, not below −128 (R237); that of 0 is −128. -/
def packExp (x : Exact) : Int :=
  match x with
  | .fin _ n d =>
    if n = 0 then -128
    else
      let e := floorLog2 n d - 8
      let fits (k : Int) : Bool := let p := scale2 (-k) n d; decide (p.1 ≤ 255 * p.2)
      max (-128) (if fits e then e else if fits (e + 1) then e + 1 else e + 2)
  | _ => -128
/-- floor or ceiling of (c − p) / 2 ^ e, clamped to a byte (R237). -/
def packBound (up : Bool) (c p : Exact) (e : Int) : Nat :=
  match Exact.add false c p.negate with
  | .fin s n d =>
    let q := scale2 (-e) n d
    let x : Int := signedNum s q.1
    let f := if up then -((-x) / (q.2 : Int)) else x / (q.2 : Int)
    (clampInt 0 255 f).toNat
  | .inf s => if s then 0 else 255
  | .nan _ => 0
/-- The three words of `npack` (R237). -/
def npackValue (child parent : List Nat) : List Nat :=
  let axes := [0, 1, 2]
  let empty := (List.range 6).any (fun k => (boxValue child k).isNan) || axes.any (axisEmpty child)
  let off := (List.range 6).any (fun k => match boxValue parent k with | .fin .. => false | _ => true) || axes.any (axisEmpty parent)
  let ex (k : Nat) : Int := packExp (extent parent k)
  let exByte (k : Nat) : Nat := if off then 0xFF else (ex k + 128).toNat
  let lo (k : Nat) : Nat := if empty || off then 0xFF else packBound false (boxValue child k) (boxValue parent k) (ex k)
  let hi (k : Nat) : Nat := if empty || off then 0 else packBound true (boxValue child (k + 3)) (boxValue parent k) (ex k)
  [lo 0 + 2 ^ 8 * lo 1 + 2 ^ 16 * lo 2 + 2 ^ 24 * hi 0, hi 1 + 2 ^ 8 * hi 2, exByte 0 + 2 ^ 8 * exByte 1 + 2 ^ 16 * exByte 2]
/-- R237 -/
def execNpack (o : GfxDAS) (s : State) : Outcome :=
  perform s fun h => do
    let a := o.s.toNat
    orIllegal (decide (o.d.toNat ≤ 117) && decide (o.a.toNat ≤ 114) && decide (a ≤ 58) && h.sregOk (a + 5))
    let as ← h.source o.a 6
    let ds ← h.block o.d 3
    let parent := (List.range 6).map fun k => (h.sreg (a + k)).toNat
    let sBad := (List.range 6).any fun k => h.sMark (a + k)
    .ok (advance h (putBlock h s ds (fun i => npackValue (h.blockWords as i) parent) fun i => sBad || h.blockBad as i))

end Sys2Proof.Machine
end

