-- ==== Sys2Proof/Machine/WaitEvents.lean ====
section
/-! DEFINITION. Steps that end what a fibre waits for: WAIT_END, WAIT_DEADLINE, IDES_POINT, MONITOR_POLL, LENT_HOLD_EXPIRY,
SCOUT_END, URGENT, and the posting of held records. A step whose condition does not hold does nothing. -/

namespace Sys2Proof.Machine

/-- Whether a wave's gang runs; while it does not, none of its waits ends (R35, R307). -/
def gangRuns (s : State) (w : Nat) : Bool := (get? s.gangs (gangOf s w)).any fun g => g.state == .running
/-- A fibre's wait, while its gang runs. -/
def liveWait (s : State) (w k : Nat) : Option Wait := if gangRuns s w then (fibreAt s w k).wait else none

/-- Whether WAIT_END has something to do. -/
def canEnd (s : State) (w k : Nat) : Bool :=
  match liveWait s w k with
  | some x => (match x.kind with | .hold _ => false | _ => true) && ((tryEnd s w k x).isSome || flushDue s w k x)
  | none => false
/-- R33: a wait whose condition holds ends; a fence first asks the peers at which its fibre has written (R119). -/
def execWaitEnd (w f : Nat) (s : State) : Outcome :=
  match liveWait s w f with
  | some x => event ((tryEnd s w f x).getD (if flushDue s w f x then flushFar s w f else s))
  | none => event s

/-- Whether a wait's deadline has been reached; a POLLING wait that has been restored first tests its condition (R35). -/
def deadlineDue (s : State) (w k : Nat) : Bool :=
  (liveWait s w k).any fun x => x.kind.timed && !x.stale && reached s (tagOf s w) x.deadline
/-- R33: a wait's deadline. -/
def execWaitDeadline (w f : Nat) (s : State) : Outcome :=
  match liveWait s w f with
  | some x => event (if deadlineDue s w f then handleExpiry s w f x else s)
  | none => event s

/-- Whether a wait's Ides point has been reached. -/
def idesDue (s : State) (w k : Nat) : Bool :=
  (liveWait s w k).any fun x => x.kind.timed && !x.stale && decide (x.ides ≤ contextTime s (tagOf s w))
/-- R36: a wait's Ides point. -/
def execIdesPoint (w f : Nat) (s : State) : Outcome :=
  match liveWait s w f with
  | some x => event (if idesDue s w f then handleExpiry s w f x else s)
  | none => event s

/-- What a wait of `monw` or `gbar` watches (R113, R212). -/
def Wait.watch (x : Wait) (w k : Nat) : Option Monitor :=
  match x.kind with
  | .monw addr wide cond operand _ => some { addr, wide, cond, operand, who := .fibre w k }
  | .gbar addr gen => some { addr := addr + 8, wide := false, cond := 1, operand := gen.setWidth 64, who := .fibre w k }
  | _ => none
/-- A fibre's wait, while its gang runs or has been swapped out by it: reads go on in both cases (R113, R214). -/
def polledWait (s : State) (w k : Nat) : Option Wait :=
  if (get? s.gangs (gangOf s w)).any fun g => g.state == .running || (g.state == .saved && g.waitSwapped) then (fibreAt s w k).wait else none
/-- Whether a POLLING wait reads its word again: 2,048 clk after its last read (R113), and at once when its gang has been restored
(R35). -/
def pollDue (s : State) (w k : Nat) : Bool :=
  (polledWait s w k).any fun x => (x.watch w k).isSome && x.monitor.isNone && (x.stale || decide (x.polled + 2048 ≤ s.clk))
/-- A wait changed. -/
def modWait (s : State) (w k : Nat) (g : Wait → Wait) : State := modFibre s w k fun f => { f with wait := f.wait.map g }
/-- The read of a POLLING wait whose gang is swapped out has decided, by its comparison or by poison: the wait ends when the
gang is placed (R35). -/
def markWoken (s : State) (w k : Nat) (m : Monitor) (v : Quad) (bad : Bool) : State :=
  let u := s.takeUid
  modWait { u.1 with monitors := put u.1.monitors u.2 { m with woken := some v, bad := bad, entry := false } } w k fun x =>
    { x with last := if bad then x.last else v, monitor := some u.2, stale := false }
/-- A POLLING wait's read (R113): true ends it, false takes an entry if one is free, and poison traps (R394). What a read that
meets row 3, 4 or 5 of R186 does is not said: the wait goes on POLLING (DESIGN CHOICE, log 33). -/
def pollMonitor (s : State) (w k : Nat) (x : Wait) (m : Monitor) : State :=
  let s := modWait s w k fun x => { x with polled := s.clk }
  match placeOf s m.addr.toNat with
  | .peer _ _ =>
    let t := askMonitor s w k m
    if t.requests.any fun p => p.2.who = .monitor w k then t else modWait t w k fun x => { x with stale := false }
  | _ =>
    let n := if m.wide then 8 else 4
    let c := check s (some (tagOf s w)) m.addr.toNat (match x.kind with | .gbar .. => rightAtomic | _ => rightRead) true false true
    match c.2 with
    | .ok =>
      let v := BitVec.ofNat 64 (ofBytes (readGlobal c.1 m.addr.toNat n))
      if monTrue m.cond v.toNat m.operand.toNat && !(gangRuns c.1 w) then markWoken c.1 w k m v false
      else if monTrue m.cond v.toNat m.operand.toNat then
        let s1 := match x.kind with | .monw _ wide _ _ a => putValue c.1 w k x.sup wide a v | _ => c.1
        concludeWait s1 w k x 0
      else
        let t := armMonitor c.1 m
        modWait t.1 w k fun x => { x with last := v, monitor := t.2, stale := false }
    | .host a => askHost c.1 a
    | .fail 6 _ _ => if gangRuns c.1 w then poisonWord c.1 w k x m.addr else markWoken c.1 w k m 0 true
    | _ => modWait (forgetRefused c.1 m.addr.toNat) w k fun x => { x with stale := false }
/-- R113 -/
def execMonitorPoll (w f : Nat) (s : State) : Outcome :=
  match polledWait s w f with
  | some x =>
    match x.watch w f with
    | some m => event (if pollDue s w f then pollMonitor s w f x m else s)
    | none => event s
  | none => event s

/-- Whether a Lent hold has run out (R309). -/
def lentDue (s : State) (w k : Nat) : Bool :=
  (liveWait s w k).any fun x => match x.kind with | .hold t => decide (t ≤ s.clk) | _ => false
/-- R309 -/
def execLentHoldExpiry (w f : Nat) (s : State) : Outcome := event (if lentDue s w f then wakeRetry s w f else s)

/-- Whether a strand of a waiting group can be admitted now (R226). -/
def admitDue (s : State) (w k : Nat) : Bool :=
  (liveWait s w k).any fun x => decide (x.kind = .procEnter) && (lanesIn x.lanes).any (canAdmit s w k)
/-- R226: the strands of a waiting group that can be admitted are; with the last of them `proc.enter` returns. -/
def execProcessionAdmit (w f : Nat) (s : State) : Outcome :=
  match liveWait s w f with
  | some x => event (if x.kind = .procEnter then (tryEnd s w f x).getD (admitGroup s w f x.lanes) else s)
  | none => event s

/-! ## Scout mode ends (R38) -/

/-- The registers of a checkpoint put back, but for those of shared regions (R37). -/
def restoreRegs (h : Header) (lo : Nat) (regs : List Row) (alloc : List Row) : List Row :=
  alloc.zipIdx.map fun p => if lo ≤ p.2 && decide (p.2 < lo + regs.length) && !(h.isShared p.2) then regs.getD (p.2 - lo) p.1 else p.1
/-- The marks of poisoned lanes put back with the registers of a checkpoint (R392). -/
def restoreMarks (h : Header) (lo n : Nat) (bad now : List (Nat × Lanes)) : List (Nat × Lanes) :=
  bad.foldl (fun t m => put t m.1 m.2) (now.filter fun m => !(decide (lo ≤ m.1 ∧ m.1 < lo + n)) || h.isShared m.1)
/-- A checkpoint restored, and with it how the fibre stood in the choice of its groups (R24). -/
def restoreCheckpoint (s : State) (w k : Nat) (c : Checkpoint) : State :=
  let h := headerOf s (gangOf s w)
  modFibre (modWave s w fun y => { y with
      alloc := restoreRegs h (h.winOf k).1 c.regs y.alloc, bad := restoreMarks h (h.winOf k).1 c.regs.length c.bad y.bad }) w k fun f =>
    { f with pcs := c.pcs, exited := c.exited, s := c.s, m := c.m, wbase := c.wbase, cursor := c.cursor, ages := c.ages }
/-- The record of a scout run (R38, R350). -/
def scoutRecord (s : State) (w k : Nat) (c : Scout) : Record := { fibreRecord s w k c.code c.addr c.info c.lanes with pages := c.pages }
/-- Whether a scout run has ended and its fibre has still to park; an instruction that has been issued is first done with. -/
def scoutDue (s : State) (w k : Nat) : Bool :=
  let f := fibreAt s w k
  gangRuns s w && f.state != .halted && f.wait.isNone && f.retry.isNone && f.scout.any (·.ended)
/-- R38: the fibre restores its checkpoint, posts one record of every page, and parks; its slot passes as the
faulting instruction's prefix says (R29). -/
def endScout (s : State) (w k : Nat) : State :=
  match (fibreAt s w k).scout with
  | none => s
  | some c => parkFibre (restoreCheckpoint s w k c.cp) w k c.hint c.cp (scoutRecord s w k c) c.kept
/-- R38 -/
def execScoutEnd (w f : Nat) (s : State) : Outcome := event (if scoutDue s w f then endScout s w f else s)

/-! ## Urgency and held records -/

/-- R23: a fibre whose counter has reached 256 is urgent. -/
def execUrgent (w f : Nat) (s : State) : Outcome :=
  event (if 256 ≤ (fibreAt s w f).urgency then modFibre s w f fun y => { y with urgent := true } else s)

/-- Whether an origin's oldest held record can be posted now (R352). -/
def heldDue (s : State) (o : Origin) : Bool := bufferOpen s && s.posting.isEmpty && s.held.any fun h => h.1 == o
/-- The oldest record of an origin taken out of those held. -/
def takeHeld : List (Origin × Record) → Origin → List (Origin × Record)
  | [], _ => []
  | h :: t, o => if h.1 = o then t else h :: takeHeld t o
/-- R352: held records post oldest first from each origin. -/
def execHeldRecordPost (origin : Origin) (s : State) : Outcome :=
  if heldDue s origin then
    match s.held.find? fun h => h.1 = origin with
    | some h => event (drainPosting { s with held := takeHeld s.held origin, posting := [h] })
    | none => event s
  else event s

end Sys2Proof.Machine
end

