-- ==== Sys2Proof/Machine/Home.lean ====
section
/-! DEFINITION. What a peer's request does at its home slice (R370, R371): each operation checked under rows 2, 5 and 6 of
R186, performed, and answered. -/

namespace Sys2Proof.Machine

/-! ## Requests and responses -/

/-- Fields of a REQ body (R370). -/
def reqOpc (f : Flit) : Nat := numAt (flitBody f) 0 1
def reqSize (f : Flit) : Option Nat := sizeOf (numAt (flitBody f) 1 1)
def reqTag (f : Flit) : Nat := numAt (flitBody f) 2 2
def reqAddr (f : Flit) : Nat := numAt (flitBody f) 4 8
def reqNoResp (f : Flit) : Bool := bitOf (numAt (flitBody f) 12 1) 1
def reqSub (f : Flit) : Nat := numAt (flitBody f) 13 1
def reqImm (f : Flit) : List Byte := padTo 36 ((flitBody f).drop 16)
/-- A DATA flit's unit index and bytes (R369). -/
def unitOf (f : Flit) : Nat × List Byte := (numAt (flitBody f) 2 2, padTo 48 ((flitBody f).drop 4))
/-- DATA units in the order of their indices (R369). -/
def dataOf (us : List (Nat × List Byte)) : List Byte := (List.range us.length).flatMap fun k => padTo 48 ((get? us k).getD [])

/-- What a request came to: a status with its attribute, or a value for the response and bytes for DATA flits. -/
inductive Served where
  | fail (status attr : Nat) (value : List Byte := [])
  | done (value data : List Byte)
/-- The logical time and lease of an address's line, as a response carries them (R100, R370). -/
def ltimeOf (s : State) (addr : Nat) : Quad :=
  match placeOf s addr with
  | .own o => Config.ltime (lineTime s o).wrote (lineTime s o).lease
  | _ => Config.ltime 0 0
/-- A response leaves for the requester, which must not be DOWN (R372). -/
def respond (s : State) (d opc tag addr : Nat) (r : Served) : State :=
  if !(reachable s d) then s
  else
    let head (st attr : Nat) (value : List Byte) : Flit :=
      ownFlit s 2 d (toBytes 1 opc ++ toBytes 1 st ++ toBytes 2 tag ++ toBytes 1 attr ++ toBytes 3 0 ++ toBytes 8 (ltimeOf s addr).toNat
        ++ padTo 36 value)
    match r with
    | .fail st attr value => sendRouted s d addr [head st attr value]
    | .done value data => sendRouted s d addr (head 0 0 value :: ((unitsOf data).zipIdx.map fun u => ownFlit s 3 d (dataBody tag u.2 u.1)))

/-- The bytes at which an access of a request is checked: its 16-byte units. -/
def accessProbes (a n : Nat) : List Nat := a :: ((unitsOfRange a n).filter (a < ·))
/-- The answer to an access that fails: the attribute of a translation fault, and walk level 3 for row 2 (R370, log 24). -/
def refuseRow (row level : Nat) (write : Bool) : Served :=
  .fail (rowStatus row) (if row = 5 then level % 4 + 4 * bit write else if row = 2 then 3 else 0)
/-- A request's access checked (R97, R186): its status and attribute when it fails. Rights are the requester's matter; poison
that is met is logged (R393). -/
def serveCheck (s : State) (a n : Nat) (reads writes : Bool) : State × Option Served :=
  (accessProbes a n).foldl (fun r x =>
    match r.2 with
    | some _ => r
    | none =>
      match placeOf r.1 x with
      | .own o =>
        let c := checkOwn r.1 o reads writes
        match c.2 with
        | .ok => (c.1, none)
        | .fail row level _ => (if row = 6 then logPoison c.1 none x else c.1, some (refuseRow row level writes))
        | _ => (c.1, some (refuseRow 2 0 writes))
      | _ => (r.1, some (refuseRow 2 0 writes))) (s, none)
/-- Nobody of this device: who writes for a peer. -/
def peerWriter : Nat × Nat × Nat := (0, 0, 0)
/-- Whether an access of `n` bytes lies whole within what one request may reach. -/
def sizeFits (s : State) (a n : Nat) : Bool :=
  if n ≤ 16 then a % n == 0
  else match placeOf s a with
    | .own o => secOff s o == 0
    | _ => false

/-- The leases that a reader of some bytes is granted, line by line (R100). -/
def leaseLines (s : State) (a n : Nat) : State :=
  (List.range (ceilDiv n 192)).foldl (fun s k => match placeOf s (a + 192 * k) with | .own o => (grantLease s o 0).1 | _ => s) s
/-- The images of the sectors of some bytes as they lie, tags or not (R117, R296). -/
def rawBytes (s : State) (a n : Nat) : List Byte :=
  match placeOf s a with
  | .own o => if n < 48 then padTo n ((sectorAt s o).bytes.drop (secOff s o)) else (List.range (n / 48)).flatMap fun k => rawSector s (a + 48 * k)
  | _ => []
/-- READ: a sector or a line comes as its raw images, a smaller read as a load sees it (R117, R370); SUB bit 0 asks for the raw
image of a smaller one as well, bit 1 for the check that a write would meet too, and bit 2 for that of a write which reads nothing (log
25). -/
def serveRead (s : State) (a n sub : Nat) : State × Served :=
  let c := serveCheck s a n (!(bitOf sub 2)) (bitOf sub 1 || bitOf sub 2)
  match c.2 with
  | some r => (c.1, r)
  | none =>
    if bitOf sub 2 then (c.1, .done [] (List.replicate n 0))
    else (leaseLines c.1 a n, .done [] (if n < 48 && !(bitOf sub 0) then readGlobal c.1 a n else rawBytes c.1 a n))
/-- WRITE -/
def serveWrite (s : State) (a n : Nat) (bs : List Byte) : State × Served :=
  let c := serveCheck s a n false true
  match c.2 with
  | some r => (c.1, r)
  | none =>
    let step : Nat := if n < 48 then n else 48
    ((List.range (n / step)).foldl (fun s k => writeGlobal s (a + step * k) (padTo step (bs.drop (step * k))) peerWriter) c.1, .done [] [])
/-- ATOMIC -/
def serveAtomic (s : State) (a sub : Nat) (imm : List Byte) : State × Served :=
  let oper := sub % 16
  let wide := sub / 16 % 4
  if 9 < oper || 2 < wide || (wide = 2 && oper = 9) then (s, refuseRow 2 0 false)
  else
    let w := if wide = 1 then 64 else 32
    let parts : List AtomPart :=
      if wide = 2 then [{ offset := 0, b := numAt imm 0 4, nv := 0 }, { offset := 4, b := numAt imm 4 4, nv := 0 }]
      else [{ offset := 0, b := numAt imm 0 8 % 2 ^ w, nv := numAt imm 8 8 % 2 ^ w }]
    let c := serveCheck s a 4 true false
    match c.2 with
    | some r => (c.1, r)
    | none =>
      let writes := parts.any fun p => (atomNew oper w (ofBytes (readGlobal c.1 (a + p.offset) (w / 8))) p.b p.nv).isSome
      let d := serveCheck c.1 a 4 true writes
      match d.2 with
      | some r => (d.1, r)
      | none =>
        let y := strandHere peerWriter d.1 oper w a parts
        (y.1, .done (toBytes 8 y.2) [])
/-- The format of a contribution's SUB. -/
def cellFmtOf : Nat → Option CellFmt
  | 0 => some (.float .f32)
  | 1 => some (.float .f16)
  | 2 => some (.float .bf16)
  | 3 => some .s32
  | 4 => some .s64
  | _ => none
/-- CONTRIB and CELLMERGE: an update of one cell as one access (R92, R116). -/
def serveCell (s : State) (a : Nat) (f : Cell → Cell) : State × Served :=
  let c := serveCheck s a 48 true true
  match c.2 with
  | some r => (c.1, r)
  | none => (putCell c.1 a (f (Cell.read (rawSector c.1 a))) peerWriter, .done [] [])
/-- MONARM: the value read, and whether an entry was taken (R113, R370). -/
def serveMonarm (s : State) (p d tag a n sub : Nat) (imm : List Byte) : State × Served :=
  let c := serveCheck s a n true false
  match c.2 with
  | some r => (c.1, r)
  | none =>
    let v := ofBytes (readGlobal c.1 a n)
    let wide := bitOf sub 3
    let m : Monitor := { addr := BitVec.ofNat 64 a, wide, cond := BitVec.ofNat 3 sub
                         operand := BitVec.ofNat 64 (numAt imm 0 (if wide then 8 else 4)), who := .peer p d tag (numAt imm 8 4) }
    if monTrue m.cond v m.operand.toNat then (c.1, .done (toBytes 8 v ++ [0]) [])
    else
      let t := armMonitor c.1 m
      (t.1, .done (toBytes 8 v ++ [if t.2.isSome then 1 else 2]) [])
/-- MONCANCEL -/
def serveMoncancel (s : State) (d : Nat) (imm : List Byte) : State × Served :=
  ({ s with monitors := s.monitors.filter fun m => match m.2.who with
      | .peer _ e _ n => !(e == d && n == numAt imm 8 4)
      | _ => true }, .done [] [])
/-- An event of R109 as a SLICEOP carries it: kind, count, generation, status (R358). -/
def sliceEvent (imm : List Byte) : BarrierEvent :=
  let n := numAt imm 4 4
  match numAt imm 0 4 with
  | 0 => .arrive n
  | 1 => .expect n
  | 2 => .copied n (numAt imm 12 4)
  | 3 => .engine (numAt imm 12 4)
  | _ => .withdraw n (numAt imm 8 4)
/-- A peer's fence or completing launch reaches this device: all dirty lines that the host shares are written back; an answer that names
the first that could not be has its address in the value field (R118, R119, log 64). -/
def serveFlush (s : State) : State × Served :=
  let w := fenceWriteBack s
  match w.2 with
  | none => (w.1, .done [] [])
  | some u =>
    match refuseRow u.row u.level true with
    | .fail st attr _ => (if u.row = 6 then logPoison w.1 none u.addr else w.1, .fail st attr (toBytes 8 u.addr))
    | r => (w.1, r)
/-- SLICEOP: an event on a saved barrier image, a grid barrier's arrival, or its withdrawal (R212, R358); SUB 3 is a flush (log 64). -/
def serveSlice (s : State) (a sub : Nat) (imm : List Byte) : State × Served :=
  if sub = 3 then serveFlush s
  else if 2 < sub || a % 16 != 0 then (s, refuseRow 2 0 false)
  else
    let c := serveCheck s a 16 true true
    match c.2 with
    | some r => (c.1, r)
    | none =>
      if sub = 0 then
        (writeGlobal c.1 a ((Barrier.read (readGlobal c.1 a 16)).apply (sliceEvent imm)).bytes peerWriter, .done [] [])
      else
        let b := gridAt c.1 a
        let n := if sub = 1 then b.arrive else b.withdraw (numAt imm 8 4)
        (putGrid c.1 a n peerWriter, .done (toBytes 4 b.gen ++ toBytes 4 n.gen) [])
/-- UNITOP: a list operation performed whole by this device (R230); SUB 5 is a trace's append (log 25). -/
def serveUnit (s : State) (fn : Nat) (imm data : List Byte) : State × Served :=
  match listCtx (wordsOf 5 imm) with
  | none => (s, refuseRow 2 0 false)
  | some c =>
    if !c.imm || fn = 0 || 5 < fn then (s, refuseRow 2 0 false)
    else
      let e : ListEnv := { tag := none, gang := 0, hdr := headerOf s 0, who := peerWriter, engine := fn = 5 }
      match listPerform e c fn s (wordsOf (listBlocks fn).1 data) with
      | .ok (x, y) => (x.s, .done [] (padTo 48 ((listWords fn y).flatMap fun w => toBytes 4 w.toNat)))
      | .error (.fail a row level _) => ((serveCheck s a 1 true false).1, refuseRow row level (fn != 3))
      | .error _ => (s, refuseRow 2 0 false)

/-- A request performed at its home slice, with the units that came with it (R370). -/
def serveRequest (s : State) (p : Nat) (f : Flit) (us : List (Nat × List Byte)) : State × Served :=
  let a := reqAddr f
  let imm := reqImm f
  match reqSize f with
  | none => (s, refuseRow 2 0 false)
  | some n =>
    if reqOpc f != 7 && reqOpc f != 9 && !(sizeFits s a n) then (s, refuseRow 2 0 false)
    else match reqOpc f with
      | 1 => serveRead s a n (reqSub f)
      | 2 => serveWrite s a n (dataOf us)
      | 3 => serveAtomic s a (reqSub f) imm
      | 4 =>
        match cellFmtOf (reqSub f) with
        | some t => serveCell s a fun c => c.add (t.value (numAt imm 0 8))
        | none => (s, refuseRow 2 0 false)
      | 5 => serveCell s a fun c => c.merge (Cell.read (padTo 48 (dataOf us)))
      | 6 => serveMonarm s p (flitSrc f) (reqTag f) a n (reqSub f) imm
      | 7 => serveMoncancel s (flitSrc f) imm
      | 8 => serveSlice s a (reqSub f) imm
      | 9 => serveUnit s (reqSub f) imm (dataOf us)
      | _ => (s, refuseRow 2 0 false)

/-- Monitors of peers that have woken send their second response (R370); one whose read met poison reports it (R394). -/
def sendWakes (s : State) : State :=
  let woken := s.monitors.filterMap fun m => match m.2.who, m.2.woken with
    | .peer _ d tag _, some v => some (m, d, tag, v)
    | _, _ => none
  woken.foldl (fun s x =>
    let bad := x.1.2.bad
    let s1 := if bad then logPoison s none x.1.2.addr.toNat else s
    respond { s1 with monitors := del s1.monitors x.1.1 } x.2.1 6 x.2.2.1 x.1.2.addr.toNat
      (if bad then .fail 15 0 else .done (toBytes 8 x.2.2.2.toNat) [])) s

end Sys2Proof.Machine
end

