-- ==== Sys2Proof/Machine/Kernel.lean ====
section
/-! DEFINITION. Kernel objects (R143, R144) and launch descriptors (R17, R18) as the device reads and checks them. -/

namespace Sys2Proof.Machine

/-! ## Kernel objects -/

/-- The header of 192 bytes at an address, with a dictionary (R143). -/
def parseHeader (addr : Quad) (bs : List Byte) (dict : List Word) : Header :=
  let k := numAt bs 0x0B 1
  { addr, regs := numAt bs 0x08 2, fibres := numAt bs 0x0A 1, members := k
    scratch := ceilDiv (numAt bs 0x0C 4) 32768 * 32768, acc := numAt bs 0x10 1
    stages := (List.range k).map fun i => bitsOf (numAt bs 0x11 1) (2 * i + 1) (2 * i)
    waves := (List.range k).map fun i => numAt bs (0x14 + i) 1
    win := (List.range 4).map fun f => (numAt bs (0x18 + 4 * f) 2, numAt bs (0x1A + 4 * f) 2)
    shared := (List.range 4).map fun e =>
      let x := numAt bs (0x28 + 4 * e) 4
      (bitsOf x 8 0, bitsOf x 18 9, bitsOf x 22 19)
    entry := (List.range 16).map fun e => numAt bs (0x38 + 4 * e) 4
    coff := numAt bs 0x80 4, clen := numAt bs 0x84 4, dict, doff := numAt bs 0x7C 4 }
/-- Dictionary entries: their count and the place of the first (R143). -/
def dictSpan (bs : List Byte) : Nat × Nat := (numAt bs 0x78 4, numAt bs 0x7C 4)
/-- Dictionary words from the bytes of the dictionary: the parcel with bits 31:16 first. -/
def dictWords (n : Nat) (bs : List Byte) : List Word :=
  (List.range n).map fun k => BitVec.ofNat 32 (2 ^ 16 * numAt bs (4 * k) 2 + numAt bs (4 * k + 2) 2)

/-- A register range of a fibre and one of a shared region meet only as R55 allows: two windows overlap only inside a region
that names both. -/
def windowsOk (h : Header) : Bool :=
  (List.range h.fibres).all fun f => (List.range h.fibres).all fun g =>
    f == g ||
      let lo := max (h.winOf f).1 (h.winOf g).1
      let hi := min (h.winOf f).2 (h.winOf g).2
      (List.range (hi - lo)).all fun j =>
        h.shared.any fun x => bitOf x.2.2 f && bitOf x.2.2 g && decide (x.1 ≤ lo + j ∧ lo + j < x.2.1)
/-- The bits that a mask has. -/
def bitCount (n x : Nat) : Nat := ((List.range n).filter (bitOf x)).length
/-- The fields of a header that stand alone (R143, R144). -/
def headerFieldsOk (bs : List Byte) : Bool :=
  let k := numAt bs 0x0B 1
  numAt bs 0 4 == 0x4B4E4C49 && numAt bs 4 2 == 1 && numAt bs 6 2 == 0 && numAt bs 0x12 2 == 0 && numAt bs 0x90 48 == 0
    && numAt bs 8 2 % 16 == 0 && decide (16 ≤ numAt bs 8 2 ∧ numAt bs 8 2 ≤ 512)
    && decide (1 ≤ numAt bs 0x0A 1 ∧ numAt bs 0x0A 1 ≤ 4) && decide (1 ≤ k ∧ k ≤ 4)
    && decide (numAt bs 0x0C 4 ≤ 524288) && decide (numAt bs 0x10 1 ≤ 16) && numAt bs 0x11 1 / 4 ^ k == 0
    && ((List.range 4).all fun i => let w := numAt bs (0x14 + i) 1; if i < k then decide (1 ≤ w ∧ w ≤ 32) else w == 0)
    && ((List.range 4).all fun f => decide (f < numAt bs 0x0A 1) || numAt bs (0x18 + 4 * f) 4 == 0)
    && ((List.range 4).all fun e => bitsOf (numAt bs (0x28 + 4 * e) 4) 31 23 == 0)
/-- The ranges of an object: inside the address space, past the header, on the boundaries of R143. -/
def objectSpansOk (addr : Quad) (bs : List Byte) : Bool :=
  let span (off len : Nat) : Bool := len == 0 || (decide (192 ≤ off) && decide (addr.toNat + off + len ≤ 2 ^ 64))
  let d := dictSpan bs
  decide (d.1 ≤ 1024) && d.2 % 4 == 0 && numAt bs 0x80 4 % 2 == 0 && numAt bs 0x84 4 % 2 == 0 && decide (2 ≤ numAt bs 0x84 4)
    && (numAt bs 0x8C 4 != 0 || numAt bs 0x88 4 == 0)
    && span d.2 (4 * d.1) && span (numAt bs 0x80 4) (numAt bs 0x84 4) && span (numAt bs 0x88 4) (numAt bs 0x8C 4)
/-- Windows, shared regions, entries and claims (R144). A used shared region whose first register lies above its first after
is rejected, and an empty one is accepted; the checks of R144 name neither (DESIGN CHOICE, log 29). -/
def headerOk (h : Header) : Bool :=
  ((List.range h.fibres).all fun f => decide ((h.winOf f).1 < (h.winOf f).2 ∧ (h.winOf f).2 ≤ h.regs))
    && (h.shared.all fun x => x.2.2 == 0
      || (decide (x.2.1 ≤ h.regs) && decide (x.1 ≤ x.2.1) && decide (2 ≤ bitCount 4 x.2.2) && x.2.2 / 2 ^ h.fibres == 0))
    && windowsOk h
    && (h.stages.all fun s => (List.range h.fibres).all fun f => decide (h.entry.getD (4 * s + f) 0xFFFFFFFF < h.clen / 2))
    && ((List.range h.members).all fun m => decide (regGranules h m ≤ 16)) && decide (scratchGranules h ≤ 16)
/-- Whether a dictionary entry is neither a prefix nor another dictionary parcel (R127, R144). -/
def dictOk (ws : List Word) : Bool := ws.all fun w => decide (w.toNat / 2 ^ 26 < 62)
/-- Whether an empty cluster could hold a gang (R21, R337). -/
def everFits (h : Header) : Bool :=
  (List.range h.members).all fun m => decide (regGranules h m + scratchGranules h ≤ 22)

/-- What reading and checking a kernel object came to. -/
inductive Loaded where
  | ok (h : Header)
  /-- Not readable (row, level, present but not writable, address), or a check that failed. -/
  | unreadable (row level : Nat) (readOnly : Bool) (addr : Nat)
  | invalid
  | pending
/-- Two reads in turn, each of which can wait or fail. -/
def thenRead {α : Type} (r : State × Done (List Byte)) (bad : Done (List Byte) → α) (k : State → List Byte → State × α) : State × α :=
  match r.2 with
  | .ok bs => k r.1 bs
  | d => (r.1, bad d)
/-- What a read that gave no bytes makes of a kernel object. -/
def Loaded.ofDone : Done (List Byte) → Loaded
  | .fail row level ro a => .unreadable row level ro a
  | _ => .pending
/-- A kernel object read as a context and checked (R144); the answers of peers stay until the step that reads it is done. -/
def loadKernel (s : State) (tag : Option Nat) (need : Nat) (addr : Quad) : State × Loaded :=
  thenRead (readKeep s tag addr.toNat 192 need) .ofDone fun s bs =>
    if !(headerFieldsOk bs) || !(objectSpansOk addr bs) then (s, .invalid)
    else
      let n := (dictSpan bs).1
      thenRead (readKeep s tag (addr.toNat + (dictSpan bs).2) (4 * n) need) .ofDone fun s ds =>
        let h := parseHeader addr bs (dictWords n ds)
        (s, if headerOk h && dictOk h.dict then .ok h else .invalid)

/-! ## Launch descriptors (R17, R18) -/

/-- Whether the fields of a descriptor pass, other than the ranges (R18). -/
def descFieldsOk (bs : List Byte) : Bool :=
  let ctl := numAt bs 8 4
  let aligned8 (off : Nat) : Bool := numAt bs off 8 % 8 == 0
  ctl % 256 == 1 && ctl / 2 ^ 13 == 0 && numAt bs 0x14 4 == 0 && numAt bs 0xB0 4 / 2 ^ 10 == 0 && numAt bs 0xB4 12 == 0
    && numAt bs 0xC 4 != 0 && numAt bs 0x10 2 != 0 && numAt bs 0x12 2 != 0
    && decide (numAt bs 0xC 4 * numAt bs 0x10 2 * numAt bs 0x12 2 ≤ 2 ^ 32 - 1)
    && numAt bs 0 8 % 192 == 0 && aligned8 0x18 && aligned8 0x28 && aligned8 0x38 && aligned8 0x48
    && (!(bitOf ctl 12) || (numAt bs 0x58 8 % 16 == 0 && numAt bs 0x58 8 != 0))
    && (numAt bs 0xB0 4 == 0 || decide (numAt bs 0xA0 8 < numAt bs 0xA8 8))
/-- The output ranges of a descriptor. -/
def descOuts (bs : List Byte) : List (Quad × Quad) :=
  (List.range 4).map fun k => (BitVec.ofNat 64 (numAt bs (0x60 + 16 * k) 8), BitVec.ofNat 64 (numAt bs (0x68 + 16 * k) 8))
/-- Used output ranges end inside the address space and do not overlap (R18). -/
def descRangesOk (bs : List Byte) : Bool :=
  let used := (descOuts bs).zipIdx.filter fun x => x.1.2 != 0
  let endOf (x : Quad × Quad) : Nat := x.1.toNat + x.2.toNat
  (used.all fun x => decide (endOf x.1 ≤ 2 ^ 64)) &&
    used.all fun x => used.all fun y =>
      x.2 == y.2 || decide (endOf x.1 ≤ y.1.1.toNat) || decide (endOf y.1 ≤ x.1.1.toNat)
/-- The dependences that a descriptor uses. -/
def descDeps (bs : List Byte) : List Dep :=
  [0x38, 0x48].filterMap fun o =>
    if numAt bs o 8 = 0 then none else some { addr := BitVec.ofNat 64 (numAt bs o 8), value := numAt bs (o + 8) 8 }

/-- Why a launch is rejected: its code (R337). -/
inductive Accepted where
  | ok (l : Launch)
  | rejected (err : Nat)
  | pending
/-- What a read that gave no bytes makes of a launch. -/
def Accepted.ofDone : Done (List Byte) → Accepted
  | .fail .. => .rejected 3
  | _ => .pending
/-- The launch that a descriptor, its kernel object and its arguments describe. -/
def launchOf (q : Nat) (x : Queue) (desc : Quad) (hdr : Header) (bs as : List Byte) : Launch :=
  let ctl := numAt bs 8 4
  let quad (o : Nat) : Quad := BitVec.ofNat 64 (numAt bs o 8)
  { desc, queue := q, tag := x.owner.getD 0, hdr, prio := min (bitsOf ctl 10 8) x.pmax, replay := bitOf ctl 11, digest := bitOf ctl 12
    gx := numAt bs 0xC 4, gy := numAt bs 0x10 2, gz := numAt bs 0x12 2
    args := (List.range 8).map fun j => BitVec.ofNat 32 (numAt as (4 * j) 4)
    start := quad 0x20, signalVa := quad 0x28, signalValue := quad 0x30, deps := descDeps bs, digestVa := quad 0x58
    outs := descOuts bs, lentLo := quad 0xA0, lentHi := quad 0xA8, lentDelay := numAt bs 0xB0 4, entryIdx := x.head.toNat }
/-- A descriptor, its kernel object and its argument block read as the queue's context, and checked (R18, R144, R337). -/
def acceptLaunch (s : State) (q : Nat) (x : Queue) (desc : Quad) : State × Accepted :=
  thenRead (readKeep s x.owner desc.toNat 192 rightRead) .ofDone fun s bs =>
    if desc.toNat % 192 != 0 || !(descFieldsOk bs) then (s, .rejected 4)
    else if !(descRangesOk bs) then (s, .rejected 5)
    else
      let k := loadKernel s x.owner rightRead (BitVec.ofNat 64 (numAt bs 0 8))
      match k.2 with
      | .pending => (k.1, .pending)
      | .unreadable .. => (k.1, .rejected 3)
      | .invalid => (k.1, .rejected 6)
      | .ok hdr =>
        if !(everFits hdr) then (k.1, .rejected 7)
        else
          let a := numAt bs 0x18 8
          thenRead (if a = 0 then (k.1, .ok (List.replicate 32 0)) else readKeep k.1 x.owner a 32 rightRead) .ofDone fun s as =>
            (s, .ok (launchOf q x desc hdr bs as))
/-- A launch read in one step or over several, the answers it has waited for dropped at its end. -/
def readLaunch (s : State) (q : Nat) (x : Queue) (desc : Quad) : State × Accepted :=
  let r := acceptLaunch s q x desc
  (endReads r.1 (match r.2 with | .pending => true | _ => false), r.2)

end Sys2Proof.Machine
end

