-- ==== Sys2Proof/Machine/Queues.lean ====
section
/-! DEFINITION. The queue manager: doorbells, enabling and disabling of queues, ring entries, the acceptance of launches, and
what makes a launch ready (R329 to R334, R337). -/

namespace Sys2Proof.Machine

/-! ## Queues (R330, R332, R337) -/

/-- A field of a queue-table entry that is not as R332 demands. -/
def queueFieldsOk (bs : List Byte) : Bool :=
  let cfg := numAt bs 8 4
  decide (4 ≤ cfg % 32 ∧ cfg % 32 ≤ 16) && bitsOf cfg 23 16 != 0 && numAt bs 0 8 % 16 == 0 && !(bitOf cfg 14) && bitsOf cfg 31 24 == 0
    && numAt bs 12 4 == 0 && numAt bs 40 24 == 0
/-- The queue that a table entry describes, idle with its counters at 0 (R330, R332). -/
def queueFrom (bs : List Byte) : Queue :=
  let cfg := numAt bs 8 4
  { state := 1, ring := BitVec.ofNat 64 (numAt bs 0 8), size := cfg % 32, owner := some (bitsOf cfg 10 5), pmax := bitsOf cfg 13 11
    irq := bitOf cfg 15, weight := bitsOf cfg 23 16 }
/-- An enable that fails: the queue's counters are 0, and it is in error (R332, R337). -/
def failEnable (s : State) (q : Nat) (x : Queue) (err : Nat) (addr : Quad) : State :=
  queueError { s with queues := put s.queues q x } q err 0 addr true
/-- A disabled queue enabled: its table entry is read and checked (R332); `due` is the command that goes on with it when the
read has to wait. -/
def enableQueue (s : State) (q : Nat) (due : Due) : State :=
  let a := s.qtBase.toNat + 64 * q
  let r := readRange s none a 64 0
  match r.2 with
  | .pending => holdDue r.1 due
  | .fail .. => failEnable r.1 q {} 3 (BitVec.ofNat 64 a)
  | .ok bs =>
    let x := queueFrom bs
    if !(queueFieldsOk bs) then failEnable r.1 q x 4 0
    else if (x.owner.bind (get? r.1.contexts)).isNone then failEnable r.1 q x 9 0
    else setQueue r.1 q x
/-- The error of a queue cleared: one raised at enable is enabled again, any other entry is skipped (R337). -/
def clearQueue (s : State) (q : Nat) : State :=
  let x := queueOf s q
  if x.atEnable then enableQueue s q (.queueClearError (BitVec.ofNat 10 q))
  else checkOverrun (setQueue s q { x with state := 1, err := 0, head := x.errIdx + 1 }) q
/-- What an operation of `QM_QCMD` does to a queue; one that does not fit its state has no effect (R329, R332, R337). -/
def queueOp (s : State) (q op : Nat) : State :=
  let x := queueOf s q
  match op with
  | 1 => if x.state = 0 then enableQueue s q (.queueEnable (BitVec.ofNat 10 q)) else s
  | 2 => if x.state = 0 then s else setQueue s q { x with state := 0, err := 0 }
  | 3 => if x.state = 4 then clearQueue s q else s
  | _ => s
/-- A command of the queue manager that reads a table entry. -/
def isQueueDue : Due → Bool
  | .queueEnable _ => true
  | .queueClearError _ => true
  | _ => false
/-- `QM_QCMD` BUSY. -/
def qmBusy (s : State) : Bool := s.waiting.any isQueueDue || s.agenda.any fun t => match t with | .due d => isQueueDue d | _ => false
/-- `QM_QCMD` written, or a command that has begun carried on with: ignored while one is being carried out (R329). -/
def queueCommand (s : State) (q op : Nat) : State :=
  if !s.live || qmBusy s then s else queueOp { s with qcmd := BitVec.ofNat 32 (q + 2 ^ 12 * op) } q op
/-- R332: enable; of a queue that is not disabled it has no effect. -/
def execQueueEnable (q : BitVec 10) (s : State) : Outcome := event (queueCommand s q.toNat 1)
/-- R332: disable, at an entry boundary; launches already accepted run on. -/
def execQueueDisable (q : BitVec 10) (s : State) : Outcome := event (queueCommand s q.toNat 2)
/-- R337: OP 3; of a queue that is not in error it has no effect. -/
def execQueueClearError (q : BitVec 10) (s : State) : Outcome := event (queueCommand s q.toNat 3)
/-- R332: a doorbell write records TAIL, whatever the queue's state. -/
def execQmDoorbell (q : BitVec 10) (tail : Word) (s : State) : Outcome :=
  event (if s.live then checkOverrun { s with queues := put s.queues q.toNat { queueOf s q.toNat with tail } } q.toNat else s)
/-- Ring reading starts or stops (R329). -/
def setReading (s : State) (on : Bool) : State := (s.queues.map (·.1)).foldl checkOverrun { s with qmEnable := on }
/-- R329: ring reading starts or stops. -/
def execQmEnable (on : Bool) (s : State) : Outcome := event (if s.live then setReading s on else s)

/-! ## Ring entries (R331, R332) -/

/-- What stands at a queue's HEAD. -/
inductive Entry where
  | none                       -- nothing is to be read now
  | pending
  | unreadable
  | bad (addr : Quad)
  | nop
  | launch (addr : Quad)
  | fence
  deriving DecidableEq, Repr
/-- Whether the queue manager may read an entry of a queue now (R332). -/
def canRead (s : State) (q : Nat) (x : Queue) : Bool :=
  s.live && s.qmEnable && (x.state = 1 || x.state = 2) && x.head != x.tail && !(overrun x)
    && decide (queueLaunches s q < 64) && decide (s.launches.length < 4096)
/-- The entry at HEAD, read as one 16-byte read (R331, R332). -/
def readEntry (s : State) (q : Nat) : State × Entry :=
  let x := queueOf s q
  if !(canRead s q x) then (s, .none)
  else
    let r := readRange s none ((x.ring.toNat + 16 * (x.head.toNat % 2 ^ x.size)) % 2 ^ 64) 16 0
    match r.2 with
    | .pending => (r.1, .pending)
    | .fail .. => (r.1, .unreadable)
    | .ok bs =>
      let cmd := numAt bs 0 4
      let a : Quad := BitVec.ofNat 64 (numAt bs 8 8)
      if decide (2 < cmd) || numAt bs 4 4 != 0 || (cmd != 1 && a != 0) then (r.1, .bad a)
      else if cmd = 0 then (r.1, .nop)
      else if cmd = 1 then (r.1, .launch a)
      else (r.1, .fence)
/-- An entry consumed, the queue left in a state (R332). -/
def consume (s : State) (q : Nat) (state : Nat) : State :=
  let x := queueOf s q
  setQueue s q (settled s q { x with head := x.head + 1, state })
/-- An entry that a step reads: unreadable ones put the queue in error, the step's own kind is acted on (R337). -/
def entryStep (s : State) (q : BitVec 10) (due : Due) (act : State → Entry → State) : Outcome :=
  let r := readEntry s q.toNat
  event (match r.2 with
    | .none => s
    | .pending => holdDue r.1 due
    | .unreadable => queueError r.1 q.toNat 3 (queueOf s q.toNat).head 0
    | e => act r.1 e)
/-- R331 -/
def execNopEntry (q : BitVec 10) (s : State) : Outcome :=
  entryStep s q (.nopEntry q) fun t e => match e with | .nop => consume t q.toNat 2 | _ => s
/-- R331: later entries wait until every earlier launch of the queue has completed. -/
def execFenceEntry (q : BitVec 10) (s : State) : Outcome :=
  entryStep s q (.fenceEntry q) fun t e => match e with | .fence => consume t q.toNat 3 | _ => s
/-- R337 -/
def execBadentry (q : BitVec 10) (s : State) : Outcome :=
  entryStep s q (.badentry q) fun t e => match e with
    | .bad a => queueError t q.toNat 1 (queueOf t q.toNat).head a
    | _ => s
/-- R18: a launch is accepted, or rejected with its code. -/
def execLaunch (q : BitVec 10) (s : State) : Outcome :=
  entryStep s q (.launch q) fun t e => match e with
    | .launch a =>
      let x := queueOf t q.toNat
      let r := readLaunch t q.toNat x a
      match r.2 with
      | .pending => holdDue r.1 (.launch q)
      | .rejected err => queueError r.1 q.toNat err x.head a
      | .ok l =>
        let u := r.1.takeUid
        consume { u.1 with launches := put u.1.launches u.2 l } q.toNat 2
    | _ => s

/-! ## Ready launches (R19, R333, R334) -/

/-- Gangs of a launch. -/
def Launch.total (l : Launch) : Nat := l.gx * l.gy * l.gz
/-- A launch changed. -/
def modLaunch (s : State) (l : Nat) (f : Launch → Launch) : State := { s with launches := upd s.launches l f }
/-- Whether a launch is ready now: its start time has come and every dependence has held (R333). -/
def readyDue (s : State) (l : Nat) : Bool :=
  (get? s.launches l).any fun x => x.ready.isNone && decide (x.start.toNat ≤ s.calends.toNat) && x.deps.all (·.held)
/-- R333: the launch's next gang becomes a candidate. -/
def execLaunchReady (l : Nat) (s : State) : Outcome :=
  event (if readyDue s l then
    modLaunch s l fun x => { x with ready := some s.clk, logical := s.logical, agedAt := s.clk, candSince := some s.clk, reserving := none }
  else s)

/-- Which of the two dependence words of a launch a step is about. -/
def depIndex (second : Bool) : Nat := bit second
/-- Whether a dependence is to be read, or its monitor has woken (R333). -/
def depDue (s : State) (l : Nat) (second : Bool) : Bool :=
  (get? s.launches l).any fun x => (x.deps[depIndex second]?).any fun d =>
    !d.held && !(s.requests.any fun r => r.2.who == .dependence l (depIndex second) && r.2.status.isNone) && match d.monitor with
      | some m => (get? s.monitors m).all fun y => y.woken.isSome
      | none => d.polled = 0 || decide (d.polled + 2048 ≤ s.clk)
/-- A launch rejected after its acceptance; the first error of its queue stays (R337). -/
def rejectLaunch (s : State) (l : Nat) (x : Launch) (err : Nat) : State :=
  let s1 := cancelDependences { s with launches := del s.launches l } l
  if (queueOf s1 x.queue).state = 4 then raiseQm s1 1#2 else queueError s1 x.queue err (BitVec.ofNat 32 x.entryIdx) x.desc
/-- A dependence of a launch changed. -/
def modDep (s : State) (l k : Nat) (f : Dep → Dep) : State := modLaunch s l fun y => { y with deps := modAt y.deps k f }
/-- A dependence holds: a read has found it, or a write has satisfied it (R333). -/
def holdDep (s : State) (l k : Nat) : State := modDep s l k fun d => { d with held := true, monitor := none }
/-- What a dependence watches (R333). -/
def Dep.watch (d : Dep) (l k : Nat) : Monitor :=
  { addr := d.addr, wide := true, cond := 5, operand := BitVec.ofNat 64 d.value, who := .dependence l k }
/-- The owner of a dependence word is asked to watch it, as the launch's context (R113, R333, R370). -/
def askDependence (s : State) (l k : Nat) (x : Launch) (d : Dep) : State :=
  let c := check s (some x.tag) d.addr.toNat rightRead true false true
  match c.2 with
  | .peer dev =>
    sendRequest c.1 dev (.dependence l k)
      { opc := 6, size := 8, addr := d.addr.toNat, sub := 5 + 8, imm := toBytes 8 d.value ++ toBytes 4 (dependenceMonitor l k) }
  | _ => rejectLaunch c.1 l x 8
/-- A dependence word is read as the launch's context; it holds, or a monitor is armed, or it is read again later (R333). -/
def pollDependence (s : State) (l k : Nat) (x : Launch) (d : Dep) : State :=
  match placeOf s d.addr.toNat with
  | .peer _ _ => askDependence s l k x d
  | _ =>
    let r := readRange s (some x.tag) d.addr.toNat 8 rightRead
    match r.2 with
    | .pending => holdDue r.1 (.dependencePoll l (k == 1))
    | .fail .. => rejectLaunch r.1 l x 8
    | .ok bs =>
      if d.value ≤ ofBytes bs then holdDep r.1 l k
      else
        let t := armMonitor r.1 (d.watch l k)
        modDep t.1 l k fun d => { d with monitor := t.2, polled := max 1 s.clk }
/-- A peer has answered about a dependence: it holds, its word is watched there, or it is read again later; a read that fails
rejects the launch (R333). A word whose watch there is lost is read again. -/
def dependenceAnswer (s : State) (id l k : Nat) (r : Request) (status : Nat) (value : List Byte) : State :=
  let s1 : State := { s with requests := del s.requests id }
  match get? s.launches l, ((get? s.launches l).bind fun x => x.deps[k]?) with
  | some x, some d =>
    if r.status.isSome && status = 12 then
      modDep { s1 with monitors := s1.monitors.filter fun m => m.2.who != .dependence l k } l k fun d => { d with monitor := none, polled := 0 }
    else if r.status.isSome then
      { s1 with monitors := s1.monitors.map fun p =>
          (p.1, if p.2.who = .dependence l k then { p.2 with woken := some (BitVec.ofNat 64 (numAt value 0 8)), bad := status != 0 } else p.2) }
    else if status != 0 then rejectLaunch s1 l x 8
    else if d.value ≤ numAt value 0 8 then holdDep s1 l k
    else if bitOf (numAt value 8 1) 0 then
      let u := s.takeUid
      modDep { u.1 with monitors := put u.1.monitors u.2 (d.watch l k), requests := put u.1.requests id { r with status := some (0, 0) } } l k
        fun d => { d with monitor := some u.2, polled := max 1 s.clk }
    else modDep s1 l k fun d => { d with monitor := none, polled := max 1 s.clk }
  | _, _ => s1
/-- R333 -/
def execDependencePoll (l : Nat) (second : Bool) (s : State) : Outcome :=
  event (if !(depDue s l second) then s
    else match get? s.launches l with
      | none => s
      | some x =>
        let k := depIndex second
        match x.deps[k]? with
        | none => s
        | some d =>
          match d.monitor.bind fun m => (get? s.monitors m).map fun y => (m, y) with
          | some (m, y) =>
            -- the monitor has woken: a write has satisfied the dependence, or has left the word poisoned
            if y.bad then rejectLaunch (logPoison s (some x.tag) d.addr.toNat) l x 8 else holdDep { s with monitors := del s.monitors m } l k
          | none => pollDependence s l k x d)

/-- Effective priority of a launch (R334). -/
def Launch.effective (l : Launch) : Nat := min 7 (l.prio + l.raised)
/-- Whether waiting raises a launch by another level (R334). -/
def agingDue (s : State) (l : Nat) : Bool :=
  (get? s.launches l).any fun x => x.ready.isSome && decide (x.nextGang < x.total) && decide (x.effective < 7) && decide (x.agedAt + 2 ^ 24 ≤ s.clk)
/-- R334 -/
def execPriorityAging (l : Nat) (s : State) : Outcome :=
  event (if agingDue s l then modLaunch s l fun x => { x with raised := x.raised + 1, agedAt := x.agedAt + 2 ^ 24 } else s)

end Sys2Proof.Machine
end

