-- ==== Sys2Proof/Machine/Fabric.lean ====
section
/-! DEFINITION. The peer fabric: what arrives on a port (R367 to R369), requests of peers, answers to this device's own
requests (R370, R371), credits, and devices that go DOWN and rejoin (R372). -/

namespace Sys2Proof.Machine

/-! ## Answers reach those who asked -/

/-- A fibre that waits for answers issues its instruction again. -/
def wakeAsker (s : State) (w k : Nat) : State :=
  match (fibreAt s w k).wait with
  | some x => if x.kind = .answers then wakeRetry s w k else s
  | none => s
/-- Every fibre that waits for answers does. -/
def wakeAskers (s : State) : State :=
  s.waves.foldl (fun s p => (List.range 4).foldl (fun s k => wakeAsker s p.1 k) s) s
/-- The device goes on with everything that waited for an answer: tables, records, ring entries, launches that complete,
and the steps that had begun, but for a placement, which has its turn with the placer (R334). -/
def resumeDevice (s : State) : State :=
  let s1 := drainNotes (drainPosting (flushTables s))
  let s2 := (keysWhere s1.launches fun l => l.phase != 0).foldl completeLaunch s1
  { s2 with agenda := (s2.waiting.filter (·.placing.isNone)).map Turn.due ++ s2.agenda, waiting := s2.waiting.filter (·.placing.isSome) }
/-- All that waits for anybody tries again. -/
def retryAll (s : State) : State := resumeDevice (wakeAskers s)

/-- A fibre's monitor at a peer has its word, or has met its poison (R113, R394). -/
def wakeRemote (s : State) (w k : Nat) (v : Quad) (bad : Bool) : State :=
  { s with monitors := s.monitors.map fun p =>
      (p.1, if p.2.who = .fibre w k && p.2.woken.isNone then { p.2 with woken := some v, bad } else p.2) }
/-- A peer's word comes before the `monw` that armed the monitor has issued again: it takes the place of the first read (R113). -/
def wakeEarly (s : State) (w k : Nat) (v : Quad) (bad : Bool) : State :=
  modFibre s w k fun f => { f with answers := f.answers.map fun a =>
    if 2 ^ 64 ≤ a.key then a else if bad then { a with status := 15 } else { a with value := toBytes 8 v.toNat ++ [0] } }
/-- What a peer's monitor reports, for a wait or for the instruction that is to become one. -/
def remoteWord (s : State) (w k : Nat) (v : Quad) (bad : Bool) : State :=
  if s.monitors.any fun p => p.2.who = .fibre w k then wakeRemote s w k v bad else wakeEarly s w k v bad
/-- A read of a POLLING wait at a peer that has met poison: the wait ends by it (R394). -/
def poisonRemote (s : State) (w k : Nat) : State :=
  match (fibreAt s w k).wait.bind fun x => x.watch w k with
  | some m => markWoken s w k m 0 true
  | none => s
/-- The first answer of a peer to a monitor asked for while a fibre waits: satisfied, armed, or the table full (R113). -/
def firstAnswer (s : State) (id w k : Nat) (r : Request) (v : List Byte) : State :=
  let drop : State := { s with requests := del s.requests id }
  match (fibreAt s w k).wait with
  | none => drop
  | some x =>
    match x.watch w k with
    | none => drop
    | some m =>
      let y := monAnswer v
      if monTrue m.cond y.1.toNat m.operand.toNat then
        let u := drop.takeUid
        modWait { u.1 with monitors := put u.1.monitors u.2 { m with woken := some y.1, entry := false } } w k fun x => { x with last := y.1, monitor := some u.2, stale := false }
      else if y.2 then
        let u := s.takeUid
        modWait { u.1 with monitors := put u.1.monitors u.2 m, requests := put u.1.requests id { r with status := some (0, 0) } } w k
          fun x => { x with last := y.1, monitor := some u.2, stale := false }
      else modWait drop w k fun x => { x with last := y.1, polled := s.clk, stale := false }

/-- A peer has written back what its host shares, or names the first line that it could not: a waiting fence then stops, and a completing
launch is held (R118, R119, R354, R355). -/
def flushAnswered (s : State) (l w k d status attr : Nat) (value : List Byte) : State :=
  let mine (f : Far) : Bool := f.launch == l && f.wave == w && f.fibre == k && f.dev == d
  if status = 0 || status = 12 then completeLaunch { s with far := s.far.filter fun f => !(mine f && (f.asked || status = 12)) } l
  else
    let t : State := { s with far := s.far.map fun f => if mine f then { f with asked := false } else f }
    let u : Unwritten := { addr := numAt value 0 8, row := statusRow status attr, level := attr % 4 }
    match (get? s.launches l).filter (·.phase != 0), liveWait s w k with
    | some x, _ => if x.heldStep.isSome then t else holdStep t l x u
    | none, some y => match y.kind with
      | .fence mask => if mask.getLsbD 5 then stopFence t w k y u else t
      | _ => t
    | none, none => t
/-- An answer delivered to whom it is for. -/
def deliver (s : State) (who : Requester) (status attr : Nat) (value : List Byte) : State :=
  match who with
  | .fibre w k key => wakeAsker (modFibre s w k fun f => { f with answers := f.answers ++ [{ key, status, attr, value }] }) w k
  | .engine op u =>
    addRead s op { unit := u, status, row5 := status != 0 && statusRow status attr == 5
                   attr := pattr (statusRow status attr) (attr % 4) false false
                   bytes := if status = 0 then padTo 16 value else [] }
  | .engineWrite op key => modOp s op fun o => { o with remote := o.remote ++ [{ key, status, attr, value }] }
  | .device key => resumeDevice { s with deviceAnswers := s.deviceAnswers ++ [{ key, status, attr, value }] }
  | .monitor _ _ => s
  | .dependence .. => s
  | .flush l w k d => flushAnswered s l w k d status attr value
  | .cancelled => s
  | .cancel _ => s
  | .none => s

/-- A request answered: with a status, or with the bytes it asked for. -/
def answerRequest (s : State) (id : Nat) (r : Request) (status attr : Nat) (value : List Byte) : State :=
  match r.who with
  | .monitor w k =>
    let drop : State := { s with requests := del s.requests id }
    if r.status.isSome then remoteWord drop w k (BitVec.ofNat 64 (numAt value 0 8)) (status != 0)
    else if status = 0 then firstAnswer s id w k r value
    else if status = 15 then poisonRemote drop w k
    else modWait drop w k fun x => { x with stale := false }
  | .dependence l k => dependenceAnswer s id l k r status value
  | .fibre w k _ =>
    let armed := r.opc == 6 && status == 0 && (monAnswer value).2
    let rs := if armed then put s.requests id { r with who := .monitor w k, status := some (0, 0) } else del s.requests id
    deliver { s with requests := rs } r.who status attr value
  | .cancelled => { s with requests := put s.requests id { r with status := some (status, attr) } }
  | .cancel req => { s with requests := (del s.requests id).filterMap fun p =>
      if p.1 != req then some p else if p.2.status.isSome then none else some (p.1, { p.2 with who := .none }) }
  | _ => deliver { s with requests := del s.requests id } r.who status attr value

/-! ## DOWN devices (R372) -/

/-- A collective without a deadline whose rank 0 has gone is bounded by the wait for a decision from then on (R204, R376, log 19). -/
def orphanCollectives (s : State) (d : Nat) : State :=
  { s with ops := s.ops.map fun p =>
      match p.2.kind with
      | .coll _ _ _ _ _ _ _ _ _ _ devs deadline =>
        (p.1, if devs.head? = some d && deadline = .never && p.2.expired.isNone then { p.2 with expired := some s.clk } else p.2)
      | _ => p }
/-- A request to a device that is DOWN ends (R120). -/
def loseRequest (s : State) (r : Nat × Request) : State :=
  match r.2.who with
  | .dependence l k => dependenceAnswer s r.1 l k r.2 12 []
  | who => deliver s who 12 0 []
/-- A device is DOWN: its bit reads 0, and every access in flight to it ends as R120 states. -/
def markDown (s : State) (d : Nat) : State :=
  let lost := s.requests.filter fun r => r.2.dev == d
  let s1 := { s with reach := s.reach.filter (· != d), probes := del s.probes d, requests := s.requests.filter fun r => r.2.dev != d
                     unsent := s.unsent.filter fun (x : Nat × Nat × Ask) => x.1 != d, keptBack := s.keptBack.filter fun f => flitSrc f != d }
  let s2 := lost.foldl loseRequest s1
  retryAll (orphanCollectives s2 d)
/-- The devices that have no port left go DOWN. -/
def dropUnreachable (s : State) : State :=
  (s.reach.filter fun d => upPorts s d == []).foldl markDown s
/-- A port that carries nothing, and has forgotten what it was carrying. -/
def Port.cleared (x : Port) : Port := { x with unacked := [], queued := [], lastIn := none, nextSeq := 0, retrying := false }
/-- A port goes down (R367); flits it held are lost, and so are requests whose data have not come whole. -/
def portLost (s : State) (p : Nat) : State :=
  if (portOf s p).up then
    let s1 := (modPort s p fun x => { x.cleared with up := false }).log 6 p
    dropUnreachable { s1 with inbound := s1.inbound.filter fun x => x.port != p }
  else s

/-! ## The link layer (R369) -/

/-- Retried flits and dropped foreign flits counted (R367). -/
def countError (s : State) (p : Nat) : State := modPort s p fun x => { x with errs := min (x.errs + 1) 0xFFFF }
/-- The first SEQ not yet received. -/
def expectedSeq (x : Port) : Nat := match x.lastIn with | some n => (n + 1) % 4096 | none => 0
/-- Flits that wait leave as far as the window allows. -/
def sendQueued (s : State) (p : Nat) : State :=
  let x := portOf s p
  let n := 1024 - x.unacked.length
  (x.queued.take n).foldl (fun s f => transmit s p f) (modPort s p fun x => { x with queued := x.queued.drop n })
/-- Flits up to an acknowledged SEQ are done with. -/
def acknowledgeUpTo (s : State) (p : Nat) (a : Option Nat) : State :=
  match a with
  | none => s
  | some n =>
    let x := portOf s p
    if x.unacked.any fun f => f.seq == n then
      let rest := (x.unacked.dropWhile fun f => f.seq != n).drop 1
      sendQueued (modPort s p fun x => { x with unacked := rest }) p
    else s
/-- A flit as the link layer takes it; the flag says that it is to be acted on. A bad CRC asks for a retry, and so does the first
flit after a gap. -/
def linkIn (s : State) (p : Nat) (f : Flit) : State × Bool :=
  let x := portOf s p
  let retry : State := sendLocal (modPort s p fun x => { x with retrying := true }) p 5 (toBytes 2 (expectedSeq x))
  if !s.live || !x.up then (s, false)
  else if !(flitWhole f) then (retry, false)
  else if 9 < flitType f then (countError s p, false)
  else if sequenced (flitType f) && flitSeq f != expectedSeq x then
    -- one that has been received already is no gap
    (if x.retrying || (expectedSeq x + 4096 - flitSeq f) % 4096 ≤ 1024 then s else retry, false)
  else
    let s1 := if sequenced (flitType f) then modPort s p fun x => { x with lastIn := some (flitSeq f), retrying := false } else s
    if flitDomain f != s.domain.toNat then (countError s1 p, false)
    else (acknowledgeUpTo s1 p (flitAck f), true)
/-- A port on which flits have been accepted, and on which nothing has left since, sends IDLE with its acknowledgement. -/
def acknowledge (old s : State) (p : Nat) : State :=
  let out := (s.outbox.drop old.outbox.length).any fun m => match m with | .flit q _ => q == p | _ => false
  if out || !(portOf s p).up || (portOf s p).lastIn = (portOf old p).lastIn then s else sendLocal s p 0 []

/-- Flits taken in turn: the state, and those that are to be acted on. -/
def linkAll (s : State) (p : Nat) (fs : List Flit) : State × List Flit :=
  fs.foldl (fun r f => let x := linkIn r.1 p f; (x.1, if x.2 then r.2 ++ [f] else r.2)) (s, [])
/-- Whether a DATA flit belongs to a request, a response or a collective message: by SRCDEV and TAG (R369). -/
def joins (f u : Flit) : Bool :=
  flitType u == 3 && flitSrc u == flitSrc f && flitDst u == flitDst f && numAt (flitBody u) 0 2 == numAt (flitBody f) 2 2
/-- Whether flits are one of a kind and the data that follow it, as far as they are whole. -/
def wellGrouped (kind : Flit → Bool) : List Flit → Bool
  | [] => false
  | f :: us => (!(flitWhole f) || kind f) && us.all fun u => !(flitWhole u) || flitType u == 3
/-- Flits that arrive in turn, one of the kind that the step is about and its data: taken by the link layer, forwarded when they
are for another device, else acted on; data whose header is not accepted now stand on their own. -/
def arrive (s : State) (p : Nat) (fs : List Flit) (kind : Flit → Bool) (act : State → List Flit → State) (loose : State → Flit → State) :
    State :=
  if !(wellGrouped kind fs) then s
  else
    let f := fs.headD []
    let h := linkIn s p f
    let r := linkAll h.1 p fs.tail
    let passed := if h.2 then f :: r.2 else r.2
    let other (g : Flit) : Bool := flitDst g != 0xFF && flitDst g != s.devId.toNat
    acknowledge s (match passed with
      | [] => r.1
      | g :: _ =>
        if other g then sendRouted r.1 (flitDst g) (if flitType g = 1 then reqAddr g else 0) passed
        else if h.2 then (r.2.filter fun u => !(joins f u)).foldl loose (act r.1 (r.2.filter (joins f)))
        else r.2.foldl loose r.1) p
/-- Link-local and routed types (R369). -/
def ofType (n : Nat) (f : Flit) : Bool := flitType f == n
/-- A flit that arrives alone. -/
def arriveOne (s : State) (p : Nat) (f : Flit) (kind : Flit → Bool) (act : State → State) : State :=
  arrive s p [f] kind (fun s _ => act s) fun s _ => s

/-! ## Requests of peers -/

/-- DATA units that a request brings (R370). -/
def unitsBrought (f : Flit) : Nat :=
  match reqOpc f with
  | 2 => ((reqSize f).map fun n => ceilDiv n 48).getD 0
  | 5 => 1
  | 9 => 1
  | _ => 0
/-- A request that has come whole: its credits go back, and it is performed and answered (R370, R371). -/
def serveNow (s : State) (p : Nat) (f : Flit) (us : List (Nat × List Byte)) : State :=
  let s1 := sendLocal s p 4 (toBytes 2 1 ++ toBytes 2 us.length ++ toBytes 1 s.devId.toNat)
  let r := serveRequest s1 p f us
  if reqNoResp f then r.1 else respond r.1 (flitSrc f) (reqOpc f) (reqTag f) (reqAddr f) r.2
/-- A header kept until its data have come; one of the same sender and tag before it has been given up. -/
def keepInbound (s : State) (p : Nat) (f : Flit) (us : List (Nat × List Byte)) : State :=
  { s with inbound := (s.inbound.filter fun x => !(flitType x.flit == flitType f && flitSrc x.flit == flitSrc f
      && numAt (flitBody x.flit) 2 2 == numAt (flitBody f) 2 2)) ++ [{ port := p, flit := f, units := us }] }
/-- The units that some DATA flits bring. -/
def unitsFrom (us : List Flit) : List (Nat × List Byte) := us.foldl (fun t u => put t (unitOf u).1 (unitOf u).2) []
/-- A request with the data that came with it: performed once they are all there. -/
def takeRequest (s : State) (p : Nat) (f : Flit) (us : List Flit) : State :=
  if !s.fabEnable then s
  else if (unitsFrom us).length < unitsBrought f then keepInbound s p f (unitsFrom us)
  else serveNow s p f (unitsFrom us)

/-! ### Answers -/

/-- The request that an answer is for (R370). -/
def requestFor (s : State) (d tag : Nat) : Option (Nat × Request) := s.requests.find? fun r => r.2.dev = d && r.2.tag = tag
/-- DATA units that answer a request: those of its size, one for a list operation (R370). -/
def unitsAwaited (r : Request) : Nat := if r.opc = 1 then ceilDiv r.size 48 else if r.opc = 9 then 1 else 0
/-- A request whose status and whose units have all come is answered. -/
def completeRequest (s : State) (id : Nat) (r : Request) : State :=
  match r.status with
  | none => s
  | some (st, attr) =>
    if st = 0 && decide (r.units.length < unitsAwaited r) then s
    else
      let bs := (List.range (unitsAwaited r)).flatMap fun k => padTo 48 ((get? r.units k).getD [])
      answerRequest s id { r with status := none } st attr bs
/-- A unit of data that answers a request of this device (R369). -/
def answerData (s : State) (f : Flit) : State :=
  match requestFor s (flitSrc f) (numAt (flitBody f) 0 2) with
  | none => s
  | some (id, r) =>
    if unitsAwaited r = 0 then s
    else
      let r1 := { r with units := put r.units (unitOf f).1 (unitOf f).2 }
      completeRequest { s with requests := put s.requests id r1 } id r1
/-- The header here that a DATA flit belongs to, of its own port before another's. -/
def inboundFor (s : State) (p : Nat) (f : Flit) : Option Inbound :=
  (s.inbound.find? fun x => x.port == p && joins x.flit f).or (s.inbound.find? fun x => joins x.flit f)
/-- A unit of data for a peer's request here, or an answer to a request of this device (R369). -/
def dataIn (p : Nat) (s : State) (f : Flit) : State :=
  match inboundFor s p f with
  | some x =>
    if flitType x.flit != 1 then answerData s f
    else
      let us := put x.units (unitOf f).1 (unitOf f).2
      let s1 : State := { s with inbound := s.inbound.erase x }
      if us.length < unitsBrought x.flit then keepInbound s1 x.port x.flit us else serveNow s1 x.port x.flit us
  | none => answerData s f

/-! ### Their rows -/

/-- A request with its data (R370, R371). -/
def requestIn (opc p : Nat) (f : Flit) (us : List Flit) (s : State) : Outcome :=
  event (arrive s p (f :: us) (fun g => ofType 1 g && reqOpc g == opc) (fun s us => takeRequest s p f us) (dataIn p))
/-- R370 -/
def execRead (port : Nat) (flit : Flit) (s : State) : Outcome := requestIn 1 port flit [] s
/-- R370 -/
def execWrite (port : Nat) (flit : Flit) (units : List Flit) (s : State) : Outcome := requestIn 2 port flit units s
/-- R370 -/
def execAtomic (port : Nat) (flit : Flit) (s : State) : Outcome := requestIn 3 port flit [] s
/-- R370 -/
def execContrib (port : Nat) (flit : Flit) (s : State) : Outcome := requestIn 4 port flit [] s
/-- R370 -/
def execCellmerge (port : Nat) (flit : Flit) (units : List Flit) (s : State) : Outcome := requestIn 5 port flit units s
/-- R370 -/
def execMonarm (port : Nat) (flit : Flit) (s : State) : Outcome := requestIn 6 port flit [] s
/-- R370 -/
def execMoncancel (port : Nat) (flit : Flit) (s : State) : Outcome := requestIn 7 port flit [] s
/-- R370 -/
def execSliceop (port : Nat) (flit : Flit) (s : State) : Outcome := requestIn 8 port flit [] s
/-- R370 -/
def execUnitop (port : Nat) (flit : Flit) (units : List Flit) (s : State) : Outcome := requestIn 9 port flit units s

/-! ## Answers of peers -/

/-- A response, of the operation asked for: a NACK, or the status, after which a READ and a list operation await their units (R370,
R371). What a monitor reports waits until no operation holds its device (R102). -/
def responseIn (s : State) (f : Flit) : State :=
  let b := flitBody f
  match requestFor s (flitSrc f) (numAt b 2 2) with
  | none => s
  | some (id, r) =>
    if r.opc = 6 && heldDev s (flitSrc f) then { s with keptBack := s.keptBack ++ [f], barred := insertNew s.barred (flitSrc f) }
    else
    let st := numAt b 1 1
    let attr := numAt b 4 1
    if numAt b 0 1 != r.opc then s
    else if st = 0xFF then
      { s with requests := if r.who = .cancelled then del s.requests id else put s.requests id { r with nacked := some s.clk } }
    else if unitsAwaited r != 0 then
      let r1 := { r with status := some (st, attr) }
      completeRequest { s with requests := put s.requests id r1 } id r1
    else answerRequest s id r st attr (padTo 36 (b.drop 16))
/-- What waited for an operation's writes to a peer goes on once none holds the peer: monitors' responses, then all that asks. -/
def releaseWays (s : State) : State :=
  if s.barred.all (heldDev s) then s
  else
    let free (f : Flit) : Bool := !(heldDev s (flitSrc f))
    retryAll ((s.keptBack.filter free).foldl responseIn { s with barred := s.barred.filter (heldDev s), keptBack := s.keptBack.filter fun f => !(free f) })
/-- R370 -/
def execRsp (port : Nat) (flit : Flit) (s : State) : Outcome := event (arriveOne s port flit (ofType 2) fun s => responseIn s flit)

/-- Whether a refused request is to be sent again (R371). -/
def nackDue (s : State) (id : Nat) : Bool := (get? s.requests id).any fun r => r.nacked.any fun t => decide (t + 64 ≤ s.clk)
/-- R371: a request that was refused leaves again after 64 clk. -/
def execNackResend (req : Nat) (s : State) : Outcome :=
  match get? s.requests req with
  | some r =>
    event (if nackDue s req then
      sendRouted { s with requests := put s.requests req { r with nacked := none } } r.dev (reqAddr (r.flits.headD [])) r.flits else s)
  | none => event s
/-- Whether a request has reached its bound without an answer (R371). -/
def timeoutDue (s : State) (id : Nat) : Bool :=
  (get? s.requests id).any fun r => decide (r.sentAt + 2 ^ 21 ≤ s.clk) && (match r.who with
    | .monitor _ _ => r.status.isNone
    | .dependence _ _ => r.status.isNone
    | .cancelled => r.status.isNone
    | _ => true)
/-- R372: a request that reaches its bound makes its device DOWN. -/
def execRequestTimeout (req : Nat) (s : State) : Outcome :=
  match get? s.requests req with
  | some r => event (if timeoutDue s req then markDown s r.dev else s)
  | none => event s

/-! ## Link-local flits -/

/-- R369: an IDLE carries an acknowledgement. -/
def execIdle (port : Nat) (flit : Flit) (s : State) : Outcome :=
  event (if flitWhole flit && !(ofType 0 flit) then s else (linkIn s port flit).1)
/-- R369, R371: credits come back, and what had none tries again. -/
def execCredit (port : Nat) (flit : Flit) (s : State) : Outcome :=
  event (if flitWhole flit && !(ofType 4 flit) then s
    else
      let r := linkIn s port flit
      if !r.2 then r.1
      else
        let b := flitBody flit
        let d := numAt b 4 1
        let c := creditsOf r.1 port d
        retryAll (sendUnsent (setCredits r.1 port d (c.1 + numAt b 0 2) (c.2 + numAt b 2 2))))
/-- Flits sent again from a SEQ on; one that has been sent again 16 times takes the port down (R367, R369). -/
def resendFrom (s : State) (p n : Nat) : State :=
  let x := portOf s p
  let done := x.unacked.takeWhile fun f => f.seq != n
  let again := x.unacked.drop done.length
  if again.isEmpty then s
  else if again.any fun f => decide (16 ≤ f.resent) then portLost s p
  else
    let s1 := modPort s p fun x => { x with
      unacked := again.map fun f => { f with resent := f.resent + 1 }, errs := min (x.errs + again.length) 0xFFFF }
    again.foldl (fun s f => s.send (.flit p f.flit)) s1
/-- R369 -/
def execRetry (port : Nat) (flit : Flit) (s : State) : Outcome :=
  event (if flitWhole flit && !(ofType 5 flit) then s
    else
      let r := linkIn s port flit
      if r.2 then resendFrom r.1 port (numAt (flitBody flit) 0 2 % 4096) else r.1)
/-- R372: a peer is about to reset or power down. -/
def execDown (port : Nat) (flit : Flit) (s : State) : Outcome :=
  event (arriveOne s port flit (ofType 6) fun s => markDown s (flitSrc flit))
/-- R369: a flit with a bad CRC, out of order, of an unassigned type or of a foreign domain is not acted on. -/
def execFlitDrop (port : Nat) (flit : Flit) (s : State) : Outcome :=
  let r := linkIn s port flit
  event (if r.2 then s else acknowledge s r.1 port)

/-! ## Probes (R372) -/

/-- R369: a PROBE is answered. -/
def execProbe (port : Nat) (flit : Flit) (s : State) : Outcome :=
  event (arriveOne s port flit (ofType 7) fun s => sendRouted s (flitSrc flit) 0 [ownFlit s 8 (flitSrc flit) []])
/-- R372: a device that answers with the same DOMAIN is reachable again. -/
def execProbeans (port : Nat) (flit : Flit) (s : State) : Outcome :=
  event (arriveOne s port flit (ofType 8) fun s =>
    let d := flitSrc flit
    if (get? s.probes d).isSome then { s with probes := del s.probes d, reach := insertNew s.reach d } else s)
/-- A write of 1 to a device's reach bit (R372). -/
def rejoin (s : State) (d : Nat) : State :=
  if d = s.devId.toNat || s.reach.contains d || (get? s.probes d).isSome then s
  else sendRouted { s with probes := put s.probes d s.clk } d 0 [ownFlit s 7 d []]
/-- R372: a write of 1 to a reach bit starts a probe. -/
def execRejoin (d : BitVec 7) (s : State) : Outcome := event (rejoin s d.toNat)
/-- R372: a write of 0 to a reach bit; this device's own reads 1 (R367). -/
def execMarkDown (d : BitVec 7) (s : State) : Outcome := event (if d = s.devId then s else markDown s d.toNat)
/-- Whether a probe has gone without an answer for 65,536 clk. -/
def probeDue (s : State) (d : Nat) : Bool := (get? s.probes d).any fun t => decide (t + 65536 ≤ s.clk)
/-- R372 -/
def execProbeTimeout (d : BitVec 7) (s : State) : Outcome :=
  event (if probeDue s d.toNat then { s with probes := del s.probes d.toNat } else s)

/-! ## Ports (R367) -/

/-- R367: a port exhausts its retries or loses lock. -/
def execPortDown (port : Nat) (s : State) : Outcome := event (portLost s port)
/-- R367: an enabled port has trained; the device grants its neighbour credits (R371). -/
def execPortUp (port : Nat) (peer : BitVec 7) (s : State) : Outcome :=
  event (if s.live && (portOf s port).enable && !(portOf s port).up then
    let s1 := modPort s port fun x => { x.cleared with up := true, peer }
    sendLocal { s1 with credits := s1.credits.filter fun c => c.1 != port } port 4
      (toBytes 2 Config.requestGrant.toNat ++ toBytes 2 Config.dataGrant.toNat ++ toBytes 1 s1.devId.toNat)
  else s)

end Sys2Proof.Machine
end

