-- ==== Sys2Proof/Machine/WaveOps.lean ====
section
/-! DEFINITION. QN4 quantisation and the cross-strand instructions (R177 to R183): opcodes 0x2C to 0x2E. -/

namespace Sys2Proof.Machine

/-! ## QN4 (R83, R86) -/

/-- The magnitudes of the codebook, in 128ths (R83). -/
def qnMag : List Nat := [5, 16, 28, 40, 53, 69, 91, 128]
def qnMagOf (j : Nat) : Nat := qnMag.getD j 0
/-- A code as a signed number of 128ths (R83). -/
def qnSigned (k : Nat) : Int := if bitOf k 3 then -(qnMagOf (k % 8) : Int) else qnMagOf (k % 8)
/-- An FP32 value in units of 2 ^ −149; 0 for a value that is not finite. -/
def units149 (x : Nat) : Int :=
  match Fmt.f32.value x with
  | .fin s n d => signedNum s (n * 2 ^ 149 / d)
  | _ => 0
/-- The nearest code to `y` at scale code `c` under the super-scale `s`, both in units of 2 ^ −149; the smaller index on a
tie (R86). -/
def qnNearest (s y : Int) (c : Nat) : Nat :=
  let dist (j : Nat) : Nat := ((y.natAbs : Int) * 128 - s * c * qnMagOf j).natAbs
  let j := (List.range 8).foldl (fun b j => if dist j < dist b then j else b) 0
  if y < 0 then 8 + j else j
/-- The code of an element (R86). -/
def qnCode (s : Int) (x c : Nat) : Nat :=
  if c = 0 then 0
  else match Fmt.f32.value x with
    | .nan _ => 0
    | .inf n => if n then 15 else 7
    | .fin .. => qnNearest s (units149 x) c
/-- Whether an FP32 value is finite. -/
def isFinite (x : Nat) : Bool := match Fmt.f32.value x with | .fin .. => true | _ => false
/-- The squared error of a scale code over the finite elements, in units of (2 ^ −149 / 128)². -/
def qnError (s : Int) (xs : List Nat) (t : Nat) : Nat :=
  xs.foldl (fun e x =>
    if isFinite x then
      let v : Int := if t = 0 then 0 else qnSigned (qnCode s x t)
      e + (units149 x * 128 - s * t * v).natAbs ^ 2
    else e) 0
/-- The scale code of a block (R86). -/
def qnScale (scale : Nat) (xs : List Nat) : Nat :=
  match Fmt.f32.value scale with
  | .fin false n _ =>
    if n = 0 then 0
    else
      let s := units149 scale
      let m := greatest ((xs.filter isFinite).map fun x => (units149 x).natAbs)
      let c0 := min 255 (roundMagnitude .rn false m s.natAbs)
      let lo := c0 - 1
      let hi := min 255 (c0 + 1)
      ((List.range (hi + 1 - lo)).map (lo + ·)).foldl (fun b t => if qnError s xs t < qnError s xs b then t else b) lo
  | _ => 0

/-- R177: the group quantises one block; lanes that do not perform supply +0. -/
def execQntQn4 (o : DuoPlain) (s : State) : Outcome :=
  perform s fun h => do
    orIllegal (decide (o.a.toNat < 120) && evenOk o.a && decide (o.dst.toNat < 120))
    let lanes ← h.performing o.p
    let d ← h.dst o.dst
    let sc ← h.oldDst o.dst
    let a ← h.src64 o.a false none
    if lanes = 0 then .ok (advance h s)
    else
      let elem (i : Nat) : Nat := if lanes.getLsbD (i / 2) then
        (if i % 2 = 0 then (a.val (i / 2)).low.toNat else (a.val (i / 2)).high.toNat) else 0
      let xs := (List.range 64).map elem
      let scale := (sc.val (lowest lanes)).toNat
      let c := qnScale scale xs
      let u := units149 scale
      let bad := sc.bad (lowest lanes) || (lanesIn lanes).any a.bad
      .ok (advance h (put32 h s d lanes
        { val := fun i => BitVec.ofNat 32 (qnCode u (elem (2 * i)) c + 16 * qnCode u (elem (2 * i + 1)) c + 256 * c)
          low := fun _ => bad, high := fun _ => bad }))
/-- A scale code times the value of a code, exact in FP32; a scale code of 0 gives +0 (R178). -/
def qnExpand (c k : Nat) : Word :=
  if c = 0 then 0 else BitVec.ofNat 32 (roundTo .f32 .rn false (.fin (bitOf k 3) (c * qnMagOf (k % 8)) 128))
/-- R178 -/
def execDqnQn4 (o : Duo) (s : State) : Outcome :=
  perform s fun h => do
    orIllegal (h.srcUOk o.a o.u o.lit && dst64Ok o.dst)
    let lanes ← h.performing o.p
    let d ← h.dstN o.dst 2
    let a ← h.srcU o.a o.u o.lit
    let f (x : Word) : Quad := pair (qnExpand (bitsOf x.toNat 15 8) (bitsOf x.toNat 3 0)) (qnExpand (bitsOf x.toNat 15 8) (bitsOf x.toNat 7 4))
    .ok (advance h (put64 h s d lanes (a.map f)))

/-! ## Shuffles (R180) -/

/-- A shuffle: each strand takes the value of a lane that performs, else its own. -/
def shuffleForm (from_ : Nat → Nat → Nat) (o : Tri) (s : State) : Outcome :=
  perform s fun h => do
    orIllegal (srcOk o.a none && h.srcUOk o.b o.u o.lit && dstOk o.dst)
    let lanes ← h.performing o.p
    let d ← h.dst o.dst
    let a ← h.src o.a none
    let b ← h.srcU o.b o.u o.lit
    let j (i : Nat) : Nat := let k := from_ i ((b.val i).toNat % 32); if lanes.getLsbD k then k else i
    let bad (i : Nat) : Bool := a.bad (j i) || b.bad i
    .ok (advance h (put32 h s d lanes { val := fun i => a.val (j i), low := bad, high := bad }))
/-- R180 -/
def execShflB32 (o : Tri) (s : State) : Outcome := shuffleForm (fun _ b => b) o s
/-- R180 -/
def execShflxB32 (o : Tri) (s : State) : Outcome := shuffleForm (fun i b => i ^^^ b) o s

/-! ## Votes and picks (R181) -/

/-- The performing strands whose value is not 0. -/
def votes (lanes : Lanes) (a : Src Word) : Lanes := lanes &&& maskOf fun i => a.val i != 0
/-- A vote into a mask; one invalid contributor makes every bit invalid (R183). -/
def voteForm (f : Lanes → Lanes → Bool) (o : Duo) (s : State) : Outcome :=
  perform s fun h => do
    orIllegal (maskOk o.dst && h.srcUOk o.a o.u o.lit)
    let lanes ← h.performing o.p
    let a ← h.srcU o.a o.u o.lit
    let bad := (lanesIn lanes).any a.bad
    .ok (advance h (writeMask h s o.dst.toNat lanes (fun _ => f (votes lanes a) lanes) fun _ => bad))
/-- R181 -/
def execVoteAny (o : Duo) (s : State) : Outcome := voteForm (fun t _ => t != 0) o s
/-- R181 -/
def execVoteAll (o : Duo) (s : State) : Outcome := voteForm (fun t c => t == c) o s

/-- A value for every performing strand made from all of them (R181, R182). -/
def crossForm (f : Lanes → (Nat → Word) → Nat → Word) (o : Duo) (s : State) : Outcome :=
  perform s fun h => do
    orIllegal (h.srcUOk o.a o.u o.lit && dstOk o.dst)
    let lanes ← h.performing o.p
    let d ← h.dst o.dst
    let a ← h.srcU o.a o.u o.lit
    let bad := (lanesIn lanes).any a.bad
    .ok (advance h (put32 h s d lanes { val := f lanes a.val, low := fun _ => bad, high := fun _ => bad }))
/-- R181 -/
def execBallot (o : Duo) (s : State) : Outcome := crossForm (fun c a _ => c &&& maskOf fun i => a i != 0) o s
/-- R181: an `s` register takes the value of the lowest performing strand. -/
def execFirstB32 (o : Duo) (s : State) : Outcome :=
  perform s fun h => do
    orIllegal (h.sregOk o.dst.toNat && h.srcUOk o.a o.u o.lit)
    let lanes ← h.performing o.p
    let a ← h.srcU o.a o.u o.lit
    .ok (advance h (if lanes = 0 then s else writeS h s o.dst.toNat (a.val (lowest lanes)) ((lanesIn lanes).any a.bad)))

/-! ## Scans and reductions (R182) -/

/-- A fold over the performing strands in lane order, from the first. -/
def foldLanes (f : Word → Word → Word) (ls : List Nat) (a : Nat → Word) : Word :=
  match ls with
  | [] => 0
  | i :: t => t.foldl (fun x j => f x (a j)) (a i)
/-- R182 -/
def execScanAddS32 (o : Duo) (s : State) : Outcome :=
  crossForm (fun c a i => foldLanes (· + ·) ((lanesIn c).filter fun j => decide (j ≤ i)) a) o s
/-- R182 -/
def execScanxAddS32 (o : Duo) (s : State) : Outcome :=
  crossForm (fun c a i => foldLanes (· + ·) ((lanesIn c).filter fun j => decide (j < i)) a) o s
/-- One value for every performing strand (R182). -/
def wred (f : Word → Word → Word) (o : Duo) (s : State) : Outcome := crossForm (fun c a _ => foldLanes f (lanesIn c) a) o s
/-- R182 -/
def execWredAddS32 (o : Duo) (s : State) : Outcome := wred (· + ·) o s
/-- R182 -/
def execWredMinS32 (o : Duo) (s : State) : Outcome := wred minS o s
/-- R182 -/
def execWredMaxS32 (o : Duo) (s : State) : Outcome := wred maxS o s
/-- R182 -/
def execWredMinN32 (o : Duo) (s : State) : Outcome := wred minN o s
/-- R182 -/
def execWredMaxN32 (o : Duo) (s : State) : Outcome := wred maxN o s
/-- R182 -/
def execWredAndB32 (o : Duo) (s : State) : Outcome := wred (· &&& ·) o s
/-- R182 -/
def execWredOrB32 (o : Duo) (s : State) : Outcome := wred (· ||| ·) o s
/-- R182 -/
def execWredXorB32 (o : Duo) (s : State) : Outcome := wred (· ^^^ ·) o s

end Sys2Proof.Machine
end

