-- ==== Sys2Proof/Machine/Matrix.lean ====
section
/-! DEFINITION. Matrix operations (R65, R66, R87 to R89, R216 to R222): opcode 0x3A, and their completion. -/

namespace Sys2Proof.Machine

/-! ## Accumulators (R65, R66) -/

/-- The shape that M or N names (R140). -/
def shapeOf (c : BitVec 2) : Nat := 32 * 2 ^ c.toNat
/-- Subtiles of an m × n accumulator. -/
def subtiles (m n : Nat) : Nat := m * n / 1024
/-- The row and column of an element by its place in an accumulator of `n` columns (R66). -/
def accIndex (n q : Nat) : Nat × Nat :=
  let sub := q / 1024
  (sub / (n / 32) * 32 + q % 1024 / 32, sub % (n / 32) * 32 + q % 32)
/-- The place of an element in an accumulator of `n` columns. -/
def accPlace (n i j : Nat) : Nat := ((i / 32) * (n / 32) + j / 32) * 1024 + 32 * (i % 32) + j % 32
/-- The elements of an m × n accumulator at subtile `t`, in the order of their places. -/
def readAcc (acc : List (Nat × Word)) (t m n : Nat) : List Word := denseAcc (m * n) (1024 * t) (acc.filter fun p => decide (1024 * t ≤ p.1))
/-- The elements replaced; zeros are not listed. -/
def writeAcc (acc : List (Nat × Word)) (t : Nat) (xs : List Word) : List (Nat × Word) :=
  (acc.filter fun p => decide (p.1 < 1024 * t))
    ++ (xs.zipIdx.filterMap fun p => if p.1 = 0 then none else some (1024 * t + p.2, p.1))
    ++ acc.filter fun p => decide (1024 * t + xs.length ≤ p.1)
/-- Subtiles that a gang claims (R65). -/
def accClaim (h : Header) : Nat := 8 * h.acc

/-! ## Operands (R216) -/

/-- The element formats of `mma` (R217), as operands read them. -/
inductive MmaFmt where
  | s8 | e4m3 | e5m2 | qn4 | f16 | bf16
  deriving DecidableEq, Repr
/-- The format of a FN. -/
def MmaFmt.of : Nat → MmaFmt
  | 0 => .s8 | 1 => .e4m3 | 2 => .e5m2 | 3 => .qn4 | 4 => .f16 | _ => .bf16
/-- Bytes of an element of B; A's are the same but for QN4 codes. -/
def MmaFmt.size : MmaFmt → Nat
  | .f16 => 2 | .bf16 => 2 | _ => 1
/-- The group of products that are summed exactly (R88). -/
def MmaFmt.group : MmaFmt → Nat
  | .f16 => 16 | .bf16 => 16 | _ => 32
/-- The value of an element of B. -/
def MmaFmt.value (t : MmaFmt) (x : Nat) : Exact :=
  match t with
  | .s8 => .ofInt (signed 8 x)
  | .e4m3 => Fmt.e4m3.value x
  | .e5m2 => Fmt.e5m2.value x
  | .qn4 => Fmt.e4m3.value x
  | .f16 => Fmt.f16.value x
  | .bf16 => Fmt.bf16.value x
/-- The value of a QN4 code: a number of 128ths (R83). -/
def qnExact (c : Nat) : Exact := .fin (bitOf c 3) (qnMagOf (c % 8)) 128

/-- Where a row's columns from 32 c on lie relative to an operand of `k` columns of `e` bytes (R216, log 17). -/
def tileRow (k e i c : Nat) : Nat := i / 32 * (32 * k * e) + c * (1024 * e) + 32 * (i % 32) * e
/-- The local runs of an operand, in increasing offset. -/
def operandRuns (base rows k e : Nat) : List (Nat × Nat) :=
  if k % 32 = 0 then [(base, rows * k * e)]
  else (List.range (rows / 32)).flatMap fun p => (List.range (ceilDiv k 32)).flatMap fun c =>
    (List.range 32).map fun r => (base + tileRow k e (32 * p + r) c, min 32 (k - 32 * c) * e)
/-- The bytes of a row of an operand. -/
def Op.tileBytes (o : Op) (base k e i : Nat) : List Byte :=
  (List.range (ceilDiv k 32)).flatMap fun c => o.localRange (base + tileRow k e i c) (min 32 (k - 32 * c) * e)
/-- A row as elements of `e` bytes. -/
def Op.tileElems (o : Op) (base k e i : Nat) : List Nat :=
  let bs := (o.tileBytes base k e i)
  (List.range k).map fun l => numAt bs (e * l) e
/-- A row of QN4 codes (R216). -/
def Op.qnRow (o : Op) (base i : Nat) : List Nat :=
  ((o.localRange (base + 1024 * (i / 32) + 32 * (i % 32)) 32)).flatMap fun b => [b.toNat % 16, b.toNat / 16]

/-! ## Products (R87 to R89) -/

/-- The exact sum of some terms, the sign of a zero by R77. -/
def exactSum : List Exact → Exact
  | [] => .fin false 0 1
  | x :: xs => xs.foldl (Exact.add false) x
/-- A list cut into runs of `g`. -/
def runsOf (g : Nat) (xs : List Exact) : List (List Exact) := (List.range (xs.length / g)).map fun q => (xs.drop (g * q)).take g
/-- The accumulation of R88 over the products of one element. -/
def accumulate (g : Nat) (acc : Nat) (ps : List Exact) : Nat :=
  (runsOf g ps).foldl (fun a p => fadd .f32 .rn a (roundTo .f32 .rn false (exactSum p))) acc
/-- The products of a row and a column; a skipped block's are exact +0 (R89). -/
def products (keep : Nat → Bool) (xs ys : List Exact) : List Exact :=
  (xs.zip ys).zipIdx.map fun p => if keep (p.2 / 8) then p.1.1.mul p.1.2 else .fin false 0 1
/-- The integer form: terms are added modulo 2 ^ 32 (R87). -/
def dotInt (keep : Nat → Bool) (acc : Nat) (xs ys : List Nat) : Nat :=
  wrap 32 (((xs.zip ys).zipIdx.map fun p => if keep (p.2 / 8) then signed 8 p.1.1 * signed 8 p.1.2 else 0).foldl (· + ·) (acc : Int))

/-! ## Issue -/

/-- The operations of the MAT format run in kernel mode only, with a legal shape (R140, R251). -/
def matOk (h : Here) (m n : BitVec 2) (sa : BitVec 6) : Bool := !h.i.sup && m != 3 && n != 3 && decide (sa.toNat ≤ 60)
/-- A local offset of an operand (R216). -/
def operandAligned (o : Word) : Except Stop PUnit := orTrap (o.toNat % 16 == 0) 3 (o.setWidth 64)
/-- An accumulator range within the gang's claim (R66). -/
def inClaim (h : Here) (t m n : Nat) : Except Stop PUnit :=
  orTrap (decide (t + subtiles m n ≤ accClaim h.g.hdr)) 5 (BitVec.ofNat 64 (t + subtiles m n - 1))

/-- The local runs of an operation's operands, in the order of R222. -/
def OpKind.runs : OpKind → List (Nat × Nat)
  | .mma fmt m n k sp a b _ _ map =>
    let t := MmaFmt.of fmt
    (if t = .qn4 then [(a.toNat, m * 32)] else operandRuns a.toNat m k t.size) ++ operandRuns b.toNat n k t.size
      ++ (if sp then [(map.toNat, m * k / 512)] else [])
  | .msacc m n _ _ _ rs cs =>
    (match rs with | some a => [(a.toNat, 4 * m)] | none => []) ++ (match cs with | some a => [(a.toNat, 4 * n)] | none => [])
  | .drain _ m n _ _ fmt toGlobal linear _ _ _ stride dest _ =>
    let e := [4, 2, 2, 1, 1, 4, 1].getD fmt 1
    if toGlobal then []
    else if linear then (List.range m).map fun i => (dest.toNat + stride * i, n * e)
    else [(dest.toNat, m * n * e)]
  | _ => []

/-- `mma` (R217). -/
def mmaForm (fmt : Nat) (m n : BitVec 2) (k : Nat) (sp : Bool) (sa sb : BitVec 6) (s : State) : Outcome :=
  perform s fun h => do
    orIllegal (matOk h m n sa)
    notInScout h
    let a := h.sreg sa.toNat
    let b := h.sreg (sa.toNat + 1)
    let acc := (h.sreg (sa.toNat + 2)).toNat
    let map := h.sreg (sa.toNat + 3)
    orTrap (decide (acc < 256)) 4 0
    operandAligned a
    operandAligned b
    if sp then operandAligned map
    let bar ← barrierOperand (h.sreg sb.toNat).toNat
    inClaim h (acc % 128) (shapeOf m) (shapeOf n)
    let kind : OpKind := .mma fmt (shapeOf m) (shapeOf n) k sp a b (acc % 128) (bitOf acc 7) map
    startOp h s kind 1 bar (apertureStatus kind.runs)

/-- R217 -/
def execMmaS8 (o : MmaByte) (s : State) : Outcome := mmaForm 0 o.m o.n (32 * (o.k.toNat + 1)) o.sp o.sa o.sb s
/-- R217 -/
def execMmaE4m3 (o : MmaByte) (s : State) : Outcome := mmaForm 1 o.m o.n (32 * (o.k.toNat + 1)) o.sp o.sa o.sb s
/-- R217 -/
def execMmaE5m2 (o : MmaByte) (s : State) : Outcome := mmaForm 2 o.m o.n (32 * (o.k.toNat + 1)) o.sp o.sa o.sb s
/-- R217 -/
def execMmaQn4 (o : MmaQn) (s : State) : Outcome := mmaForm 3 o.m o.n 64 o.sp o.sa o.sb s
/-- R217 -/
def execMmaF16 (o : MmaHalf) (s : State) : Outcome := mmaForm 4 o.m o.n (16 * (o.k.toNat + 1)) o.sp o.sa o.sb s
/-- R217 -/
def execMmaBf16 (o : MmaHalf) (s : State) : Outcome := mmaForm 5 o.m o.n (16 * (o.k.toNat + 1)) o.sp o.sa o.sb s

/-- A scale vector: none with 0xF in bits 31:28, else a local offset (R216). -/
def vectorOperand (o : Word) : Except Stop (Option Word) :=
  if o.toNat / 2 ^ 28 = 15 then .ok none else (operandAligned o).map fun _ => some o
/-- R219 -/
def execMsacc (o : Macc) (s : State) : Outcome :=
  perform s fun h => do
    orIllegal (matOk h o.m o.n o.sa)
    notInScout h
    let m := shapeOf o.m
    let n := shapeOf o.n
    let src := (h.sreg o.sa.toNat).toNat
    let acc := (h.sreg (o.sa.toNat + 2)).toNat
    let u := src % 128
    let t := acc
    let z := subtiles m n
    orTrap (decide (src < 256) && decide (acc < 128) && (u == t || decide (u + z ≤ t) || decide (t + z ≤ u))) 4 0
    let rs ← vectorOperand (h.sreg (o.sa.toNat + 1))
    let cs ← vectorOperand (h.sreg (o.sa.toNat + 3))
    let bar ← barrierOperand (h.sreg o.sb.toNat).toNat
    inClaim h u m n
    inClaim h t m n
    let kind : OpKind := .msacc m n u t (bitOf src 7) rs cs
    startOp h s kind 1 bar (apertureStatus kind.runs)
/-- R221 -/
def execMclear (o : Macc) (s : State) : Outcome :=
  perform s fun h => do
    orIllegal (matOk h o.m o.n o.sa)
    notInScout h
    let acc := (h.sreg o.sa.toNat).toNat
    orTrap (decide (acc < 128)) 4 0
    let bar ← barrierOperand (h.sreg o.sb.toNat).toNat
    inClaim h acc (shapeOf o.m) (shapeOf o.n)
    startOp h s (.mclear (shapeOf o.m) (shapeOf o.n) acc) 1 bar

/-- Bytes of an element of a destination format (R220). -/
def drainSize (fmt : Nat) : Nat := [4, 2, 2, 1, 1, 4, 1].getD fmt 1
/-- Whether the fields of a drain agree (R220). -/
def drainOk (add sp : Bool) (fmt n src out : Nat) : Bool :=
  let linear := bitOf out 0
  let rm := bitsOf out 4 2
  let stride := out / 256
  let e := drainSize fmt
  decide (src < 256) && bitsOf out 7 6 == 0
    && (if fmt = 0 then rm == 0 else if fmt ≤ 4 then decide (rm ≤ 4) else decide (rm ≤ 3))
    && (if linear then stride % e == 0 && decide (n * e ≤ stride) else stride == 0)
    && (!add || (if sp then linear && stride % 48 == 0 && (if bitOf src 7 then fmt == 5 else fmt == 0)
                 else !linear && (fmt == 0 || fmt == 1 || fmt == 2 || fmt == 5)))
/-- `mdrain` and `mdrain.add` (R220). -/
def drainForm (add : Bool) (o : Mdrain) (s : State) : Outcome :=
  perform s fun h => do
    let fmt := o.fmt.toNat
    orIllegal (matOk h o.m o.n o.sa && decide (fmt ≤ 6) && (!o.sp || o.sa.toNat % 2 == 0))
    notInScout h
    let m := shapeOf o.m
    let n := shapeOf o.n
    let src := (h.sreg o.sa.toNat).toNat
    let out := (h.sreg (o.sa.toNat + 1)).toNat
    orTrap (drainOk add o.sp fmt n src out) 4 0
    let dest : Quad := if o.sp then h.spair (o.sa.toNat + 2) else (h.sreg (o.sa.toNat + 2)).setWidth 64
    orTrap (if o.sp then !add || dest.toNat % 48 == 0 else dest.toNat % 16 == 0) 3 dest
    let bar ← barrierOperand (h.sreg o.sb.toNat).toNat
    inClaim h (src % 128) m n
    let kind : OpKind := .drain add m n (src % 128) (bitOf src 7) fmt o.sp (bitOf out 0) (bitOf out 1) (bitsOf out 4 2) (bitOf out 5)
      (out / 256) dest (h.sreg 63)
    startOp h s kind 4 bar (apertureStatus kind.runs)
/-- R220 -/
def execMdrain (o : Mdrain) (s : State) : Outcome := drainForm false o s
/-- R220 -/
def execMdrainAdd (o : Mdrain) (s : State) : Outcome := drainForm true o s

/-! ## Completion of matrix operations (R222) -/

/-- Whether an operation is the first in its MXE (R105). -/
def firstInMxe (s : State) (id : Nat) (o : Op) : Bool :=
  !(s.ops.any fun p => decide (p.1 < id) && inMxe p.2 && p.2.cluster == o.cluster)
/-- A gang's accumulator memory. -/
def accOf (s : State) (g : Nat) : List (Nat × Word) := ((get? s.gangs g).map (·.acc)).getD []
/-- The units of an operation's local operands. -/
def OpKind.operandUnits (k : OpKind) : List Nat := k.runs.flatMap fun r => localUnitsOf r.1 r.2

/-- The accumulator after an `mma` (R217). -/
def mmaResult (o : Op) (fmt m n k : Nat) (sp : Bool) (a b : Word) (zero : Bool) (map : Word) (old : List Word) : List Word :=
  let t := MmaFmt.of fmt
  let bits := if sp then o.localRange map.toNat (m * k / 512) else []
  let keep (i q : Nat) : Bool :=
    let bitNo := i / 8 * (k / 8) + q
    !sp || (bits.getD (bitNo / 8) 0).getLsbD (bitNo % 8)
  let start (x : Word) : Nat := if zero then 0 else x.toNat
  if t = .s8 then
    let rows := ((List.range m).map fun i => o.tileElems a.toNat k 1 i).toArray
    let cols := ((List.range n).map fun j => o.tileElems b.toNat k 1 j).toArray
    old.zipIdx.map fun p =>
      let ij := accIndex n p.2
      BitVec.ofNat 32 (dotInt (keep ij.1) (start p.1) (rows.getD ij.1 []) (cols.getD ij.2 []))
  else
    let rows := ((List.range m).map fun i =>
      if t = .qn4 then (o.qnRow a.toNat i).map qnExact else (o.tileElems a.toNat k t.size i).map t.value).toArray
    let cols := ((List.range n).map fun j => (o.tileElems b.toNat k t.size j).map t.value).toArray
    old.zipIdx.map fun p =>
      let ij := accIndex n p.2
      BitVec.ofNat 32 (accumulate t.group (start p.1) (products (keep ij.1) (rows.getD ij.1 []) (cols.getD ij.2 [])))

/-- An accumulator element as an exact value (R219, R220). -/
def accExact (int : Bool) (x : Word) : Exact := if int then .ofInt x.toInt else Fmt.f32.value x.toNat
/-- The accumulator after an `msacc` (R219). -/
def msaccResult (o : Op) (n : Nat) (int : Bool) (rs cs : Option Word) (m : Nat) (src old : List Word) : List Word :=
  let vec (v : Option Word) (len : Nat) : Array Exact :=
    match v with
    | some a => let bs := o.localRange a.toNat (4 * len); ((List.range len).map fun i => Fmt.f32.value (numAt bs (4 * i) 4)).toArray
    | none => (List.replicate len (Exact.fin false 1 1)).toArray
  let r := vec rs m
  let c := vec cs n
  (old.zip src).zipIdx.map fun p =>
    let ij := accIndex n p.2
    let x := ((r.getD ij.1 (.fin false 1 1)).mul (c.getD ij.2 (.fin false 1 1))).mul (accExact int p.1.2)
    BitVec.ofNat 32 (roundTo .f32 .rn false ((Fmt.f32.value p.1.1.toNat).add false x))
/-- The failing operand of an operation that touches the aperture (R63, R351). -/
def apertureUnit (k : OpKind) : List FailedUnit :=
  match firstAperture k.runs with
  | some a => [apertureBad a]
  | none => []

/-! ### Poison of the accumulator memory (R392) -/

/-- Whether elements of a gang's accumulator at subtile `t` hold poison. -/
def accPoisoned (s : State) (g t n : Nat) : Bool :=
  (((get? s.gangs g).map (·.badAcc)).getD []).any fun u => decide (256 * t ≤ u ∧ u < 256 * t + n / 4)
/-- The failing unit of a poisoned accumulator, which has no address: INFO and PAGE of its record are those of offset 0 (DESIGN CHOICE,
log 63). -/
def accUnit (s : State) (g t n : Nat) : List FailedUnit :=
  if accPoisoned s g t n then [{ status := 15, row5 := false, attr := 0, addr := 2 ^ 64 }] else []
/-- The accumulator elements that a matrix operation reads. -/
def OpKind.accReads : OpKind → List (Nat × Nat)
  | .mma _ m n _ _ _ _ t zero _ => if zero then [] else [(t, m * n)]
  | .msacc m n u t .. => [(u, m * n), (t, m * n)]
  | _ => []
/-- The accumulator elements that it writes. -/
def OpKind.accWrites : OpKind → List (Nat × Nat)
  | .mma _ m n _ _ _ _ t _ _ => [(t, m * n)]
  | .msacc m n _ t .. => [(t, m * n)]
  | .mclear m n t => [(t, m * n)]
  | .drain _ m n u _ _ _ _ _ _ clear .. => if clear then [(u, m * n)] else []
  | _ => []
/-- The accumulator changed by an operation; what it writes is no longer poisoned. -/
def putAcc (s : State) (g : Nat) (k : OpKind) (acc : List (Nat × Word)) : State :=
  modGang s g fun x => { x with
    acc, badAcc := x.badAcc.filter fun u => !(k.accWrites.any fun r => decide (256 * r.1 ≤ u ∧ u < 256 * r.1 + r.2 / 4)) }

/-- What a matrix operation makes of the accumulator memory. -/
def matrixEffect (o : Op) (acc : List (Nat × Word)) : List (Nat × Word) :=
  match o.kind with
  | .mma fmt m n k sp a b t zero map => writeAcc acc t (mmaResult o fmt m n k sp a b zero map (readAcc acc t m n))
  | .msacc m n u t int rs cs => writeAcc acc t (msaccResult o n int rs cs m (readAcc acc u m n) (readAcc acc t m n))
  | .mclear m n t => writeAcc acc t (List.replicate (m * n) 0)
  | _ => acc
/-- A matrix operation completes (R222): with another status than OK its accumulator stays as it is. -/
def completeMatrix (s : State) (id : Nat) : State :=
  match get? s.ops id with
  | none => s
  | some o =>
    if o.cls != 1 || !(firstInMxe s id o) || !(oldestOfClass s id o) then s
    else
      let done (s : State) (bad : List FailedUnit) : State := finishOp s id o (o.worst bad) bad fun st => .engine st
      match apertureUnit o.kind with
      | b :: _ => done s [b]
      | [] =>
        let r := engineReads s id o.kind.operandUnits
        let o1 := (get? r.1.ops id).getD o
        let s1 := noteOpStray r.1 o (firstStray (o.header s) o.kind.runs)
        match o1.badReads o.kind.operandUnits ++ o.kind.accReads.flatMap fun x => accUnit s o.gang x.1 x.2 with
        | [] => done (putAcc s1 o.gang o.kind (matrixEffect o1 (accOf s1 o.gang))) []
        | bad => done s1 bad
/-- R222 -/
def execMatrixCompletion (op : Nat) (s : State) : Outcome := event (completeMatrix s op)

/-! ## Completion of drains (R220) -/

/-- The rounding mode of a drain (R78). -/
def drainRm (rm : Nat) (seed : Word) : Rm :=
  match rm with | 0 => .rn | 1 => .rz | 2 => .rd | 3 => .ru | _ => .rs seed
/-- The floating format of a drain. -/
def drainFmt : Nat → Fmt
  | 0 => .f32 | 1 => .f16 | 2 => .bf16 | 3 => .e4m3 | _ => .e5m2
/-- The value that a drain writes for an element (R220). -/
def drainValue (int : Bool) (fmt : Nat) (sat : Bool) (rm : Rm) (x : Word) : Nat :=
  match fmt with
  | 5 => if int then x.toNat else wrap 32 (roundToInt rm (-(2 ^ 31)) (2 ^ 31 - 1) (accExact int x))
  | 6 => wrap 8 (roundToInt rm (-128) 127 (accExact int x))
  | f =>
    if int then roundTo (drainFmt f) rm sat (.ofInt x.toInt)
    else if f = 0 then x.toNat
    else convert .f32 (drainFmt f) rm sat x.toNat
/-- The value after `mdrain.add` into a local tile (R220). -/
def drainSum (int : Bool) (fmt : Nat) (sat : Bool) (rm : Rm) (old : Nat) (x : Word) : Nat :=
  if fmt = 5 then
    let v := signed 32 old + signed 32 (drainValue int 5 sat rm x)
    wrap 32 (if sat then clampInt (-(2 ^ 31)) (2 ^ 31 - 1) v else v)
  else roundTo (drainFmt fmt) rm sat (((drainFmt fmt).value old).add (rm == .rd) (accExact int x))
/-- The elements of a drain with their places beyond the destination, in increasing address (R199, R220). -/
def drainElems (m n : Nat) (linear : Bool) (stride e : Nat) (xs : List Word) : List (Nat × Word) :=
  if linear then
    let a := xs.toArray
    (List.range m).flatMap fun i => (List.range n).map fun j => (stride * i + e * j, a.getD (accPlace n i j) 0)
  else xs.zipIdx.map fun p => (e * p.2, p.1)

/-- A drain's contributions to the cells of one sector each, sent or staged (R220, R370). -/
structure CellWrites where
  state   : State
  pending : Bool := false
  here    : List (Nat × List Nat) := []
  bad     : List FailedUnit := []
/-- Contributions by sector, in the order in which the sectors are first met. -/
def bySector (cs : List (Nat × Nat)) : List (Nat × List Nat) :=
  (cs.foldl (fun xs c => insertNew xs c.1) []).map fun a => (a, (cs.filter fun c => c.1 == a).map (·.2))
/-- A cell with the values of some contributions added (R91). -/
def Cell.addAll (c : Cell) (t : CellFmt) (xs : List Nat) : Cell := xs.foldl (fun c x => c.add (t.value x)) c
/-- What a peer is asked for contributions to one of its sectors: one alone, or a partial image (R373); in safe mode each. -/
def cellAsks (safe : Bool) (t : CellFmt) (x : Nat × List Nat) : List Ask :=
  let one (v : Nat) : Ask := { opc := 4, size := 48, addr := x.1, sub := t.sub, imm := toBytes 8 v }
  match x.2 with
  | [v] => [one v]
  | vs => if safe then vs.map one else [{ opc := 5, size := 48, addr := x.1, data := ((Cell.read []).addAll t vs).image }]
/-- The key of a peer's answer to a contribution of an operation: its sector, and its number there. -/
def cellKey (a n : Nat) : Nat := 2 ^ 80 + 2 ^ 64 * n + a
/-- The contributions to one sector checked, and sent to a peer if the sector is the peer's. -/
def stageCell (id : Nat) (o : Op) (t : CellFmt) (r : CellWrites) (x : Nat × List Nat) : CellWrites :=
  let c := check r.state (some o.tag) x.1 rightAtomic true true false
  match c.2 with
  | .ok => { r with state := c.1, here := r.here ++ [x] }
  | .fail row level ro =>
    { r with state := c.1, bad := r.bad ++ [{ status := rowStatus row, row5 := row == 5, attr := pattr row level ro true, addr := x.1 }] }
  | .host a => { r with state := askHost c.1 a, pending := true }
  | .peer d =>
    (cellAsks o.safe t x).zipIdx.foldl (fun r q =>
      let y := askEngine r.state id o d (cellKey x.1 q.2) q.1
      match y.2 with
      | none => { r with state := y.1, pending := true }
      | some a => if a.status = 0 then { r with state := y.1 } else { r with state := y.1, bad := r.bad ++ [badAnswer x.1 true a] })
      { r with state := c.1 }
/-- Contributions sector by sector, as one step (R102). -/
def stageCells (s : State) (id : Nat) (o : Op) (t : CellFmt) (cs : List (Nat × List Nat)) : CellWrites :=
  let qs := cs.flatMap fun x => match placeOf s x.1 with
    | .peer d _ => (List.range (cellAsks o.safe t x).length).map fun n => (d, cellKey x.1 n)
    | _ => []
  let way := takeWay s id (wayFor qs (cs.any fun x => !(isFar s x.1)))
  if way.2 then cs.foldl (stageCell id o t) { state := way.1 } else { state := way.1, pending := true }
/-- The staged contributions made, sector by sector. -/
def commitCells (o : Op) (t : CellFmt) (s : State) (cs : List (Nat × List Nat)) : State :=
  cs.foldl (fun s x => putCell s x.1 ((Cell.read (rawSector s x.1)).addAll t x.2) o.writer) s

/-- A drain reads its accumulator, and clears it, when its turn comes in the MXE; elements that cannot be read make it POISON
(R105, R220, R392). -/
def captureDrain (s : State) (id : Nat) (o : Op) : State :=
  match o.kind with
  | .drain _ m n u _ _ _ _ _ _ clear _ _ _ =>
    let acc := accOf s o.gang
    let bad := accPoisoned s o.gang u (m * n)
    let s1 := modOp s id fun o => { o with captured := some (readAcc acc u m n), status := if bad then max o.status 15 else o.status }
    if clear then putAcc s1 o.gang o.kind (writeAcc acc u (List.replicate (m * n) 0)) else s1
  | _ => s
/-- The writes of a drain whose accumulator has been read, and its completion (R220). -/
def finishDrain (s : State) (id : Nat) (o : Op) (xs : List Word) : State :=
  match o.kind with
  | .drain add m n _ int fmt toGlobal linear sat rm _ stride dest seed =>
    let done (s : State) (bad : List FailedUnit) : State := finishOp s id o (o.worst bad) bad fun st => .engine st
    let h := o.header s
    let e := drainSize fmt
    let mode := drainRm rm seed
    match apertureUnit o.kind, o.status with
    | b :: _, _ => done s [b]
    | [], 15 => done s [{ status := 15, row5 := false, attr := 0, addr := 2 ^ 64 }]
    | [], _ =>
      if add && toGlobal then
        let t : CellFmt := if int then .s32 else .float .f32
        let cs := (drainElems m n true stride 48 xs).map fun p => ((dest.toNat + p.1) % 2 ^ 64, p.2.toNat)
        let r := stageCells s id o t (bySector cs)
        if r.pending then r.state else done (commitCells o t r.state r.here) r.bad
      else
        let elems := drainElems m n linear stride e xs
        let value (p : Nat × Word) : Nat :=
          if add then drainSum int fmt sat mode (ofBytes (readLocal s o.gang h (dest.toNat + p.1) e)) p.2 else drainValue int fmt sat mode p.2
        let bs := elems.flatMap fun p => (toBytes e (value p)).zipIdx.map fun b => ((dest.toNat + p.1 + b.2) % 2 ^ 64, b.1)
        if toGlobal then
          let w := stageWrites s id o (gatherUnits bs)
          if w.pending then w.state else done (commitWrites o w) w.bad
        else
          -- what an add reads of a local destination may hold poison, and is then not written
          let bad := if add then (o.kind.operandUnits.filter fun u => poisonedUnit s o (u - 2 ^ 64)) else []
          done (writeLocalBytes (noteOpStray s o (firstStray h o.kind.runs)) o.gang h (bs.filter fun b => !(bad.contains (localUnit b.1))))
            (bad.map fun u => { status := 15, row5 := false, attr := 0, addr := u })
  | _ => s
/-- A drain goes on (R220): it reads its accumulator in its turn, then its writes join the order as one step. -/
def completeDrain (s : State) (id : Nat) : State :=
  match get? s.ops id with
  | none => s
  | some o =>
    if o.cls != 4 then s
    else
      let s1 := if o.captured.isNone && firstInMxe s id o then captureDrain s id o else s
      match get? s1.ops id with
      | none => s1
      | some o1 =>
        match o1.captured with
        | none => s1
        | some xs => if oldestOfClass s1 id o1 then finishDrain s1 id o1 xs else s1
/-- R220 -/
def execDrainCompletion (op : Nat) (s : State) : Outcome := event (completeDrain s op)

end Sys2Proof.Machine
end

