-- ==== Sys2Proof/Machine/Rationals.lean ====
section
/-! DEFINITION. Rational arithmetic for the units that compute exactly before one rounding (R271, R274, R281, R282). -/

namespace Sys2Proof.Machine

/-- A rational: a numerator over a positive denominator, not necessarily in lowest terms. -/
structure Frac where
  num : Int
  den : Nat
  deriving DecidableEq, Repr

def Frac.ofInt (x : Int) : Frac := ⟨x, 1⟩
def Frac.add (x y : Frac) : Frac := ⟨x.num * y.den + y.num * x.den, x.den * y.den⟩
def Frac.neg (x : Frac) : Frac := ⟨-x.num, x.den⟩
def Frac.sub (x y : Frac) : Frac := x.add y.neg
def Frac.mul (x y : Frac) : Frac := ⟨x.num * y.num, x.den * y.den⟩
/-- The quotient by a divisor that is not 0. -/
def Frac.div (x y : Frac) : Frac :=
  if 0 ≤ y.num then ⟨x.num * y.den, x.den * y.num.natAbs⟩ else ⟨-(x.num * y.den), x.den * y.num.natAbs⟩
def Frac.lt (x y : Frac) : Bool := decide (x.num * y.den < y.num * x.den)
def Frac.le (x y : Frac) : Bool := decide (x.num * y.den ≤ y.num * x.den)
def Frac.eq (x y : Frac) : Bool := decide (x.num * y.den = y.num * x.den)
def Frac.isZero (x : Frac) : Bool := x.num == 0
def Frac.abs (x : Frac) : Frac := ⟨x.num.natAbs, x.den⟩
def Frac.max (x y : Frac) : Frac := if x.le y then y else x
def Frac.min (x y : Frac) : Frac := if x.le y then x else y
/-- A power of two. -/
def Frac.pow2 (e : Int) : Frac := let p := scale2 e 1 1; ⟨p.1, p.2⟩
/-- The greatest integer not above a rational. -/
def Frac.floor (x : Frac) : Int := x.num / (x.den : Int)
/-- The least integer not below a rational. -/
def Frac.ceil (x : Frac) : Int := -((-x.num) / (x.den : Int))
/-- A rational rounded to FP32; an exact zero is +0. -/
def Frac.toF32 (rm : Rm) (x : Frac) : Nat := roundTo .f32 rm false (.fin (decide (x.num < 0)) x.num.natAbs x.den)
/-- The value of a finite code of a format. -/
def Fmt.frac? (t : Fmt) (x : Nat) : Option Frac :=
  match t.value x with
  | .fin s n d => some ⟨signedNum s n, d⟩
  | _ => none

end Sys2Proof.Machine
end

