-- ==== Sys2Proof/Machine/Ray.lean ====
section
/-! DEFINITION. Rays (R233 to R235, R266, R268 to R276): the issue of `trace`, the traversal of one ray, and the completion
with its appends and hit records. -/

namespace Sys2Proof.Machine

/-! ## Records and vectors -/

/-- A vector of three rationals. -/
structure Vec where
  x : Frac
  y : Frac
  z : Frac
  deriving DecidableEq, Repr
def Vec.get (v : Vec) (k : Nat) : Frac := match k with | 0 => v.x | 1 => v.y | _ => v.z
def Vec.sub (a b : Vec) : Vec := ⟨a.x.sub b.x, a.y.sub b.y, a.z.sub b.z⟩
def Vec.dot (a b : Vec) : Frac := ((a.x.mul b.x).add (a.y.mul b.y)).add (a.z.mul b.z)
def Vec.cross (a b : Vec) : Vec :=
  ⟨(a.y.mul b.z).sub (a.z.mul b.y), (a.z.mul b.x).sub (a.x.mul b.z), (a.x.mul b.y).sub (a.y.mul b.x)⟩
/-- Three FP32 words as a vector; none when one is not finite. -/
def vecAt (bs : List Byte) (off : Nat) : Option Vec :=
  match Fmt.f32.frac? (numAt bs off 4), Fmt.f32.frac? (numAt bs (off + 4) 4), Fmt.f32.frac? (numAt bs (off + 8) 4) with
  | some x, some y, some z => some ⟨x, y, z⟩
  | _, _, _ => none

/-- A ray that can hit something. -/
structure Ray where
  origin : Vec
  dir    : Vec
  tmin   : Frac
  tmax   : Option Frac         -- none: +Inf
  time   : Exact
  mask   : Nat
  deriving DecidableEq, Repr

/-- A ray of a record; none when it misses (R234, R274). -/
def readRay (bs : List Byte) : Option Ray :=
  let w (k : Nat) : Nat := numAt bs (4 * k) 4
  if (List.range 9).any fun k => Fmt.f32.isNan (w k) then none
  else match vecAt bs 0, vecAt bs 16, Fmt.f32.frac? (w 3) with
    | some origin, some dir, some tmin =>
      let top := Fmt.f32.value (w 7)
      let tmax := Fmt.f32.frac? (w 7)
      if top.neg && !(match top with | .fin .. => true | _ => false) then none
      else if tmax.any fun t => t.lt tmin then none
      else some { origin, dir, tmin, tmax, time := Fmt.f32.value (w 8), mask := w 9 % 2 ^ 8 }
    | _, _, _ => none

/-- A candidate hit (R274, R275). -/
structure Candidate' where
  t     : Frac
  b1    : Frac
  b2    : Frac
  prim  : Nat
  leaf  : Nat
  index : Nat
  live  : Bool
  deriving DecidableEq, Repr

/-- Bounds of a child: an absent one is infinite. -/
structure Box where
  lo : List (Option Frac)
  hi : List (Option Frac)
  deriving DecidableEq, Repr

/-! ## Traversal (R268 to R275) -/

/-- The keys of a motion visit: the key lines used, and the fraction between two of them (R271). -/
structure Keys where
  count : Nat
  first : Nat
  frac  : Option Frac          -- none: the first key alone
  deriving DecidableEq, Repr

/-- What is still to be visited, the next first. -/
inductive Visit where
  | node (addr depth : Nat)
  | child (meta_ nodeBase leafBase depth : Nat) (box : Box) (keys : Option Keys)
  | tri (addr : Nat) (keys : Option Keys)
  deriving DecidableEq, Repr

/-- How a ray ends before its traversal does. -/
inductive RayStop where
  | pending
  | ends (status : Nat) (bad : Option FailedUnit)
  deriving DecidableEq, Repr

/-- What a trace gives every ray. -/
structure TraceEnv where
  id    : Nat
  table : Nat
  count : Nat
  first : Bool
  cull  : Bool

/-- A ray on its way. -/
structure RayRun where
  s       : State
  work    : List Visit
  best    : Option Candidate' := none
  ignored : Bool := false
  fetches : Nat := 0
  tests   : Nat := 0
  stop    : Option RayStop := none

/-- Fetches or tests after which a ray ends with PARTIAL (R234). -/
def rayLimit : Nat := 2 ^ 20
/-- A ray that stops. -/
def RayRun.halt (r : RayRun) (st : Nat) (bad : Option FailedUnit := none) : RayRun := { r with stop := some (.ends st bad) }
/-- A fault of a bad address (R269). -/
def badAddress (a : Nat) : FailedUnit := { status := 14, row5 := false, attr := 0, addr := a / 16 * 16 }
/-- Bytes that a ray reads, each unit once for its operation (R102, R235). -/
def rayRead (r : RayRun) (id a n : Nat) : RayRun × List Byte :=
  let us := (unitsOfRange a n).map (· % 2 ^ 64)
  let x := engineReads r.s id us
  let r1 := { r with s := x.1 }
  if !x.2 then ({ r1 with stop := some .pending }, [])
  else match get? x.1.ops id with
    | none => ({ r1 with stop := some .pending }, [])
    | some o =>
      match (o.badReads us).head? with
      | some b => (r1.halt b.status (some b), [])
      | none => (r1, ((us.flatMap fun u => match o.read? u with | some y => y.bytes | none => []).drop (a % 16)).take n)

/-- Where the segment of a ray may end now (R273). -/
def RayRun.limit (r : RayRun) (e : TraceEnv) (ray : Ray) : Option Frac :=
  if e.first then ray.tmax else match r.best with | some c => some c.t | none => ray.tmax
/-- The segment cut to one axis of a box; none when nothing is left. -/
def cutAxis (o d : Frac) (lo hi : Option Frac) (seg : Frac × Option Frac) : Option (Frac × Option Frac) :=
  if d.isZero then
    if (lo.any fun l => o.lt l) || (hi.any fun h => h.lt o) then none else some seg
  else
    let near := (if 0 < d.num then lo else hi).map fun l => (l.sub o).div d
    let far := (if 0 < d.num then hi else lo).map fun h => (h.sub o).div d
    let a := match near with | some n => seg.1.max n | none => seg.1
    let b := match seg.2, far with
      | some x, some f => some (x.min f)
      | some x, none => some x
      | none, f => f
    if b.any fun y => y.lt a then none else some (a, b)
/-- Whether the segment meets a box (R273). -/
def meetsBox (ray : Ray) (limit : Option Frac) (b : Box) : Bool :=
  let seg := [0, 1, 2].foldl (fun (g : Option (Frac × Option Frac)) k =>
    g.bind (cutAxis (ray.origin.get k) (ray.dir.get k) (b.lo.getD k none) (b.hi.getD k none)))
    (if limit.any fun t => t.lt ray.tmin then none else some (ray.tmin, limit))
  seg.isSome

/-! ### Nodes -/

/-- The exact bounds of a child in one line; none when every child of the line is empty, or this one is (R268, R269). -/
def lineBounds (bs : List Byte) (c : Nat) : Option (List Frac × List Frac) :=
  match vecAt bs 0 with
  | none => none
  | some org =>
    let ex (k : Nat) : Nat := numAt bs (12 + k) 1
    let q (k : Nat) : Nat := numAt bs (0x40 + 6 * c + k) 1
    if [0, 1, 2].any fun k => ex k == 255 || decide (q (k + 3) < q k) then none
    else
      let at_ (k n : Nat) : Frac := (org.get k).add ((Frac.ofInt n).mul (Frac.pow2 ((ex k : Int) - 128)))
      some ([0, 1, 2].map fun k => at_ k (q k), [0, 1, 2].map fun k => at_ k (q (k + 3)))
/-- Bounds of one line as a box. -/
def exactBox (b : List Frac × List Frac) : Box := { lo := b.1.map some, hi := b.2.map some }
/-- A bound rounded outward (R271). -/
def outward (up : Bool) (x : Frac) : Option Frac := Fmt.f32.frac? (x.toF32 (if up then .ru else .rd))
/-- The box between two keys (R271). -/
def motionBox (f : Frac) (a b : List Frac × List Frac) : Box :=
  let slack (x y : Frac) : Frac := (Frac.pow2 (-24)).mul (y.sub x).abs
  let z : Frac := Frac.ofInt 0
  let between (x y : Frac) : Frac := x.add (f.mul (y.sub x))
  { lo := [0, 1, 2].map fun k => let x := a.1.getD k z; let y := b.1.getD k z; outward false ((between x y).sub (slack x y))
    hi := [0, 1, 2].map fun k => let x := a.2.getD k z; let y := b.2.getD k z; outward true ((between x y).add (slack x y)) }
/-- The key times of a motion node, when they are finite and strictly increasing (R270). -/
def keyTimes (bs : List Byte) (k : Nat) : Option (List Frac) :=
  let ts := (List.range k).map fun j => Fmt.f32.frac? (numAt bs (0x70 + 4 * j) 4)
  if (ts.all Option.isSome) && ((List.range (k - 1)).all fun j =>
      match ts.getD j none, ts.getD (j + 1) none with | some a, some b => a.lt b | _, _ => false)
  then some (ts.filterMap id) else none
/-- Whether a value is at or below a rational. -/
def exactLe (x : Exact) (t : Frac) : Bool := !((Exact.fin (decide (t.num < 0)) t.num.natAbs t.den).lt x)
def exactGe (x : Exact) (t : Frac) : Bool := !(x.lt (Exact.fin (decide (t.num < 0)) t.num.natAbs t.den))
/-- The keys that a time uses (R271). -/
def keysAt (time : Exact) (ts : List Frac) : Keys :=
  let k := ts.length
  let z : Frac := Frac.ofInt 0
  if exactLe time (ts.getD 0 z) then { count := k, first := 0, frac := none }
  else if exactGe time (ts.getD (k - 1) z) then { count := k, first := k - 1, frac := none }
  else
    let j := ((List.range (k - 1)).filter fun j => exactGe time (ts.getD j z)).getLastD 0
    let tau : Frac := match time with | .fin s n d => ⟨signedNum s n, d⟩ | _ => z
    let f := ((tau.sub (ts.getD j z)).div ((ts.getD (j + 1) z).sub (ts.getD j z))).toF32 .rn
    { count := k, first := j, frac := Fmt.f32.frac? f }
/-- The visits of a node's children, in index order (R273). -/
def childVisits (bs : List Byte) (depth : Nat) (keys : Option Keys) (box : Nat → Option Box) : List Visit :=
  (List.range 8).filterMap fun c =>
    (box c).map fun b => .child (numAt bs (0x10 + 4 * c) 4) (numAt bs 0x30 8) (numAt bs 0x38 8) depth b keys
/-- A key line's bytes other than key 0's: ORIGIN and EXP, then BOUNDS (R270). -/
def readKeyLine (r : RayRun) (id a : Nat) : RayRun × List Byte :=
  let x := rayRead r id a 16
  if x.1.stop.isSome then x
  else
    let y := rayRead x.1 id ((a + 0x40) % 2 ^ 64) 48
    (y.1, x.2 ++ List.replicate 48 0 ++ y.2)
/-- A fetch counted; the last one allowed ends the ray once it has been made (R234). -/
def RayRun.fetched (r : RayRun) (n : Nat) : RayRun := { r with fetches := r.fetches + n }
def RayRun.budget (r : RayRun) : RayRun :=
  if r.stop.isSome then r else if rayLimit ≤ r.fetches || rayLimit ≤ r.tests then r.halt 3 else r
/-- A visited node read as a static node (R268). -/
def staticVisit (r : RayRun) (bs : List Byte) (depth : Nat) : RayRun :=
  { r with work := childVisits bs depth none (fun c => (lineBounds bs c).map exactBox) ++ r.work }
/-- A visited motion node (R270, R271). -/
def motionVisit (e : TraceEnv) (ray : Ray) (r : RayRun) (bs : List Byte) (a depth : Nat) (ts : List Frac) : RayRun :=
  let k := keysAt ray.time ts
  let line (r : RayRun) (j : Nat) : RayRun × List Byte :=
    if j = 0 then (r, bs) else let x := readKeyLine r e.id ((a + 192 * j) % 2 ^ 64); (x.1.fetched 1, x.2)
  let x := line r k.first
  if x.1.stop.isSome then x.1
  else match k.frac with
    | none => { x.1 with work := childVisits bs depth (some k) (fun c => (lineBounds x.2 c).map exactBox) ++ x.1.work }
    | some f =>
      let y := line x.1 (k.first + 1)
      if y.1.stop.isSome then y.1
      else
        let box (c : Nat) : Option Box :=
          match lineBounds x.2 c, lineBounds y.2 c with
          | some p, some q => some (motionBox f p q)
          | _, _ => none
        { y.1 with work := childVisits bs depth (some k) box ++ y.1.work }
/-- A node is entered (R268, R273): the 65th of a path ends the ray. -/
def visitNode (e : TraceEnv) (ray : Ray) (r : RayRun) (a depth : Nat) : RayRun :=
  if 64 < depth then r.halt 3
  else if a % 192 != 0 then r.halt 14 (some (badAddress a))
  else
    let x := rayRead r e.id a 112
    if x.1.stop.isSome then x.1
    else
      let r1 := x.1.fetched 1
      match numAt x.2 15 1 % 4 with
      | 0 => (staticVisit r1 x.2 depth).budget
      | 1 =>
        let y := rayRead r1 e.id ((a + 0x70) % 2 ^ 64) 32
        if y.1.stop.isSome then y.1
        else
          let bs := x.2 ++ y.2
          match keyTimes bs (bitsOf (numAt bs 15 1) 4 2 + 1) with
          | some ts => (motionVisit e ray y.1 bs a depth ts).budget
          | none => (staticVisit y.1 bs depth).budget
      | _ => r1.budget
/-- A child is entered when its kind, its mask and its box allow it (R269, R273). -/
def visitChild (e : TraceEnv) (ray : Ray) (r : RayRun) (m nb lb depth : Nat) (b : Box) (keys : Option Keys) : RayRun :=
  let off := bitsOf m 31 14
  let tris (keys : Option Keys) (step : Nat) : List Visit :=
    (List.range (bitsOf m 13 10 + 1)).map fun t => .tri ((lb + 48 * (off + t * step)) % 2 ^ 64) keys
  if (bitsOf m 9 2 &&& ray.mask) = 0 || !(meetsBox ray (r.limit e ray) b) then r
  else match m % 4 with
    | 1 => { r with work := .node ((nb + 192 * off) % 2 ^ 64) (depth + 1) :: r.work }
    | 2 => { r with work := tris none 1 ++ r.work }
    | 3 => match keys with
      | some k => { r with work := tris (some k) k.count ++ r.work }
      | none => r
    | _ => r

/-! ### Triangles -/

/-- The three vertices of a leaf sector; none when a coordinate is not finite (R272). -/
def readTri (bs : List Byte) : Option (Vec × Vec × Vec) :=
  match vecAt bs 0, vecAt bs 12, vecAt bs 24 with
  | some a, some b, some c => some (a, b, c)
  | _, _, _ => none
/-- A vertex between two keys, each coordinate rounded (R271). -/
def lerpVec (f : Frac) (a b : Vec) : Option Vec :=
  let g (x y : Frac) : Option Frac := Fmt.f32.frac? ((x.add (f.mul (y.sub x))).toF32 .rn)
  match g a.x b.x, g a.y b.y, g a.z b.z with
  | some x, some y, some z => some ⟨x, y, z⟩
  | _, _, _ => none
/-- The vertices of a triangle between two keys. -/
def lerpTri (f : Frac) (a b : Vec × Vec × Vec) : Option (Vec × Vec × Vec) :=
  match lerpVec f a.1 b.1, lerpVec f a.2.1 b.2.1, lerpVec f a.2.2 b.2.2 with
  | some x, some y, some z => some (x, y, z)
  | _, _, _ => none
/-- The exact solution of R274: t, b1 and b2 of a candidate. -/
def hitTri (ray : Ray) (limit : Option Frac) (cull noCull : Bool) (v : Vec × Vec × Vec) : Option (Frac × Frac × Frac) :=
  let e1 := v.2.1.sub v.1
  let e2 := v.2.2.sub v.1
  let s := ray.origin.sub v.1
  let p := ray.dir.cross e2
  let det := e1.dot p            -- −(direction · n)
  if det.isZero then none
  else
    let q := s.cross e1
    let b1 := (s.dot p).div det
    let b2 := (ray.dir.dot q).div det
    let t := (e2.dot q).div det
    let z : Frac := Frac.ofInt 0
    if b1.lt z || b2.lt z || (Frac.ofInt 1).lt (b1.add b2) || t.lt ray.tmin || (limit.any fun l => l.lt t) then none
    else if cull && !noCull && decide (det.num < 0) then none
    else some (t, b1, b2)
/-- Whether a candidate takes the place of the best (R274). -/
def Candidate'.beats (c d : Candidate') : Bool :=
  c.t.lt d.t || (c.t.eq d.t && (decide (c.prim < d.prim) || (c.prim == d.prim && decide (c.leaf < d.leaf))))
/-- A candidate examined: its record's index, then the record (R234, R275). -/
def examineHit (e : TraceEnv) (soff : Nat) (r : RayRun) (bs : List Byte) (leaf : Nat) (x : Frac × Frac × Frac) : RayRun :=
  let i := numAt bs 40 4 + soff
  if e.count ≤ i then { r with best := none }.halt 9
  else
    let y := rayRead r e.id ((e.table + 32 * i) % 2 ^ 64) 8
    if y.1.stop.isSome then y.1
    else
      let c : Candidate' := { t := x.1, b1 := x.2.1, b2 := x.2.2, prim := numAt bs 36 4, leaf, index := i, live := ofBytes y.2 != 0 }
      if e.first then (if c.live then { y.1 with best := some c }.halt 0 else { y.1 with ignored := true })
      else match y.1.best with
        | some d => if c.beats d then { y.1 with best := some c } else y.1
        | none => { y.1 with best := some c }
/-- The vertices of a triangle of a run, at the keys of its visit (R271, R272). -/
def triVertices (e : TraceEnv) (r : RayRun) (bs : List Byte) (a : Nat) (keys : Option Keys) : RayRun × Option (Vec × Vec × Vec) :=
  let at_ (r : RayRun) (j : Nat) : RayRun × List Byte :=
    if j = 0 then (r, bs)
    else
      let b := (a + 48 * j) % 2 ^ 64
      if b % 48 != 0 then (r.halt 14 (some (badAddress b)), []) else rayRead r e.id b 48
  match keys with
  | none => (r, readTri bs)
  | some k =>
    let x := at_ r k.first
    if x.1.stop.isSome then (x.1, none)
    else match k.frac with
      | none => (x.1, readTri x.2)
      | some f =>
        let y := at_ x.1 (k.first + 1)
        if y.1.stop.isSome then (y.1, none)
        else match readTri x.2, readTri y.2 with
          | some p, some q => (y.1, lerpTri f p q)
          | _, _ => (y.1, none)
/-- A triangle is tested. -/
def visitTri (e : TraceEnv) (soff : Nat) (ray : Ray) (r : RayRun) (a : Nat) (keys : Option Keys) : RayRun :=
  if a % 48 != 0 then r.halt 14 (some (badAddress a))
  else
    let x := rayRead r e.id a 48
    if x.1.stop.isSome then x.1
    else
      let y := triVertices e { x.1 with tests := x.1.tests + 1 } x.2 a keys
      if y.1.stop.isSome then y.1
      else match y.2.bind (hitTri ray (y.1.limit e ray) e.cull (bitOf (numAt x.2 44 4) 0)) with
        | some h => (examineHit e soff y.1 x.2 a h).budget
        | none => y.1.budget

/-- The traversal of one ray, visit by visit. -/
def traverse (e : TraceEnv) (soff : Nat) (ray : Ray) : Nat → RayRun → RayRun
  | 0, r => r
  | n + 1, r =>
    if r.stop.isSome then r
    else match r.work with
      | [] => r
      | v :: rest =>
        let r1 := { r with work := rest }
        traverse e soff ray n (match v with
          | .node a d => visitNode e ray r1 a d
          | .child m nb lb d b k => visitChild e ray r1 m nb lb d b k
          | .tri a k => visitTri e soff ray r1 a k)
/-- More visits than any ray can make: eight children for each of the fetches, sixteen tests for the last child, and the tests. -/
def visitFuel : Nat := 2 ^ 24

/-! ## One ray (R233, R234) -/

/-- How a ray has ended: status, hit, the unit at which it ended, and what its append needs. -/
structure RayEnd where
  status : Nat
  best   : Option Candidate'
  bad    : Option FailedUnit
  pixel  : Nat
  order  : Nat
  payload : Nat

/-- One ray from its record on; none while an answer is missing. -/
def runRay (s : State) (e : TraceEnv) (root rec : Nat) : State × Option RayEnd :=
  let x := rayRead { s := s, work := [.node root 1] } e.id rec 64
  let bs := x.2
  let w (k : Nat) : Nat := numAt bs (4 * k) 4
  let ending (s : State) (st : Nat) (best : Option Candidate') (bad : Option FailedUnit) : State × Option RayEnd :=
    (s, some { status := st, best, bad, pixel := w 11, order := w 12 % 2 ^ 12, payload := numAt bs 56 8 })
  match x.1.stop with
  | some .pending => (x.1.s, none)
  | some (.ends st bad) => ending x.1.s st none bad
  | none =>
    if w 9 / 2 ^ 8 != 0 then ending x.1.s 14 none (some (badAddress (rec + 0x20)))
    else if w 13 != 0 then ending x.1.s 14 none (some (badAddress (rec + 0x30)))
    else match readRay bs with
      | none => ending x.1.s 0 none none
      | some ray =>
        let r := traverse e (w 10) ray visitFuel x.1
        match r.stop with
        | some .pending => (r.s, none)
        | some (.ends st bad) => ending r.s st (if st = 0 || (st = 3 && !e.first) then r.best else none) bad
        | none =>
          if e.first then ending r.s (if r.ignored then 10 else 0) none none
          else ending r.s (match r.best with | some c => if c.live then 0 else 10 | none => 0) r.best none

/-- The 32 bytes of a hit record (R233). -/
def hitRecord (st : Nat) (best : Option Candidate') : List Byte :=
  toBytes 4 st ++ match best with
    | some c => toBytes 4 (c.t.toF32 .rn) ++ toBytes 4 (c.b1.toF32 .rn) ++ toBytes 4 (c.b2.toF32 .rn) ++ toBytes 4 c.prim
        ++ toBytes 4 c.index ++ toBytes 8 c.leaf
    | none => toBytes 4 0x7F800000 ++ toBytes 8 0 ++ toBytes 4 0xFFFFFFFF ++ toBytes 12 0

/-! ## Issue (R233) -/

/-- The offset of a trace's list context that lies in the register aperture, if one does (R63). -/
def ListCtx.inAperture (c : ListCtx) : Option Nat := if c.imm then none else [c.head, c.pool].find? isAperture
/-- R233 -/
def execTrace (o : GfxDAS) (s : State) : Outcome :=
  perform s fun h => do
    let a := o.s.toNat
    orIllegal (!h.i.sup && a % 2 == 0 && decide (a ≤ 52) && decide (o.a.toNat ≤ 118) && o.a.toNat % 2 == 0
      && decide (o.d.toNat ≤ 118) && o.d.toNat % 2 == 0)
    notInScout h
    let rec_ ← h.src64 o.a false none
    let hit ← h.src64 o.d false none
    let ctl := (h.sreg (a + 5)).toNat
    orTrap (decide (ctl < 8)) 4 0
    let append := bitOf ctl 1
    let ctx := (List.range 5).map fun k => h.sreg (a + 6 + k)
    let c := listCtx ctx
    orTrap (!append || c.isSome) 4 0
    aligned ((lanesIn h.i.lanes).flatMap fun i => [⟨i, 0, (rec_.val i).toNat⟩, ⟨i, 1, (hit.val i).toNat⟩]) 16
    let lists := if append then c.toList else []
    aligned (lists.map fun c => ⟨0, 0, c.head⟩) 4
    aligned (lists.map fun c => ⟨0, 0, c.pool⟩) 16
    let bar ← barrierOperand (h.sreg (a + 11)).toNat
    let rays := (lanesIn h.i.lanes).map fun i => (i, rec_.val i, hit.val i)
    startOp h s (.trace rays (h.spair a) (h.spair (a + 2)) (h.sreg (a + 4)) (bitOf ctl 0) append (bitOf ctl 2) ctx) 2 bar
      (if lists.any fun c => c.inAperture.isSome then 14 else 0)

/-! ## Completion (R234, R235, R266) -/

/-- The rays of a trace run in lane order; `none` for one while an answer is missing. -/
def runRays (s : State) (e : TraceEnv) (root : Nat) (rays : List (Nat × Quad × Quad)) : State × List (Option RayEnd) :=
  rays.foldl (fun r x => let y := runRay r.1 e root x.2.1.toNat; (y.1, r.2 ++ [y.2])) (s, [])
/-- What the appends of a trace have come to: statuses in lane order, failing units, the first stray offset, and the first offset in the
register aperture that one would reach. -/
structure Appends where
  s       : State
  pending : Bool := false
  aperture : Option Nat := none
  sts     : List Nat := []
  bad     : List (Nat × FailedUnit) := []
  stray   : Option Nat := none
/-- Whom a trace's appends serve. -/
def Op.listEnv (o : Op) (s : State) : ListEnv := { tag := some o.tag, gang := o.gang, hdr := o.header s, who := o.writer, engine := true }
/-- The A block of the `flins` that an append is. -/
def appendWords (r : RayEnd) (t : Nat) : List Word :=
  [BitVec.ofNat 32 r.pixel, BitVec.ofNat 32 t, BitVec.ofNat 32 r.order, BitVec.ofNat 32 r.payload, BitVec.ofNat 32 (r.payload / 2 ^ 32)]
/-- The key of a ray's append among the answers to an operation, and those of what is read of a peer's list for it. -/
def appendKey (lane : Nat) : Nat := 2 ^ 90 + lane
def appendLook (lane key : Nat) : Nat := 2 ^ 100 * (lane + 1) + key
/-- An append that has failed at an access. -/
def Appends.fail (a : Appends) (lane : Nat) (b : FailedUnit) : Appends := { a with sts := a.sts ++ [b.status], bad := a.bad ++ [(lane, b)] }
/-- The failing unit of a list access. -/
def badEntry (c : ListCtx) (u row level : Nat) (ro : Bool) : FailedUnit :=
  { status := rowStatus row, row5 := row == 5, attr := pattr row level ro true, addr := u + (if c.imm then 0 else 2 ^ 64) }
/-- An append that this device makes; one that does not insert its hit leaves the list as it is. -/
def appendHere (o : Op) (c : ListCtx) (a : Appends) (ws : List Word) (lane : Nat) : Appends :=
  match listPerform (o.listEnv a.s) c 5 a.s ws with
  | .ok (x, y) => { a with s := x.s, sts := a.sts ++ [y.status], stray := if a.stray.isSome then a.stray else x.stray }
  | .error (.fail u row level ro) => a.fail lane (badEntry c u row level ro)
  | .error (.trap u) => { a with aperture := a.aperture.or (some u), sts := a.sts ++ [14] }
  | .error _ => { a with sts := a.sts ++ [14] }
/-- An append on a peer's list: tried first on what the peer answers, which finds the context's missing rights (R255), then made there. -/
def appendFar (id : Nat) (o : Op) (c : ListCtx) (ctx : List Word) (d : Nat) (a : Appends) (ws : List Word) (lane : Nat) : Appends :=
  let asked (key : Nat) (q : Ask) (k : Appends → Answer → Appends) : Appends :=
    let y := askEngine a.s id o d key q
    match y.2 with
    | none => { a with s := y.1, pending := true, sts := a.sts ++ [0] }
    | some x => k { a with s := y.1 } x
  let far (key : Nat) : Option Answer := o.remote.find? fun x => x.key == appendLook lane key
  match listPerform { o.listEnv a.s with far := some far } c 5 a.s ws with
  | .error (.ask u w) =>
    asked (appendLook lane (farKey u w)) (farAsk u w) fun a x => a.fail lane (badEntry c u (statusRow x.status x.attr) (x.attr % 4) false)
  | .error (.fail u row level ro) => a.fail lane (badEntry c u row level ro)
  | _ => asked (appendKey lane) (listAsk c 5 ctx ws) fun a x =>
    if x.status = 0 then { a with sts := a.sts ++ [numAt x.value 0 1] } else a.fail lane (badAnswer (c.entry (ws.getD 0 0).toNat) true x)
/-- The device whose list a trace appends to, when it is a peer. -/
def ListCtx.peer (c : ListCtx) (s : State) : Option Nat :=
  match c.imm, placeOf s c.head with
  | true, .peer d _ => some d
  | _, _ => none
/-- The append of one ray: made here, or by the peer that owns its list; one that comes after it there waits for its answer. -/
def appendOne (id : Nat) (o : Op) (c : ListCtx) (ctx : List Word) (a : Appends) (lane : Nat) (r : RayEnd) : Appends :=
  match r.status, r.best with
  | 0, some b =>
    let ws := appendWords r (b.t.toF32 .rn)
    match c.peer a.s with
    | none => appendHere o c a ws lane
    | some d => if a.pending then { a with sts := a.sts ++ [0] } else appendFar id o c ctx d a ws lane
  | st, _ => { a with sts := a.sts ++ [st] }
/-- The appends of a trace, in lane order; without APPEND the rays keep their statuses. -/
def appendAll (id : Nat) (o : Op) (s : State) (ctx : Option (ListCtx × List Word)) (rs : List (Nat × RayEnd)) : Appends :=
  match ctx with
  | none => { s := s, sts := rs.map fun r => r.2.status }
  | some c => rs.foldl (fun a r => appendOne id o c.1 c.2 a r.1 r.2) { s := s }
/-- The failing units of a trace: rays in lane order, for each the unit at which it ended, its append, then its hit record (R351). -/
def traceBad (rs : List (Nat × RayEnd)) (bad : List (Nat × FailedUnit)) (hits : List (Nat × Nat)) (w : List FailedUnit) : List FailedUnit :=
  rs.flatMap fun r => r.2.bad.toList ++ ((bad.filter fun b => b.1 == r.1).map (·.2))
    ++ w.filter fun b => hits.any fun h => h.1 == r.1 && decide (h.2 ≤ b.addr ∧ b.addr < h.2 + 32)

/-- The units of a trace's hit records. -/
def hitUnits (rays : List (Nat × Quad × Quad)) (rs : List (Nat × RayEnd)) (sts : List Nat) : List (Nat × UnitBytes) :=
  gatherUnits ((rays.zip (rs.zip sts)).flatMap fun x =>
    (hitRecord x.2.2 x.2.1.2.best).zipIdx.map fun b => ((x.1.2.2.toNat + b.2) % 2 ^ 64, b.1))
/-- The peers at which a trace appends or writes hit records. -/
def tracePeers (s : State) (ctx : Option (ListCtx × List Word)) (us : List (Nat × UnitBytes)) : List Nat :=
  (((ctx.bind fun c => c.1.peer s).toList) ++ us.filterMap fun u => match placeOf s u.1 with | .peer d _ => some d | _ => none).eraseDups
/-- The statuses that a trace's hit records at peers hold: when an append here has come to another one since they were written, they are
written again, once the earlier ones have been answered; none while one is still out. -/
def restate (s : State) (id : Nat) (o : Op) (sts : List Word) : Option (State × Op) :=
  if o.captured = some sts then some (s, o)
  else if s.requests.any fun r => match r.2.who with | .engineWrite op key => op == id && decide (key < 2 ^ 90) | _ => false then none
  else
    let f (o : Op) : Op := { o with captured := some sts, remote := o.remote.filter fun x => decide (2 ^ 90 ≤ x.key) }
    some (modOp s id f, f o)
/-- The rays of a trace have ended: its appends and its hit records join the order as one step (R102, R235, R266). Those at peers are
made while it has the way there to itself; then those here, its posts and its event follow in this step. An append that fails without a
failing unit, at a broken list, posts nothing (R235). -/
def endTrace (s : State) (id : Nat) (o : Op) (rays : List (Nat × Quad × Quad)) (rs : List (Nat × RayEnd))
    (ctx : Option (ListCtx × List Word)) : State :=
  match (appendAll id o s ctx rs).aperture with
  -- an append that would reach the aperture keeps the command from every access (R63)
  | some u => finishOp s id o 14 [apertureBad u] fun st => .engine st
  | none =>
    let way := takeWay s id (tracePeers s ctx (hitUnits rays rs (rs.map fun r => r.2.status)))
    if !way.2 then way.1
    else
      let a := appendAll id o way.1 ctx rs
      if a.pending then a.s
      else match restate way.1 id o (a.sts.map (BitVec.ofNat 32)) with
        | none => way.1
        | some x =>
          let w := stageWrites x.1 id x.2 (hitUnits rays rs a.sts)
          if w.pending then w.state
          else
            let b := appendAll id x.2 w.state ctx rs
            let units := traceBad rs b.bad (rays.map fun r => (r.1, r.2.2.toNat)) w.bad
            finishOp (commitWrites o { w with state := noteOpStray b.s o b.stray }) id o (max (greatest b.sts) (greatest (w.bad.map (·.status))))
              units (fun st => .engine st) (!units.isEmpty)

/-- A trace completes: its rays are run, its appends made, its hit records written (R235). -/
def completeTrace (s : State) (id : Nat) : State :=
  match get? s.ops id with
  | none => s
  | some o =>
    match o.kind with
    | .trace rays root table count first append cull ctx =>
      if !(oldestOfClass s id o) then s
      else if o.status != 0 then
        finishOp s id o o.status (((listCtx ctx).bind ListCtx.inAperture).toList.map apertureBad) fun st => .engine st
      else
        let e : TraceEnv := { id, table := table.toNat, count := count.toNat, first, cull }
        let x := runRays s e root.toNat rays
        let rs := (rays.zip x.2).filterMap fun r => r.2.map fun y => (r.1.1, y)
        if rs.length < rays.length then x.1
        else
          endTrace x.1 id ((get? x.1.ops id).getD o) rays rs (if append then (listCtx ctx).map fun c => (c, ctx) else none)
    | _ => s
/-- R235 -/
def execTraceCompletion (op : Nat) (s : State) : Outcome := event (completeTrace s op)

end Sys2Proof.Machine
end

