-- ==== Sys2Proof/Machine/Coll.lean ====
section
/-! DEFINITION. Collectives (R202 to R204, R374 to R376): their issue, the messages between members and rank 0, the decision, the
writes at the completion point; and the reading of one unit for an operation (R102). -/

namespace Sys2Proof.Machine

/-! ## Groups (R374, R375) -/

/-- A collective group as this device's table holds it. -/
structure Group where
  count : Nat
  rank  : Nat
  epoch : Nat
  devs  : List Nat
  deriving DecidableEq, Repr
/-- A table entry; none when it is not valid for this device (R374). -/
def groupOf (s : State) (bs : List Byte) : Option Group :=
  let g : Group := { count := numAt bs 0 2, rank := numAt bs 2 2, epoch := numAt bs 4 4
                     devs := (List.range (numAt bs 0 2)).map fun r => numAt bs (16 + r) 1 }
  if decide (g.rank < g.count) && decide (g.count ≤ 128) && numAt bs 8 8 == 0 && numAt bs 144 48 == 0
      && g.devs[g.rank]? == some s.devId.toNat then some g else none
/-- Whether a range lies in this device's own space. -/
def ownRange (s : State) (a n : Nat) : Bool :=
  match placeOf s a, placeOf s ((a + n - 1) % 2 ^ 64) with
  | .own _, .own _ => true
  | _, _ => false
/-- The entry of a handle read; the table lies in this device's memory (R374). -/
def readGroup (s : State) (handle : Nat) : State × Option Group :=
  let a := s.colBase.toNat + 192 * handle
  if s.colCount ≤ handle || !(ownRange s a 192) then (s, none)
  else
    let r := readRange s none a 192 0
    match r.2 with
    | .ok bs => (r.1, groupOf s bs)
    | _ => (r.1, none)

/-- What identifies a member's issue: handle, EPOCH, count, operation kind, FMT, c, ROOT. -/
structure CollKey where
  handle : Nat
  epoch  : Nat
  count  : Nat
  op     : Nat
  fmt    : Nat
  c      : Nat
  root   : Nat
  deriving DecidableEq, Repr
/-- A collective as one member carries it out. -/
structure Member where
  key      : CollKey
  src      : Quad
  dst      : Quad
  rank     : Nat
  devs     : List Nat
  deadline : Deadline
  deriving DecidableEq, Repr
/-- The collective that an operation is. -/
def OpKind.member : OpKind → Option Member
  | .coll op src dst c fmt root handle epoch count rank devs deadline =>
    some { key := { handle, epoch, count, op, fmt, c, root }, src, dst, rank, devs, deadline }
  | _ => none
/-- Bytes of an element (R202). -/
def CollKey.size (k : CollKey) : Nat := if k.op = 8 then [4, 2, 2, 4, 8].getD k.fmt 4 else 2 ^ k.fmt
def CollKey.bytes (k : CollKey) : Nat := k.c * k.size
/-- Whether a rank's data take part (R203). -/
def CollKey.gives (k : CollKey) (rank : Nat) : Bool := k.op != 9 || rank == k.root
/-- The units that a member reads. -/
def Member.units (m : Member) : List Nat := if m.key.gives m.rank then (unitsOfRange m.src.toNat m.key.bytes).map (· % 2 ^ 64) else []
/-- The bytes of a member's source. -/
def Member.data (m : Member) (o : Op) : List Byte :=
  if m.key.gives m.rank then (List.range m.key.bytes).map fun i => (o.globalByte ((m.src.toNat + i) % 2 ^ 64)).getD 0 else []

/-- The undecided collectives of a handle on this device, oldest first. -/
def openColls (s : State) (handle : Nat) : List (Nat × Op × Member) :=
  s.ops.filterMap fun p => p.2.kind.member.bind fun m =>
    if m.key.handle = handle && p.2.decided.isNone then some (p.1, p.2, m) else none
/-- A handle's record (R375). -/
def collGroup (s : State) (handle : Nat) : CollGroup := (get? s.collGroups handle).getD {}

/-! ## Messages (R370) -/

/-- The body of a collective message; a cancel carries its status in the unit index (log 19). -/
def collBody (kind : Nat) (k : CollKey) (rank unit : Nat) : List Byte :=
  toBytes 1 kind ++ toBytes 1 k.fmt ++ toBytes 2 k.handle ++ toBytes 4 k.epoch ++ toBytes 4 k.count ++ toBytes 1 rank ++ toBytes 1 k.root
    ++ toBytes 2 unit ++ toBytes 4 k.c ++ toBytes 4 k.op
/-- The issue that a message names. -/
def collKeyOf (f : Flit) : CollKey :=
  let b := flitBody f
  { handle := numAt b 2 2, epoch := numAt b 4 4, count := numAt b 8 4, op := numAt b 20 4, fmt := numAt b 1 1, c := numAt b 16 4
    root := numAt b 13 1 }
def collRank (f : Flit) : Nat := numAt (flitBody f) 12 1
def collUnit (f : Flit) : Nat := numAt (flitBody f) 14 2
/-- A collective message leaves, its bytes after it in DATA flits whose TAG is the handle. -/
def sendColl (s : State) (d kind : Nat) (k : CollKey) (rank unit : Nat) (data : List Byte) : State :=
  sendRouted s d 0 (ownFlit s 9 d (collBody kind k rank unit)
    :: (unitsOf data).zipIdx.map fun u => ownFlit s 3 d (dataBody k.handle u.2 u.1))

/-! ## Completion on a member (R203, R204) -/

/-- What a committed collective writes on a member: contributions to cells, or bytes. -/
def Member.contributions (m : Member) (parts : List (Nat × List Byte)) : List (Nat × Nat) :=
  (List.range m.devs.length).flatMap fun r =>
    (List.range m.key.c).map fun i =>
      ((m.dst.toNat + 48 * i) % 2 ^ 64, numAt ((get? parts r).getD []) (m.key.size * i) m.key.size)
def Member.writes (m : Member) (parts : List (Nat × List Byte)) : List (Nat × Byte) :=
  let place (r : Nat) : Nat := if m.key.op = 9 then 0 else r * m.key.bytes
  (parts.filter fun p => m.key.gives p.1).flatMap fun p =>
    (p.2.take m.key.bytes).zipIdx.map fun b => ((m.dst.toNat + place p.1 + b.2) % 2 ^ 64, b.1)
/-- A decided collective completes, when the older ones of its fibre have (R106). -/
def completeColl (s : State) (id : Nat) : State :=
  match get? s.ops id with
  | none => s
  | some o =>
    match o.kind.member, o.decided with
    | some m, some st =>
      if !(oldestOfClass s id o) then s
      else
        let done (s : State) (bad : List FailedUnit) : State := finishOp s id o (max st (greatest (bad.map (·.status)))) bad fun st => .engine st
        if st != 0 then done s (o.badReads m.units)
        else if m.key.op = 8 then
          let t := (cellFmtOf m.key.fmt).getD .s32
          let r := stageCells s id o t (bySector (m.contributions o.parts))
          if r.pending then r.state else done (commitCells o t r.state r.here) r.bad
        else
          let w := stageWrites s id o (gatherUnits (m.writes o.parts))
          if w.pending then w.state else done (commitWrites o w) w.bad
    | _, _ => s
/-- Every decided collective that can complete does, the oldest first. -/
def completeColls (s : State) : State := (s.ops.map (·.1)).foldl completeColl s
/-- The decision reaches the oldest undecided collective of a handle here, and the handle's count advances (R375, R376). -/
def decideHere (s : State) (handle st : Nat) (parts : List (Nat × List Byte)) : State :=
  match openColls s handle with
  | [] => s
  | (id, _, _) :: _ =>
    let g := collGroup s handle
    let s1 := modOp s id fun o => { o with decided := some st, parts := if parts.isEmpty then o.parts else parts }
    completeColls { s1 with collGroups := put s1.collGroups handle { g with count := (g.count + 1) % 2 ^ 32 } }

/-! ## Rank 0 (R375, R376) -/

/-- The key of an issue that rank 0 has received. -/
def CollIssue.key (x : CollIssue) : CollKey :=
  { handle := x.handle, epoch := x.epoch, count := x.count, op := x.op, fmt := x.fmt, c := x.c, root := x.root }
/-- An issue of a key. -/
def CollKey.issue (k : CollKey) (rank : Nat) : CollIssue :=
  { handle := k.handle, rank, epoch := k.epoch, count := k.count, op := k.op, fmt := k.fmt, c := k.c, root := k.root }
/-- The devices of a handle's group as rank 0 knows them: from its own issue, or from the table. -/
def rootGroup (s : State) (handle : Nat) : Option (List Nat) :=
  match (openColls s handle).find? fun x => x.2.2.rank = 0 with
  | some x => some x.2.2.devs
  | none =>
    match (readGroup s handle).2 with
    | some g => if g.rank = 0 then some g.devs else none
    | none => none
/-- The oldest undecided issue of a rank. -/
def oldestIssue (s : State) (handle rank : Nat) : Option CollIssue :=
  s.collIssues.find? fun x => x.handle == handle && x.rank == rank && !x.owed
/-- A cancel reaches a member (R204). -/
def tellCancel (s : State) (devs : List Nat) (k : CollKey) (rank st : Nat) : State :=
  if rank = 0 then decideHere s k.handle st [] else sendColl s (devs.getD rank 0) 3 k 0 st []

/-- What rank 0 has decided. -/
inductive Verdict where
  | commit (k : CollKey)
  /-- The status of the rank at which the cause lies, and that of the others. -/
  | cancel (k : CollKey) (rank st other : Nat)
  deriving DecidableEq, Repr
/-- The decision that is due for a handle: the first cancellation, an unreachable member, issues that differ, or, once every
member's reads are done, the commit (R204, R375, R376). -/
def verdict (s : State) (handle : Nat) (devs : List Nat) : Option Verdict :=
  let xs := (List.range devs.length).map (oldestIssue s handle)
  let ys := xs.filterMap id
  match ys.find? fun x => x.cancel.isSome with
  | some x => some (.cancel ((ys.find? fun y => !y.gone).getD x).key x.rank (x.cancel.getD 12) 12)
  | none =>
    match ys with
    | [] => none
    | y :: _ =>
      if devs.any fun d => d != s.devId.toNat && !(reachable s d) then some (.cancel y.key devs.length 12 12)
      else if ys.length < devs.length then none
      else if ys.any fun x => x.key != y.key then some (.cancel y.key devs.length 14 14)
      else if ys.all (·.ready) && !s.haltAll then some (.commit y.key)
      else none
/-- The handles for which a decision is due. -/
def decisionDue (s : State) (handle : Nat) : Bool := ((rootGroup s handle).bind (verdict s handle)).isSome
/-- Rank 0's record of a decision: the issues of this collective go, and its count is known. -/
def closeIssues (s : State) (k : CollKey) (ranks : Nat) : State :=
  let gone := (List.range ranks).filterMap (oldestIssue s k.handle)
  let g := collGroup s k.handle
  { s with
    collIssues := gone.foldl (fun xs x => xs.erase x) s.collIssues
    collGroups := put s.collGroups k.handle { g with made := some (k.epoch, k.count + 1) } }
/-- The decision carried out for every member (R376). -/
def carryOut (s : State) (handle : Nat) (devs : List Nat) (v : Verdict) : State :=
  let xs := (List.range devs.length).map fun r => (r, oldestIssue s handle r)
  match v with
  | .commit k =>
    let parts := xs.filterMap fun x => x.2.bind fun y =>
      if k.gives x.1 then some (x.1, ((List.range (ceilDiv k.bytes 48)).flatMap fun u => padTo 48 ((get? y.units u).getD [])).take k.bytes) else none
    let s1 := closeIssues s k devs.length
    let s2 := (devs.zipIdx.drop 1).foldl (fun s d =>
      sendColl (parts.foldl (fun s p => sendColl s d.1 0 k p.1 0 p.2) s) d.1 2 k 0 0 []) s1
    decideHere s2 handle 0 parts
  | .cancel k rank st other =>
    let s1 := closeIssues s k devs.length
    xs.foldl (fun s x =>
      let t := if x.1 = rank then st else other
      match x.2 with
      | some y => if y.gone then s else tellCancel s devs y.key x.1 t
      | none => { s with collIssues := s.collIssues ++ [{ k.issue x.1 with owed := true, cancel := some t }] }) s1
/-- R376: rank 0 decides once for every member. -/
def execCollectiveDecision (handle : Nat) (s : State) : Outcome :=
  event (match rootGroup s handle with
    | none => s
    | some devs => match verdict s handle devs with
      | some v => carryOut s handle devs v
      | none => s)

/-- A member without a valid group has completed its collective, or this device's own has: as an unreachable member (R374). -/
def goneIn (s : State) (k : CollKey) (rank : Nat) : State :=
  { s with collIssues := s.collIssues ++ [{ k.issue rank with cancel := some 12, gone := true }] }
/-- A member's message as rank 0 takes it: contribution data, reads done, or a cancellation (R375, R376). -/
def rootIn (s : State) (kind : Nat) (k : CollKey) (rank st : Nat) (units : List (Nat × List Byte)) : State :=
  let owed := s.collIssues.find? fun x => x.handle == k.handle && x.rank == rank && x.owed
  let mine := s.collIssues.find? fun x => x.key == k && x.rank == rank && !x.owed
  let change (f : CollIssue → CollIssue) : State :=
    match mine with
    | some x => { s with collIssues := s.collIssues.map fun y => if y = x then f y else y }
    | none => { s with collIssues := s.collIssues ++ [f (k.issue rank)] }
  let stale := (collGroup s k.handle).made.any fun m => m.1 == k.epoch && decide (k.count < m.2)
  match owed with
  | some x =>
    if kind = 0 then s
    else tellCancel { s with collIssues := s.collIssues.erase x } ((rootGroup s k.handle).getD []) k rank (x.cancel.getD 12)
  | none =>
    match kind with
    | 0 => change fun y => { y with units := units.foldl (fun t u => put t u.1 u.2) y.units }
    | 1 => change fun y => { y with ready := true }
    | _ => if stale && mine.isNone then s else change fun y => { y with cancel := some (y.cancel.getD st) }

/-! ## Members (R202 to R204) -/

/-- A member's message goes to rank 0. -/
def toRoot (s : State) (m : Member) (kind st : Nat) (data : List Byte) : State :=
  if m.rank = 0 then rootIn s kind m.key 0 st ((unitsOf data).zipIdx.map fun u => (u.2, u.1))
  else sendColl s (m.devs.getD 0 0) kind m.key m.rank st data
/-- A member whose units have all been read reports: its data and that its reads are done, or a cancellation (R203, R204);
nothing while the device is halted (R308). -/
def reportColl (s : State) (id : Nat) : State :=
  match get? s.ops id with
  | none => s
  | some o =>
    match o.kind.member with
    | none => s
    | some m =>
      if s.haltAll || o.sent || o.decided.isSome || m.units.any fun u => (o.read? u).isNone then s
      else
        let s1 := modOp s id fun o => { o with sent := true }
        match o.badReads m.units with
        | [] => toRoot (if m.key.gives m.rank then toRoot s1 m 0 0 (m.data o) else s1) m 1 0 []
        | bad => toRoot s1 m 3 (greatest (bad.map (·.status))) []
/-- What members have not reported while the device was halted (R308). -/
def reportAll (s : State) : State := (keysWhere s.ops fun o => o.cls == 3).foldl reportColl s

/-- Whether a collective's operands are valid (R202, R203). -/
def collOk (k : CollKey) (ctl hw : Nat) (src dst : Quad) : Bool :=
  ctl / 2 ^ 16 == 0 && hw / 2 ^ 16 == 0 && (k.op == 9 || k.root == 0) && decide (k.fmt ≤ 4) && k.c != 0 && decide (k.bytes ≤ 2097152)
    && src.toNat % k.size == 0 && dst.toNat % (if k.op = 8 then 48 else 16) == 0
/-- The sender's rank in a message that says that a device has no valid group (log 19). -/
def noRank : Nat := 0xFF
/-- A device without a valid group for a handle tells every device that it reaches (R374): it knows no members. -/
def tellGone (s : State) (k : CollKey) : State := s.reach.foldl (fun s d => sendColl s d 3 k noRank 12 []) s
/-- A collective whose group is valid (R202, R203, R375). -/
def startColl (h : Here) (s : State) (x : Group) (k : CollKey) (src dst : Quad) (deadline : Deadline) (bar : Option Word) : Except Stop State := do
  let rec_ := collGroup s k.handle
  let base := if rec_.epoch = x.epoch then rec_.count else 0
  let ahead := (openColls s k.handle).filter fun y => y.2.2.key.epoch = x.epoch
  let count := (base + ahead.length) % 2 ^ 32
  let valid := decide (k.root < x.count) && ownRange s src.toNat k.bytes
    && ownRange s dst.toNat (if k.op = 8 then 48 * k.c else if k.op = 9 then k.bytes else x.count * k.bytes)
  let s1 := { s with collGroups := put s.collGroups k.handle { rec_ with epoch := x.epoch, count := base } }
  let kind : OpKind := .coll k.op src dst k.c k.fmt k.root k.handle x.epoch count x.rank x.devs deadline
  let s2 ← startOp h s1 kind 3 bar
  let root := x.devs.headD 0
  let s3 := if root = s.devId.toNat || reachable s root then s2 else orphanCollectives s2 root
  -- a source or a destination outside this device's space is a failed source unit (log 19)
  .ok (if valid then reportColl s3 s1.nextUid
    else
      let m : Member := { key := { k with epoch := x.epoch, count }, src, dst, rank := x.rank, devs := x.devs, deadline }
      toRoot (modOp s3 s1.nextUid fun o => { o with sent := true }) m 3 14 [])
/-- A collective (R202, R374). Bits 7:3 of CTL, of which R202 says nothing, are not looked at (DESIGN CHOICE, log 67); an invalid operand
traps before a misaligned barrier offset does (DESIGN CHOICE, log 66). -/
def collForm (op : Nat) (o : Asy) (s : State) : Outcome :=
  performLate s fun h => do
    let a := o.sa.toNat
    let b := o.sc.toNat
    orIllegal (!h.i.sup && a % 2 == 0 && decide (a ≤ 58) && b % 2 == 0 && decide (b ≤ 60))
    notInScout h
    let ctl := (h.sreg (a + 3)).toNat
    let hw := (h.sreg (b + 2)).toNat
    let k : CollKey := { handle := hw % 2 ^ 16, epoch := 0, count := 0, op, fmt := ctl % 8, c := (h.sreg (a + 2)).toNat, root := bitsOf ctl 15 8 }
    let src := h.spair a
    let dst := h.spair b
    orTrap (collOk k ctl hw src dst) 4 0
    let bar ← barrierOperand (h.sreg o.sb.toNat).toNat
    let g := readGroup s k.handle
    let deadline := readDeadline (h.spair (a + 4))
    match g.2 with
    | some x => startColl h g.1 x k src dst deadline bar
    | none =>
      -- no valid group: the collective completes at once with FAULT (R374)
      let s1 ← startOp h g.1 (.coll op src dst k.c k.fmt k.root k.handle 0 0 0 [] deadline) 3 bar
      .ok (completeColls (tellGone (modOp s1 g.1.nextUid fun o => { o with sent := true, decided := some 14 }) k))
/-- R203 -/
def execCollRed (o : Asy) (s : State) : Outcome := collForm 8 o s
/-- R203 -/
def execCollBcast (o : Asy) (s : State) : Outcome := collForm 9 o s
/-- R203 -/
def execCollAgat (o : Asy) (s : State) : Outcome := collForm 10 o s

/-- Whether an undecided collective's own deadline has passed, and has not been reported. -/
def collDeadlineDue (s : State) (id : Nat) : Bool :=
  (get? s.ops id).any fun o => o.decided.isNone && o.expired.isNone && o.kind.member.any fun m => reached s o.tag m.deadline
/-- R204: the deadline passes before the commit, and a cancellation is sent. -/
def execCollectiveDeadline (op : Nat) (s : State) : Outcome :=
  match (get? s.ops op).bind fun o => o.kind.member with
  | some m =>
    event (if collDeadlineDue s op then toRoot (modOp s op fun o => { o with expired := some s.clk, sent := true }) m 3 1 [] else s)
  | none => event s
/-- Whether 2 ^ 21 clk have passed since a collective's deadline without a decision (R376). -/
def decisionLate (s : State) (id : Nat) : Bool :=
  (get? s.ops id).any fun o => o.decided.isNone && o.kind.member.isSome && o.expired.any fun t => decide (t + 2 ^ 21 ≤ s.clk)
/-- R376: the collective ends with ABSENT, its destinations unchanged. -/
def execCollectiveDecisionTimeout (op : Nat) (s : State) : Outcome :=
  event (if decisionLate s op then completeColls (modOp s op fun o => { o with decided := some 12 }) else s)

/-! ## Messages that arrive (R370) -/

/-- Whether a flit is a collective message of a kind. -/
def isColl (kind : Nat) (f : Flit) : Bool := flitType f == 9 && numAt (flitBody f) 0 1 == kind
/-- The undecided collective here, under another device's rank 0, that a message of that device is about. -/
def memberFor (s : State) (f : Flit) : Option (Nat × Op × Member) :=
  match openColls s (collKeyOf f).handle with
  | x :: _ => if x.2.2.rank != 0 && x.2.2.devs.head? == some (flitSrc f) then some x else none
  | [] => none
/-- Data units with their indices from a first one on. -/
def indexed (us : List (Nat × List Byte)) (first : Nat) : List (Nat × List Byte) := us.map fun u => (first + u.1, u.2)
/-- Units of data that a contribution message brings, from the unit index that it names on. -/
def collUnits (f : Flit) : Nat := ceilDiv (collKeyOf f).bytes 48 - collUnit f
/-- A rank's data have come whole, on their way to rank 0 or from it. -/
def collDataNow (s : State) (f : Flit) (us : List (Nat × List Byte)) : State :=
  match memberFor s f with
  | some (id, _, m) => modOp s id fun o => { o with parts := put o.parts (collRank f) ((dataOf us).take m.key.bytes) }
  | none => if (rootGroup s (collKeyOf f).handle).isSome then rootIn s 0 (collKeyOf f) (collRank f) 0 (indexed us (collUnit f)) else s
/-- A rank's data, entered once they are all there. -/
def takeCollData (s : State) (p : Nat) (f : Flit) (us : List (Nat × List Byte)) : State :=
  if us.length < collUnits f then keepInbound s p f us else collDataNow s f us
/-- A unit of data for a peer's request, for a collective, or for a request of this device (R369). -/
def dataFor (p : Nat) (s : State) (f : Flit) : State :=
  match inboundFor s p f with
  | some x =>
    if flitType x.flit != 9 then dataIn p s f
    else takeCollData { s with inbound := s.inbound.erase x } x.port x.flit (put x.units (unitOf f).1 (unitOf f).2)
  | none => dataIn p s f
/-- R369 -/
def execData (port : Nat) (flit : Flit) (s : State) : Outcome :=
  event (arrive s port [flit] (ofType 3) (fun s _ => dataFor port s flit) fun s _ => s)
/-- R370: a rank's data, on their way to rank 0 or from it. -/
def execCollContributionData (port : Nat) (flit : Flit) (units : List Flit) (s : State) : Outcome :=
  event (arrive s port (flit :: units) (isColl 0) (fun s us => takeCollData s port flit (unitsFrom us)) (dataFor port))
/-- A member's report to rank 0; a device that is not rank 0 of a valid group answers as an unreachable member (R374). -/
def reportIn (s : State) (f : Flit) (kind st : Nat) : State :=
  if (rootGroup s (collKeyOf f).handle).isSome then rootIn s kind (collKeyOf f) (collRank f) st []
  else sendColl s (flitSrc f) 3 (collKeyOf f) 0 12 []
/-- R370: a member's reads are done. -/
def execCollReadsDone (port : Nat) (flit : Flit) (s : State) : Outcome :=
  event (arriveOne s port flit (isColl 1) fun s => reportIn s flit 1 0)
/-- R203: rank 0 has committed; data that come with the message belong to the rank it names. -/
def execCollCommit (port : Nat) (flit : Flit) (units : List Flit) (s : State) : Outcome :=
  event (arrive s port (flit :: units) (isColl 2) (fun s us =>
    match memberFor s flit with
    | some (id, _, m) =>
      let s1 := if us.isEmpty then s
        else modOp s id fun o => { o with parts := put o.parts (collRank flit) ((dataOf (unitsFrom us)).take m.key.bytes) }
      decideHere s1 m.key.handle 0 []
    | none => s) (dataFor port))
/-- A cancellation: rank 0's decision, a member's report, or a device's that has no valid group (R204, R374). -/
def cancelIn (s : State) (f : Flit) : State :=
  match memberFor s f with
  | some (_, _, m) => decideHere s m.key.handle (collUnit f) []
  | none =>
    if collRank f = 0 then s
    else if collRank f = noRank then
      match (rootGroup s (collKeyOf f).handle).bind fun devs => devs.findIdx? (· == flitSrc f) with
      | some r => goneIn s (collKeyOf f) r
      | none => s
    else reportIn s f 3 (collUnit f)
/-- R204: rank 0 has cancelled, or a member asks it to. -/
def execCollCancel (port : Nat) (flit : Flit) (s : State) : Outcome := event (arriveOne s port flit (isColl 3) fun s => cancelIn s flit)

/-! ## One unit read for an operation (R102) -/

/-- The units that an operation is known to read before it completes: sources of a copy, operands of a matrix operation, the
ray records of a trace, the source of a collective. -/
def OpKind.units (k : OpKind) : List Nat :=
  match k with
  | .copy .. => (k.copyDesc.map (·.sourceUnits)).getD []
  | .trace rays .. => rays.flatMap fun x => (unitsOfRange x.2.1.toNat 64).map (· % 2 ^ 64)
  | .coll .. => (k.member.map (·.units)).getD []
  | .drain .. => []
  | _ => k.operandUnits
/-- R102: an operation reads one of its units, at a place of its own in the order. -/
def execEngineUnitRead (op k : Nat) (s : State) : Outcome :=
  event (match get? s.ops op with
    | none => s
    | some o =>
      if o.status != 0 || o.decided.isSome then s
      else match o.kind.units[k]? with
        | some u => reportColl (engineRead s op u).1 op
        | none => s)

end Sys2Proof.Machine
end

