-- ==== Sys2Proof/Machine/Control.lean ====
section
/-! DEFINITION. Branches, calls, exit, yield, window moves and nop (R160 to R165, R168): opcodes 0x1C and 0x1D. -/

namespace Sys2Proof.Machine

/-! ## Transfers of control -/

/-- The last control transfer of the lanes that made one: kind and address (R306). -/
def setLast (last : List (Nat × Nat × Quad)) (lanes : Lanes) (kind : Nat) (src : Quad) : List (Nat × Nat × Quad) :=
  (lanesIn lanes).foldl (fun t i => put t i (kind, src)) last
/-- The performing strands go to their targets, the others of the group to the next address (R160, R161); a transfer of a
scout run, which is undone, is not kept as the last (R38, R306). -/
def transfer (h : Here) (s : State) (lanes : Lanes) (kind : Nat) (target : Nat → Quad) : State :=
  modFibre (advance h s) h.i.wave h.i.fibre fun f =>
    { f.setPcs lanes target with last := if h.scouting then f.last else setLast f.last lanes kind h.i.pc }
/-- An odd target of a performing strand traps with cause misaligned (R128, R160); the lowest such lane gives the address. -/
def oddTarget (lanes : Lanes) (target : Nat → Quad) : Except Stop Unit :=
  match (lanesIn lanes).find? fun i => (target i).getLsbD 0 with
  | some i => .error (.trap 3 (target i))
  | none => .ok ()
/-- A transfer on an invalid target ends scout mode (R168). -/
def validTarget (h : Here) (lanes : Lanes) (x : Src Quad) : Except Stop Unit :=
  if h.scouting && (lanesIn lanes).any x.bad then .error .scout else .ok ()
/-- The target of a relative branch (R130). -/
def branchTarget (h : Here) (off : BitVec 16) : Quad := h.i.opc + (off.signExtend 64 <<< 1)

/-- R160 -/
def execBr (o : Br) (s : State) : Outcome :=
  perform s fun h => do
    let lanes ← h.performing o.p
    let t := branchTarget h o.off
    oddTarget lanes fun _ => t
    .ok (transfer h s lanes 1 fun _ => t)
/-- R160: the link pair takes the next address. -/
def execCall (o : Call) (s : State) : Outcome :=
  perform s fun h => do
    orIllegal (decide (o.l.toNat ≤ 118) && evenOk o.l)
    let lanes ← h.performing o.p
    let t := branchTarget h o.off
    let d ← h.dstN o.l 2
    oddTarget lanes fun _ => t
    .ok (transfer h (put64 h s d lanes { val := fun _ => h.i.next }) lanes 2 fun _ => t)
/-- A jump to per-strand addresses (R161). A register at or beyond `win.hi` traps whether or not a strand performs, as for every
operand; the spec does not say so of an odd target, which counts for the performing strands alone (R128, DESIGN CHOICE, log 35). -/
def jumpForm (kind : Nat) (o : Jump) (s : State) : Outcome :=
  perform s fun h => do
    orIllegal (h.pairUOk o.a o.u o.lit)
    let lanes ← h.performing o.p
    let a ← h.src64 o.a o.u o.lit
    validTarget h lanes a
    oddTarget lanes a.val
    .ok (transfer h s lanes kind a.val)
/-- R161 -/
def execJmp (o : Jump) (s : State) : Outcome := jumpForm 3 o s
/-- R161 -/
def execRet (o : Jump) (s : State) : Outcome := jumpForm 4 o s
/-- R161: the target is read before the link is written. The spec gives no order between a register at or beyond `win.hi` and
an odd target: the window trap comes first (DESIGN CHOICE, log 35). -/
def execCalli (o : Duo) (s : State) : Outcome :=
  perform s fun h => do
    orIllegal (h.pairUOk o.a o.u o.lit && dst64Ok o.dst)
    let lanes ← h.performing o.p
    let d ← h.dstN o.dst 2
    let a ← h.src64 o.a o.u o.lit
    validTarget h lanes a
    oddTarget lanes a.val
    .ok (transfer h (put64 h s d lanes { val := fun _ => h.i.next }) lanes 5 a.val)

/-! ## Exit -/

/-- Strands that exit leave their sections, and their floors become unbounded (R225, R227). -/
def leaveProcession (proc : List (Nat × ProcEntry)) (lanes : Lanes) : List (Nat × ProcEntry) :=
  (lanesIn lanes).foldl (fun t i => put t i { (get? t i).getD {} with floor := none, registered := false, inside := false }) proc
/-- The performing strands of a fibre become EXITED (R162, R44). -/
def Fibre.exitLanes (f : Fibre) (lanes : Lanes) : Fibre :=
  let f1 := { f with exited := f.exited ||| lanes, proc := leaveProcession f.proc lanes }
  if f1.state = .trap && !f1.inTrap then { f1 with state := .holding } else f1

/-- R162; in scout mode strands are marked exited for the run only, which ends with the last (R38, R168). -/
def execExit (p : BitVec 3) (s : State) : Outcome :=
  perform s fun h => do
    let lanes ← h.performing p
    let s1 := advance h s
    if h.scouting then
      .ok (modFibre s1 h.i.wave h.i.fibre fun f =>
        let e := f.exited ||| lanes
        { f with exited := e, scout := f.scout.map fun c => { c with ended := c.ended || e == BitVec.allOnes 32 } })
    else
      let s2 := modFibre s1 h.i.wave h.i.fibre fun f => f.exitLanes lanes
      if (h.f.exited ||| lanes) = BitVec.allOnes 32 then .ok (fibreDone s2 h.i.wave h.i.fibre h.i.hint) else .ok s2

/-! ## Yield, windows, nop -/

/-- R163 -/
def execYield (p : BitVec 3) (s : State) : Outcome :=
  perform s fun h => do
    orIllegal (!h.i.sup)
    notInScout h
    let s1 := advance h s
    if h.perf p = 0 then .ok s1
    else .ok (passSlot (modFibre s1 h.i.wave h.i.fibre fun f => { f with state := .ready }) h.i.wave h.i.hint)

/-- The operand of a window move: an `s` register, a literal or zero (R165). -/
def windowOk (h : Here) (o : WindowMove) : Bool :=
  !h.i.sup && (if o.u then h.sregOk o.a.toNat else o.a == 120#7 || (o.a == 126#7 && o.lit.isSome))
/-- The operand's value. -/
def windowOperand (h : Here) (o : WindowMove) : Word := if o.u then h.sreg o.a.toNat else o.lit.getD 0
/-- `wbase` takes a value of the declared range; any other traps with cause window (R54, R165). A new value below zero or from
2 ^ 32 on is reported exactly, in two's complement of 64 bits; the spec says no more than "the rejected wbase" (R249, DESIGN
CHOICE, log 34). -/
def moveWindow (h : Here) (s : State) (v : Int) : Except Stop State :=
  let win := h.g.hdr.winOf h.i.fibre
  if (win.1 : Int) ≤ v ∧ v < (win.2 : Int) then
    .ok (modFibre (advance h s) h.i.wave h.i.fibre fun f => { f with wbase := v.toNat })
  else .error (.trap 2 (BitVec.ofInt 64 v))
/-- A window move (R165). -/
def windowForm (f : Nat → Word → Int) (o : WindowMove) (s : State) : Outcome :=
  perform s fun h => do
    orIllegal (windowOk h o)
    if h.scouting && o.u && h.sMark o.a.toNat then .error .scout
    else moveWindow h s (f h.f.wbase (windowOperand h o))
/-- R165 -/
def execWbase (o : WindowMove) (s : State) : Outcome := windowForm (fun _ a => (a.toNat : Int)) o s
/-- R165 -/
def execWbadd (o : WindowMove) (s : State) : Outcome := windowForm (fun b a => (b : Int) + a.toInt) o s
/-- R164 -/
def execNop (p : BitVec 3) (s : State) : Outcome :=
  perform s fun h => do
    let _ ← h.performing p
    .ok (advance h s)

end Sys2Proof.Machine
end

