-- ==== Sys2Proof/Machine/System.lean ====
section
/-! DEFINITION. Instructions of opcode 0x3C (R243 to R254), precise stops (R304 to R306), and unassigned encodings (R141). -/

namespace Sys2Proof.Machine

/-- R141: a word that no row assigns traps before any effect. -/
def execIllegalInstruction (_w : Word) (s : State) : Outcome := perform s fun _ => .error illegalInstruction

/-! ## System registers (R142, R247) -/

/-- Numbers that name a register, and those of 64 bits. -/
def sysAssigned (n : Nat) : Bool := decide (n ≤ 0x13) || decide (0x100 ≤ n ∧ n ≤ 0x108) || decide (0x110 ≤ n ∧ n ≤ 0x113)
def sysWide (n : Nat) : Bool := [0x000, 0x001, 0x012, 0x013, 0x101, 0x102, 0x104, 0x107, 0x110, 0x111, 0x112, 0x113].contains n
/-- Numbers that a supervisor write reaches (R245, R247). -/
def sysWritable (n : Nat) : Bool := [0x00D, 0x00E, 0x00F, 0x102, 0x106, 0x110, 0x111, 0x112, 0x113].contains n

/-- `store.split` (R51). -/
def Here.storeSplit (h : Here) (s : State) : Nat :=
  let hdr := h.g.hdr
  regGranules hdr h.w.member + 2 ^ 5 * scratchGranules hdr + 2 ^ 10 * l1Granules s h.g.cluster h.coreOf + 2 ^ 15 * (hdr.regs / 16) + 2 ^ 21 * hdr.members
    + 2 ^ 24 * hdr.acc
/-- `ops.count` (R106). -/
def opsCount (f : Fibre) : Nat :=
  f.count 0 + 2 ^ 8 * f.count 1 + 2 ^ 16 * f.count 2 + 2 ^ 24 * f.count 3 + 2 ^ 32 * f.count 4
/-- A system register as `srd` reads it (R142, R246, R247). -/
def Here.readSys (h : Here) (s : State) (n : Nat) : Nat :=
  match n with
  | 0x000 => s.calends.toNat
  | 0x001 => h.c.time % 2 ^ 63 + 2 ^ 63
  | 0x002 => s.devId.toNat
  | 0x003 => h.g.tag
  | 0x004 => h.w.index
  | 0x005 => h.w.member
  | 0x006 => h.g.index % h.l.gx
  | 0x007 => h.g.index / h.l.gx % h.l.gy
  | 0x008 => h.g.index / (h.l.gx * h.l.gy)
  | 0x009 => h.g.index
  | 0x00A => h.g.cluster
  | 0x00B => h.coreOf
  | 0x00C => h.storeSplit s
  | 0x00D => h.g.stray.toNat
  | 0x00E => h.g.strayLast.toNat
  | 0x00F => h.f.wbase
  | 0x010 => (h.g.hdr.winOf h.i.fibre).1
  | 0x011 => (h.g.hdr.winOf h.i.fibre).2
  | 0x012 => opsCount h.f
  | 0x013 => h.c.ides
  | 0x100 => h.f.trap.cause
  | 0x101 => h.f.trap.pc.toNat
  | 0x102 => h.f.trap.ret.toNat
  | 0x103 => h.f.trap.lanes.toNat
  | 0x104 => h.f.trap.info.toNat
  | 0x105 => h.f.trap.seq.toNat
  | 0x107 => h.c.handlerAddr.toNat
  | 0x108 => bit h.c.dbg
  | 0x110 => (h.c.progs.getD 0 0).toNat
  | 0x111 => (h.c.progs.getD 1 0).toNat
  | 0x112 => (h.c.progs.getD 2 0).toNat
  | 0x113 => (h.c.progs.getD 3 0).toNat
  | _ => 0
/-- Progress counters of a context, four of them. -/
def Context.setProg (c : Context) (n : Nat) (v : Quad) : Context :=
  { c with progs := (List.range 4).map fun k => if k = n then v else c.progs.getD k 0 }

/-- The encoding checks of `srd` and `swr` (R243, R245): an assigned register, a destination code, an even pair. -/
def sysOk (o : SysReg) : Bool :=
  sysAssigned o.r.toNat && dstOk o.d && (!(sysWide o.r.toNat) || evenOk o.d)
/-- R245, R246 -/
def execSrd (o : SysReg) (s : State) : Outcome :=
  perform s fun h => do
    let n := o.r.toNat
    orIllegal (sysOk o)
    if h.scouting && decide (0x100 ≤ n) then .error .scout
    orTrap (h.i.sup || decide (n < 0x100)) 12 (BitVec.ofNat 64 n)
    let v := h.readSys s n
    if sysWide n then
      let d ← h.dstN o.d 2
      .ok (advance h (put64 h s d h.i.lanes { val := fun _ => BitVec.ofNat 64 v }))
    else
      let d ← h.dst o.d
      .ok (advance h (put32 h s d h.i.lanes { val := fun _ => BitVec.ofNat 32 v }))

/-! ## Ends of fibres and contexts -/

/-- `sup.ctl` ENDFIBRE: every strand of the trapped fibre becomes EXITED (R247). -/
def endFibre (h : Here) (s : State) : State :=
  fibreDone (modFibre s h.i.wave h.i.fibre fun f => f.exitLanes (BitVec.allOnes 32)) h.i.wave h.i.fibre h.i.hint
/-- `sup.ctl` ENDCTX: the record carries the cause being handled (R247, R350). -/
def endByHandler (h : Here) (s : State) : State :=
  let t := h.f.trap
  endContextByDevice s h.g.tag h.origin { h.record s t.cause t.info with addr := t.pc, lanes := t.lanes }

/-- The effect of a supervisor write (R245, R247, R310). -/
def Here.writeSys (h : Here) (s : State) (n : Nat) (v : Quad) : Except Stop State :=
  let trapped (f : Fibre → Fibre) : Except Stop State := .ok (modFibre (advance h s) h.i.wave h.i.fibre f)
  match n with
  | 0x00D => .ok (modGang (advance h s) h.w.gang fun g => { g with stray := v.low })
  | 0x00E => .ok (modGang (advance h s) h.w.gang fun g => { g with strayLast := v.low })
  | 0x00F =>
    let win := h.g.hdr.winOf h.i.fibre
    if win.1 ≤ v.toNat ∧ v.toNat < win.2 then trapped fun f => { f with wbase := v.toNat } else .error (.trap 2 v)
  | 0x102 => trapped fun f => { f with trap := { f.trap with ret := v } }
  | 0x106 =>
    if v.getLsbD 1 then .ok (endByHandler h s)
    else if v.getLsbD 0 then .ok (endFibre h s)
    else .ok (advance h s)
  | 0x110 => .ok (modContext (advance h s) h.g.tag fun c => c.setProg 0 v)
  | 0x111 => .ok (modContext (advance h s) h.g.tag fun c => c.setProg 1 v)
  | 0x112 => .ok (modContext (advance h s) h.g.tag fun c => c.setProg 2 v)
  | 0x113 => .ok (modContext (advance h s) h.g.tag fun c => c.setProg 3 v)
  | _ => .ok (advance h s)
/-- R245: the lowest strand of the group supplies the value. -/
def execSwr (o : SysReg) (s : State) : Outcome :=
  perform s fun h => do
    let n := o.r.toNat
    orIllegal (sysOk o)
    notInScout h
    orTrap (h.i.sup && sysWritable n) 12 (BitVec.ofNat 64 n)
    let k := lowest h.i.lanes
    if sysWide n then
      let x ← h.src64 o.d false none
      h.writeSys s n (x.val k)
    else
      let x ← h.src o.d none
      h.writeSys s n ((x.val k).setWidth 64)

/-! ## Traps and returns -/

/-- R249: a software trap returns to the next address. -/
def execTrap (n : BitVec 6) (s : State) : Outcome :=
  perform s fun h => do
    notInScout h
    .ok (takeTrap h s 10 (n.setWidth 64) h.i.next)
/-- R252; a return to an odd address traps with cause misaligned at the instruction that sets it (R128). -/
def execTret (s : State) : Outcome :=
  perform s fun h => do
    notInScout h
    orTrap h.i.sup 12 0
    orTrap (!(h.f.trap.ret.getLsbD 0)) 3 h.f.trap.ret
    .ok (returnFromTrap h (advance h s))

/-! ## Precise stops (R253, R304 to R306) -/

/-- The record of a precise stop of a group (R306, R350). -/
def stopRecord (s : State) (w k : Nat) (f : Fibre) (addr : Quad) (n : Nat) (lanes : Lanes) : Record :=
  let x := (get? f.last (lowest lanes)).getD (0, 0)
  { fibreRecord s w k 15 addr (BitVec.ofNat 64 n) lanes with xkind := x.1, xsrc := x.2 }
/-- A fibre halts: what it was doing is kept for its resumption, and a slot that it holds passes (R28, R45). -/
def haltFibre (s : State) (w k hint : Nat) : State :=
  leaveSlot (modFibre s w k fun f =>
    if f.state = .done ∨ f.state = .halted then f else { f with before := f.state, state := .halted }) w k hint
/-- `halt`, and `brk` for a debugger: a precise stop with the group at the next address. -/
def preciseStop (h : Here) (s : State) (addr : Quad) (n : Nat) : State :=
  let r := stopRecord s h.i.wave h.i.fibre h.f addr n h.i.lanes
  postRecord (haltFibre (advance h s) h.i.wave h.i.fibre h.i.hint) h.origin r
/-- R253: with no debugger the context ends with the same record. -/
def execHalt (s : State) : Outcome :=
  perform s fun h => do
    notInScout h
    if h.c.dbg then .ok (preciseStop h s h.i.next 0)
    else .ok (endContextByDevice s h.g.tag h.origin (stopRecord s h.i.wave h.i.fibre h.f h.i.next 0 h.i.lanes))
/-- R253: with no debugger a trap with cause breakpoint. -/
def execBrk (n : BitVec 6) (s : State) : Outcome :=
  perform s fun h => do
    notInScout h
    if h.c.dbg then .ok (preciseStop h s h.i.pc n.toNat)
    else .ok (takeTrap h s 11 (n.setWidth 64) h.i.next)

/-! ## Marks -/

/-- R253, R310 -/
def execProg (n : BitVec 2) (s : State) : Outcome :=
  perform s fun h => do
    notInScout h
    .ok (modContext (advance h s) h.g.tag fun c => c.setProg n.toNat (c.progs.getD n.toNat 0 + 1))
/-- R253, R299: a Vigil record in a launch in replay mode; none from supervisor mode. -/
def execCkmark (n : BitVec 6) (s : State) : Outcome :=
  perform s fun h => do
    notInScout h
    if h.i.sup then .ok (advance h s)
    else .ok (vigilRecord (advance h s) h.i.wave h.i.fibre 3 n.toNat h.i.pc)

end Sys2Proof.Machine
end

