-- ==== Sys2Proof/Machine/Placement.lean ====
section
/-! DEFINITION. The gang placer: candidates and their order (R334, R335), what fits (R21, R47 to R49), room made for a gang
(R336, R356), a gang placed, stopped, saved, restored and evicted (R20, R35, R41, R46, R50, R67, R356, R357), and halts of whole
gangs (R304 to R308). -/

namespace Sys2Proof.Machine

/-! ## Fits (R15, R21, R47 to R49) -/

/-- Waves of a member in a quarter (R15). -/
def wavesIn (h : Header) (m quarter : Nat) : Nat := (h.waves.getD m 0 + 3 - quarter) / 4
/-- Free slots of a quarter, lowest first. -/
def freeSlots (s : State) (cluster core quarter : Nat) : List Nat :=
  let taken := slotsTaken s cluster core quarter
  (List.range 16).filter fun k => !(taken.contains k)
/-- Whether granules for a member are free on a core; gangs that are saved count where `saved` asks for them. -/
def granulesFree (s : State) (h : Header) (m cluster core : Nat) (saved : Bool) : Bool :=
  let r := regsUsed s cluster core saved + regGranules h m
  let c := scratchUsed s cluster core saved + scratchGranules h
  decide (r ≤ 16) && decide (c ≤ 16) && decide (r + c ≤ 22)
/-- Whether a gang fits with its first member on a core. -/
def fitsAt (s : State) (h : Header) (cluster core : Nat) : Bool :=
  decide (core + h.members ≤ 4) && decide (accUsed s cluster false + h.acc ≤ 16) &&
    (List.range h.members).all fun m =>
      granulesFree s h m cluster (core + m) false &&
        (List.range 4).all fun q => decide (wavesIn h m q ≤ (freeSlots s cluster (core + m) q).length)
/-- The first core of a cluster on which a gang fits. -/
def coreFor (s : State) (h : Header) (cluster : Nat) : Option Nat := (List.range 4).find? fun c => fitsAt s h cluster c
/-- A cluster and core for a gang, searched from a cluster on: their order is not architected (R21). A cluster that is being
cleared for another gang is passed over (R336). -/
def findPlace (s : State) (h : Header) (first : Nat) (barred : Option Nat := none) : Option (Nat × Nat) :=
  ((List.range 64).map fun j => (first + j) % 64).findSome? fun cl =>
    if some cl = barred then none else (coreFor s h cl).map fun c => (cl, c)

/-! ## Candidates (R334, R335) -/

/-- Effective priority of a gang's launch. -/
def gangPriority (s : State) (x : Gang) : Nat := ((get? s.launches x.launch).map Launch.effective).getD 0
/-- Whether a context places gangs: it is not suspended (R341). -/
def placesGangs (s : State) (t : Nat) : Bool := (get? s.contexts t).any fun c => !c.suspended
/-- What the placer needs to know of a candidate. -/
structure Bid where
  cand   : Candidate
  launch : Nat
  hdr    : Header
  prio   : Nat
  since  : Nat
  queue  : Nat
  rsv    : Option Nat
  deriving DecidableEq, Repr

/-- Saved gangs that wait for placement. -/
def savedBids (s : State) : List Bid :=
  s.gangs.filterMap fun p =>
    match p.2.eligible with
    | some t =>
      if p.2.state = .saved && placesGangs s p.2.tag then
        some { cand := .saved p.1, launch := p.2.launch, hdr := p.2.hdr, prio := gangPriority s p.2, since := t, queue := 0, rsv := p.2.reserving }
      else none
    | none => none
/-- The next gangs of ready launches. -/
def nextBids (s : State) : List Bid :=
  s.launches.filterMap fun p =>
    match p.2.candSince with
    | some t =>
      if p.2.ready.isSome && decide (p.2.nextGang < p.2.total) && placesGangs s p.2.tag then
        some { cand := .next p.1, launch := p.1, hdr := p.2.hdr, prio := p.2.effective, since := t, queue := p.2.queue, rsv := p.2.reserving }
      else none
    | none => none
/-- A list in the order of a relation, equal elements as they stood. -/
def insertBy {α : Type} (before : α → α → Bool) (x : α) : List α → List α
  | [] => [x]
  | y :: t => if before x y then x :: y :: t else y :: insertBy before x t
def orderBy {α : Type} (before : α → α → Bool) : List α → List α
  | [] => []
  | x :: t => insertBy (fun a b => before a b || !(before b a)) x (orderBy before t)
/-- How far a queue is from the one whose turn it is. -/
def fromTurn (turn q : Nat) : Nat := (q + 1024 - turn) % 1024
/-- The turn among queues as it stands: it has passed when its queue has placed its WEIGHT or has no candidate (R334). -/
def passTurn (s : State) : State :=
  let qs := (nextBids s).map (·.queue)
  let used := decide ((queueOf s s.turnQueue).weight ≤ s.turnUsed) || !(qs.contains s.turnQueue)
  if used then
    match ((List.range 1024).map fun j => (s.turnQueue + 1 + j) % 1024).find? fun q => qs.contains q with
    | some q => { s with turnQueue := q, turnUsed := 0 }
    | none => s
  else s
/-- Every candidate in the order in which the placer serves them (R334). -/
def bids (s : State) : List Bid :=
  if s.haltAll then []
  else
    let saved := orderBy (fun a b => decide (a.since < b.since)) (savedBids s)
    let next := orderBy (fun a b => decide (fromTurn s.turnQueue a.queue < fromTurn s.turnQueue b.queue)) (nextBids s)
    orderBy (fun a b => decide (b.prio < a.prio)) (saved ++ next)
/-- The gang that has been reserving for longest (R335). -/
def oldestReserving (bs : List Bid) : Option Bid :=
  (orderBy (fun a b => decide (a.rsv.getD 0 < b.rsv.getD 0)) (bs.filter (·.rsv.isSome))).head?
/-- Whether reserving gangs let a candidate be placed: it is the oldest of them, or of a higher priority than every other (R335). -/
def mayPlace (bs : List Bid) (b : Bid) : Bool :=
  (oldestReserving bs).all (·.cand = b.cand) || bs.all fun r => r.cand == b.cand || r.rsv.isNone || decide (r.prio < b.prio)

/-- When a candidate became one, and whether it is reserving. -/
def bidOf (s : State) (c : Candidate) : Option Bid := (bids s).find? fun b => b.cand = c
/-- Whether a candidate has become reserving (R335). -/
def reservingDue (s : State) (c : Candidate) : Bool := (bidOf s c).any fun b => b.rsv.isNone && decide (b.since + 2 ^ 20 ≤ s.clk)
/-- R335 -/
def execReserving (g : Candidate) (s : State) : Outcome :=
  event (if reservingDue s g then
    match g with
    | .saved n => modGang s n fun x => { x with reserving := some s.clk }
    | .next l => modLaunch s l fun x => { x with reserving := some s.clk }
  else s)

/-! ## Swap-eligible gangs (R213, R336) -/

/-- From when a live fibre has waited in `gbar` or `monw`, or has been parked. -/
def Fibre.idleSince (f : Fibre) : Option Nat :=
  match f.state with
  | .parked => some f.parkedAt
  | .waiting | .stalled => f.wait.bind fun x => match x.kind with
    | .monw .. => some x.since
    | .gbar .. => some x.since
    | _ => none
  | _ => none
/-- The clk in which a gang's idleness has lasted long enough (R336). -/
def swapTime (s : State) (g : Nat) : Option Nat :=
  let fs := (s.waves.filter fun p => p.2.gang == g).flatMap fun p => p.2.fibres.filter (·.live)
  if fs.isEmpty || fs.any (fun f => f.idleSince.isNone) then none else some (greatest (fs.filterMap (·.idleSince)) + 4096)
/-- Whether a gang becomes swap-eligible. -/
def swapDue (s : State) (g : Nat) : Bool :=
  match get? s.gangs g, swapTime s g with
  | some x, some t => x.state == .running && !x.byDevice && decide (t ≤ s.clk) && x.swapAt != some t
  | _, _ => false
/-- R336 -/
def execSwapEligible (g : Nat) (s : State) : Outcome :=
  event (if swapDue s g then modGang s g fun x => { x with swapAt := swapTime s g } else s)
/-- Whether a gang is swap-eligible, and since when. -/
def swapEligible (s : State) (g : Nat) (x : Gang) : Option Nat :=
  if x.state = .running && !x.byDevice && x.swapAt.isSome && x.swapAt = swapTime s g then x.swapAt else none

/-! ## Gangs that are to halt (R304, R308) -/

/-- Whether a gang has been asked to halt: one of its fibres has, or the device (R304, R308). -/
def asksHalt (s : State) (g : Nat) (x : Gang) : Bool :=
  x.state == .running && (x.byDevice || s.waves.any fun p => p.2.gang == g && p.2.fibres.any fun f => f.state == .halted || f.stopReq)
/-- Where a fibre that is stopped on request stands: the first instruction it has not issued, with its group (R304). -/
def Fibre.stopPoint (f : Fibre) : Quad × Lanes :=
  match f.wait, f.park, f.scout with
  | some x, _, _ => (x.next, x.lanes)
  | _, some p, _ => (p.2.addr, p.2.lanes)
  | _, _, some c => (c.addr, c.lanes)
  | _, _, _ => match f.choose with
    | some pc => (pc, f.groupAt f.issuing pc)
    | none => (0, 0)
/-- A scout run given up: the fibre stands at its checkpoint, where it issues the faulting instruction again (R41, R304). -/
def dropScout (s : State) (w k : Nat) : State :=
  match (fibreAt s w k).scout with
  | none => s
  | some c =>
    let holds := ((get? s.waves w).bind (·.holder)) = some k
    let at_ : FibreState := if holds then .holding else .ready
    modFibre (restoreCheckpoint s w k c.cp) w k fun f =>
      let g := { f with scout := none, wait := none, trialed := none, answers := c.kept, retry := c.cp.again }
      if f.state = .halted then { g with before := at_ } else { g with state := at_ }
/-- A fibre halts with its gang; one that the driver has named stands at its stop point, and posts its record (R304, R306). -/
def haltOne (s : State) (w k : Nat) : State :=
  if (fibreAt s w k).stopReq then
    let s0 := dropScout s w k
    let f := fibreAt s0 w k
    let p := f.stopPoint
    let s1 := modFibre (haltFibre s0 w k 0) w k fun f => { f with stopReq := false }
    if f.live then postRecord s1 (waveOrigin s w) (stopRecord s w k f p.1 0 p.2) else s1
  else haltFibre s w k 0
/-- The fibres of a wave, its holder last: a slot that passes while its gang halts goes to none. -/
def holderLast (s : State) (w : Nat) : List Nat :=
  match (get? s.waves w).bind (·.holder) with
  | some h => (List.range 4).filter (· != h) ++ [h]
  | none => List.range 4
/-- Every live fibre of a gang halts. -/
def haltFibres (s : State) (g : Nat) : State :=
  (wavesOf s g).foldl (fun s w => (holderLast s w).foldl (fun s k => haltOne s w k) s) s

/-! ## Stopping a gang (R41, R46, R356) -/

/-- The free run of a save pool that takes a slot: the lowest (R356). -/
def slotFor (s : State) (x : Gang) : Option Quad :=
  (get? s.contexts x.tag).bind fun c =>
    let used := s.gangs.filterMap fun p => if p.2.tag = x.tag then p.2.slot.map fun a => ((a.toNat - c.pool.toNat) / 49152, slotPages p.2.hdr) else none
    let n := slotPages x.hdr
    ((List.range (c.poolPages + 1 - n)).find? fun k => used.all fun u => decide (k + n ≤ u.1) || decide (u.1 + u.2 ≤ k)).map fun k =>
      c.pool + BitVec.ofNat 64 (49152 * k)
/-- A gang that has a slot, or for which one is reserved now. -/
def reserveSlot (s : State) (g : Nat) : Option State :=
  match get? s.gangs g with
  | none => none
  | some x =>
    if x.slot.isSome then some s
    else (slotFor s x).map fun a => modGang s g fun y => { y with slot := some a }
/-- Pre-emption begins (R41); a wait's swap-out is marked (R46). -/
def beginStop (s : State) (g : Nat) (waiting : Bool) : State :=
  match reserveSlot s g with
  | none => s
  | some t => modGang t g fun y => { y with
      state := .stopping, wasHalted := !y.byDevice && (y.state == .halted || asksHalt t g y), byDevice := false, waitSwapped := waiting }

/-- Whether a fibre that holds its slot is to issue once more the instruction for which it has been answered. -/
def Fibre.answered (f : Fibre) : Bool :=
  f.retry.isSome && !f.answers.isEmpty && (f.state == .holding || f.state == .trap || f.state == .scout)
/-- Whether a fibre is in the middle of an instruction: it has asked, or has been answered and will issue it again (R41). -/
def Fibre.unfinished (f : Fibre) : Bool := (f.live && f.wait.any fun x => x.kind == .answers) || f.answered
/-- Whether every fibre of a gang stands at a boundary. -/
def atBoundary (s : State) (g : Nat) : Bool := s.waves.all fun p => p.2.gang != g || p.2.fibres.all fun f => !f.unfinished
/-- Whether a stop has ended (R356): boundaries reached, results landed, operations but for collectives complete. -/
def stopDone (s : State) (g : Nat) : Bool :=
  (get? s.gangs g).any (fun x => x.state == .stopping) && atBoundary s g
    && s.waves.all (fun p => p.2.gang != g || p.2.pending.isEmpty) && !(s.ops.any fun p => p.2.gang == g && p.2.cls != 3)
/-- A stop that ends: SAVED, and a candidate at once unless a wait has swapped the gang out (R35, R46); a gang whose context has
ended meanwhile leaves the state. -/
def stopGang (s : State) (g : Nat) : State :=
  match get? s.gangs g with
  | none => s
  | some x =>
    if x.detached then removeGang s g
    else
      let s1 := (wavesOf s g).foldl (fun s w => (List.range 4).foldl (fun s k => dropScout s w k) s) s
      let halts := x.wasHalted || s.waves.any fun p => p.2.gang == g && p.2.fibres.any (·.stopReq)
      let s2 := if halts then haltFibres s1 g else s1
      modGang s2 g fun x => { x with
        state := .saved, savedAt := s.clk, savedTime := s.calends, reserving := none, swapAt := none, wasHalted := halts, written := false
        eligible := if x.waitSwapped then none else some s.clk }
/-- R356 -/
def execStopComplete (g : Nat) (s : State) : Outcome := event (if stopDone s g then stopGang s g else s)

/-! ## Eviction (R356) -/

/-- A context ends because a gang could not be saved (R342, R356). -/
def saveFailed (s : State) (x : Gang) (addr : Nat) : State :=
  let desc := ((get? s.launches x.launch).map (·.desc)).getD 0
  endContextByDevice s x.tag .queueManager
    { code := 6, tag := x.tag, gang := x.index, time := s.calends, info := BitVec.ofNat 64 addr, launch := desc }
/-- Parts of a gang's image written to its slot as they stand now; what holds poison makes its sector there poisoned (R392, R393). -/
def saveParts (s : State) (g : Nat) (x : Gang) (a : Quad) (parts : List (Nat × Nat)) : State × Done Unit :=
  let img := gangImage s g x
  let w := writeAll s (parts.map fun p => (a.toNat + p.1, (img.drop p.1).take p.2))
  match w.2 with
  | .ok _ => (((gangPoison s g x).filter (inParts parts)).foldl (fun s u => poisonSector s (a.toNat + 16 * u)) w.1, w.2)
  | _ => w
/-- One bank of a saved gang written to its slot, with the first of them everything that is in no bank; its granule is free. -/
def evictBank (s : State) (g : Nat) (b : Bank) : State :=
  match get? s.gangs g with
  | none => s
  | some x =>
    match x.slot with
    | none => s
    | some a =>
      if x.state != .saved || x.away.contains b || !((gangBanks x.hdr).contains b) then s
      else
        let w := saveParts s g x a (bankParts x.hdr b ++ if x.written then [] else controlParts x.hdr)
        match w.2 with
        | .ok _ => modGang w.1 g fun y => { y with away := y.away ++ [b], written := true }
        | .fail _ _ _ u => saveFailed w.1 x u
        | .pending => w.1
/-- R356 -/
def execSaveBankWrite (b : GangBank) (s : State) : Outcome := event (evictBank s b.1 b.2)
/-- What stands outside the banks written to the slot again, after a change of it (R353, R356). -/
def rewriteControl (s : State) (g : Nat) : State :=
  match get? s.gangs g, awayAt s g with
  | some x, some a => (saveParts s g x (BitVec.ofNat 64 a) (controlParts x.hdr)).1
  | _, _ => s
/-- Whether a bank of a saved gang keeps a gang from the granules that it claims with its first member on a core (R21, R47, R49). -/
def bankInWay (s : State) (h : Header) (cluster core : Nat) (x : Gang) (b : Bank) : Bool :=
  let r (m : Nat) : Nat := regsUsed s cluster (x.core + m) true + regGranules h (x.core + m - core)
  let c (m : Nat) : Nat := scratchUsed s cluster (x.core + m) true + scratchGranules h
  let claimed (m : Nat) : Bool := decide (core ≤ x.core + m ∧ x.core + m < core + h.members)
  match b with
  | .acc _ => decide (16 < accUsed s cluster true + h.acc)
  | .regs m _ => claimed m && (decide (16 < r m) || decide (22 < r m + c m))
  | .scratch m _ => claimed m && (decide (16 < c m) || decide (22 < r m + c m))
/-- The banks of saved gangs that a placement claims, the gang saved first before the others (R356). -/
def inTheWay (s : State) (h : Header) (cluster core : Nat) (self : Option Nat) : List (Nat × Bank) :=
  let here := orderBy (fun a b => decide (a.2.savedAt < b.2.savedAt)) (s.gangs.filter fun p =>
    p.2.cluster == cluster && p.2.state == .saved && some p.1 != self)
  let gone (s : State) (g : Nat) (bs : List Bank) : State := modGang s g fun x => { x with away := x.away ++ bs }
  let start := match self with | some g => gone s g (gangBanks h) | none => s
  let all := here.flatMap fun p => (gangBanks p.2.hdr).filterMap fun b => if p.2.away.contains b then none else some (p.1, p.2, b)
  (all.foldl (fun (r : State × List (Nat × Bank)) y =>
    if bankInWay r.1 h cluster core y.2.1 y.2.2 then (gone r.1 y.1 [y.2.2], r.2 ++ [(y.1, y.2.2)]) else r) (start, [])).2

/-! ## A gang placed (R20, R50) -/

/-- A fibre at its wave's creation (R20). -/
def newFibre (h : Header) (args : List Word) (time stage f : Nat) : Fibre :=
  let entry := h.addr + BitVec.ofNat 64 (h.coff + 2 * h.entry.getD (4 * stage + f) 0)
  { pcs := rowOf fun _ => entry, s := (List.range 64).map fun k => if k < 8 then args.getD k 0 else 0
    m := BitVec.allOnes 32 :: List.replicate 7 0, wbase := (h.winOf f).1, time, mapTime := time }
/-- A wave at its creation (R20, R244). -/
def newWave (h : Header) (args : List Word) (time g m i slot : Nat) (created : Quad) : Wave where
  gang := g
  member := m
  index := i
  slot := slot
  created := created
  alloc := List.replicate h.regs (rowOf fun _ => 0)
  fibres := (List.range h.fibres).map fun f => newFibre h args time (h.stages.getD m 0) f
  supV := List.replicate 32 (rowOf fun _ => 0)
  supS := List.replicate 16 0
  supM := List.replicate 8 0
/-- The slot that wave `i` of a member takes: the lowest that earlier waves leave free (R15). -/
def slotOf (s : State) (cluster core i : Nat) : Nat := (freeSlots s cluster core (i % 4)).getD (i / 4) 0
/-- Members and waves of a gang. -/
def waveNames (h : Header) : List (Nat × Nat) := (List.range h.members).flatMap fun m => (List.range (h.waves.getD m 0)).map fun i => (m, i)
/-- A dictionary as it stands in memory; one that has not been asked for is not read. The spec does not say what a copy that fails
does: the words read when the object was checked stay in force (DESIGN CHOICE, log 40). -/
def copyDict (s : State) (tag : Option Nat) (need : Nat) (h : Header) : State × Done (List Word) :=
  let n := h.dict.length
  let r := readRange s tag (h.addr.toNat + h.doff) (4 * n) need
  (r.1, match r.2 with
    | .ok bs => .ok (dictWords n bs)
    | .fail .. => .ok h.dict
    | .pending => .pending)
/-- The dictionaries of a gang's kernel and of its context's handler (R129, R340). -/
def copyDicts (s : State) (tag : Nat) (h : Header) : State × Done (List Word × List Word) :=
  let a := copyDict s (some tag) rightRead h
  match a.2, get? s.contexts tag with
  | .ok d, some c =>
    let b := copyDict a.1 none 0 c.handler
    (b.1, match b.2 with | .ok e => .ok (d, e) | _ => .pending)
  | .ok d, none => (a.1, .ok (d, []))
  | _, _ => (a.1, .pending)
/-- The cores that a gang takes. -/
def coresOf (h : Header) (cluster core : Nat) : List Nat := (List.range h.members).map fun m => coreKey cluster (core + m)
/-- A gang's copies once it is placed: cores where it has been keep theirs, the others take one now (R129). -/
def withDicts (old : List (Nat × List Word × List Word)) (cores : List Nat) (d : List Word × List Word) :
    List (Nat × List Word × List Word) :=
  cores.foldl (fun t c => if (get? t c).isSome then t else put t c d) old
/-- The copies of a candidate that is placed on some cores. -/
def dictsFor (s : State) (tag : Nat) (h : Header) (old : List (Nat × List Word × List Word)) (cores : List Nat) :
    State × Done (List (Nat × List Word × List Word)) :=
  if cores.all fun c => (get? old c).isSome then (s, .ok old)
  else
    let r := copyDicts s tag h
    (r.1, match r.2 with | .ok d => .ok (withDicts old cores d) | _ => .pending)
/-- The next gang of a launch placed. -/
def placeNext (s : State) (l : Nat) (x : Launch) (dicts : List (Nat × List Word × List Word)) (cluster core : Nat) : State :=
  let u := s.takeUid
  let gang : Gang := { launch := l, tag := x.tag, index := x.nextGang, cluster, core, dicts, placed := s.clk, hdr := x.hdr }
  let names := (waveNames x.hdr).map fun n => (n, slotOf s cluster (core + n.1) n.2)
  let s1 := { u.1 with gangs := put u.1.gangs u.2 gang }
  let s2 := names.foldl (fun s n =>
    let v := s.takeUid
    grant { v.1 with waves := put v.1.waves v.2 (newWave x.hdr x.args x.logical u.2 n.1.1 n.1.2 n.2 s.calends) } v.2 0) s1
  modLaunch s2 l fun y => { y with nextGang := y.nextGang + 1, candSince := some s.clk, reserving := none }

/-! ## A gang restored (R35, R41, R67, R357) -/

/-- A parked fibre that is replayed: its checkpointed state, ready to issue its faulting instruction; its token is stale (R353). -/
def replayFibre (s : State) (w k : Nat) : State :=
  match (fibreAt s w k).park with
  | none => s
  | some (cp, r) =>
    let s1 := modFibre (restoreCheckpoint s w k cp) w k fun f =>
      let g := { f with park := none, replayed := false, retry := cp.again }
      if f.state = .halted then { g with before := .ready } else { g with state := .ready }
    { s1 with tokens := s1.tokens.filter (· != r.token) }
/-- Replays that reached a gang while it was saved. -/
def replayMarked (s : State) (g : Nat) : State :=
  (wavesOf s g).foldl (fun s w => (List.range 4).foldl (fun s k => if (fibreAt s w k).replayed then replayFibre s w k else s) s) s
/-- Whether a state holds the slot (R45). -/
def FibreState.holdsSlot : FibreState → Bool
  | .holding | .stalled | .scout | .trap => true
  | _ => false
/-- A halted fibre that resumes is in the state that it left; one that held a slot which another fibre now keeps waits for it
(R45, DESIGN CHOICE, log 36). -/
def Fibre.resumed (f : Fibre) (keeps : Bool) : Fibre :=
  if f.state != .halted then f
  else { f with state := if keeps || !f.before.holdsSlot then f.before else if f.wait.isSome then .waiting else .ready }
/-- The fibre that keeps a wave's slot when the wave resumes: its holder, or the last one if it held the slot when it halted. -/
def Wave.keeper (x : Wave) : Option Nat :=
  match x.holder with
  | some k => some k
  | none => x.lastHolder.filter fun k => let f := x.fibres.getD k Fibre.blank; f.state == .halted && f.before.holdsSlot
/-- A POLLING wait of a gang that goes on is to test its condition before its deadline is handled (R35). -/
def Fibre.reread (f : Fibre) : Fibre :=
  { f with wait := f.wait.map fun x => match x.kind with
    | .monw .. => { x with stale := x.monitor.isNone }
    | .gbar .. => { x with stale := x.monitor.isNone }
    | _ => x }
/-- The fibres of a wave resume (R45, R304). -/
def resumeWave (s : State) (w : Nat) : State :=
  modWave s w fun x => { x with
    holder := x.keeper, fibres := x.fibres.zipIdx.map fun p => (p.1.resumed (x.keeper == some p.2)).reread }
/-- The waves of a gang resume, and the fibres that were replayed while it was SAVED are ready (R353). -/
def resumeWaves (s : State) (g : Nat) : State := replayMarked ((wavesOf s g).foldl resumeWave s) g
/-- A saved gang placed again on a core, with its copies of the dictionaries. One that was HALTED is HALTED again; a replay that
reached it has its effect when it resumes. -/
def resumeAt (s : State) (g : Nat) (x : Gang) (dicts : List (Nat × List Word × List Word)) (cluster core : Nat) : State :=
  let s1 := { s with waves := s.waves.map fun p =>
    if p.2.gang = g then (p.1, { p.2 with slot := slotOf s cluster (core + p.2.member) p.2.index }) else p }
  let s2 := modGang s1 g fun y => { y with
    state := if x.wasHalted then .halted else .running, waitSwapped := false, wasHalted := false, cluster, core, placed := s.clk, dicts
    slot := none, written := false, away := [], eligible := none, reserving := none, swapAt := none }
  if x.wasHalted then s2 else resumeWaves s2 g
/-- Parts of a slot read over what the gang has kept; poison in what a gang cannot go on without fails (R186). -/
def readParts (s : State) (a : Nat) (h : Header) (parts : List (Nat × Nat)) (old : SlotPart) : State × Done SlotPart :=
  let start : SlotPart := { old with bad := old.bad.filter fun u => !(inParts parts u) }
  let r := parts.foldl (fun (r : State × Done SlotPart) p =>
    match r.2 with
    | .ok q =>
      let x := readSlot r.1 a p.1 p.2
      (x.1, match x.2 with | .ok y => .ok { bytes := overlay q.bytes p.1 y.bytes, bad := q.bad ++ y.bad } | d => d)
    | _ => r) (s, .ok start)
  match r.2 with
  | .ok q => match q.bad.find? (vitalUnit h) with | some u => (r.1, .fail 6 0 false (a + 16 * u)) | none => r
  | _ => r
/-- What a gang takes from its slot, its poison logged (R393). -/
def takeParts (s : State) (g : Nat) (x : Gang) (a : Nat) (parts : List (Nat × Nat)) : State × Done SlotPart :=
  let r := readParts s a x.hdr parts { bytes := gangImage s g x, bad := gangPoison s g x }
  match r.2 with
  | .ok q => ((match q.bad.find? (inParts parts) with | some u => logPoison r.1 (some x.tag) (a + 16 * u) | none => r.1), r.2)
  | .fail 6 _ _ u => (logPoison r.1 (some x.tag) u, r.2)
  | _ => r
/-- A saved gang restored; what is in its slot and nowhere else is read from there (R356, R357). -/
def restoreGang (s : State) (g : Nat) (x : Gang) (dicts : List (Nat × List Word × List Word)) (cluster core : Nat) : State :=
  match awayAt s g with
  | none => resumeAt s g x dicts cluster core
  | some a =>
    let r := takeParts s g x a (controlParts x.hdr ++ x.away.flatMap (bankParts x.hdr))
    match r.2 with
    | .ok q => resumeAt (fromImage r.1 g q.bytes q.bad) g x dicts cluster core
    | .fail _ _ _ u => saveFailed r.1 x u
    | .pending => r.1

/-! ## The placer acts (R334 to R336) -/

/-- Whether a saved gang that its wait has swapped out is to be placed again (R35, R353). -/
def wakesUp (s : State) (g : Nat) (x : Gang) : Bool :=
  x.state == .saved && x.eligible.isNone && s.waves.any fun p => p.2.gang == g && p.2.fibres.any fun f =>
    f.replayed || f.wait.any fun y =>
      (wokenValue s y).isSome || reached s x.tag y.deadline || decide (y.ides ≤ contextTime s x.tag)
/-- Gangs that have become eligible for placement again. -/
def wakeSaved (s : State) : State :=
  (keysWhere s.gangs fun _ => true).foldl (fun s g =>
    if (get? s.gangs g).any (wakesUp s g) then modGang s g fun x => { x with eligible := some s.clk } else s) s

/-- What the placer does. -/
inductive Act where
  | place (b : Bid) (cluster core : Nat)
  | stop (gs : List Nat) (waiting : Bool)
  deriving DecidableEq, Repr
/-- The fewest gangs of a list, taken in its order, whose leaving lets a gang fit in a cluster; those for which no slot can
be reserved do not leave (R356). -/
def leavers (s : State) (h : Header) (cluster : Nat) (order : List Nat) : Option (List Nat) :=
  let gone (s : State) (g : Nat) : State := modGang s g fun x => { x with state := .saved }
  let r := order.foldl (fun (r : State × List Nat) g =>
    if (coreFor r.1 h cluster).isSome then r
    else match reserveSlot r.1 g with
      | none => r
      | some t => (gone t g, r.2 ++ [g])) (s, [])
  if (coreFor r.1 h cluster).isSome then some r.2 else none
/-- The cluster where the fewest gangs must leave, the lowest of them first (R336). -/
def fewest (s : State) (h : Header) (order : Nat → List Nat) : Option (List Nat) :=
  (List.range 64).foldl (fun best cl =>
    match best, leavers s h cl (order cl) with
    | none, x => x
    | some b, some x => if x.length < b.length then some x else some b
    | some b, none => some b) none
/-- Gangs of a cluster that swap out for a candidate, in order (R336). -/
def swapOrder (s : State) (b : Bid) (cluster : Nat) : List Nat :=
  let gs := s.gangs.filterMap fun p =>
    if p.2.cluster = cluster && decide (gangPriority s p.2 ≤ b.prio) then (swapEligible s p.1 p.2).map fun t => (p.1, p.2, t) else none
  let key (x : Nat × Gang × Nat) : List Nat := [bit (x.2.1.launch != b.launch), gangPriority s x.2.1, x.2.2, x.2.1.index]
  (orderBy (fun x y => decide (key x < key y)) gs).map (·.1)
/-- Gangs of a cluster that a candidate pre-empts, the latest placed first (R336). -/
def preemptOrder (s : State) (b : Bid) (cluster : Nat) : List Nat :=
  let gs := s.gangs.filter fun p =>
    p.2.cluster == cluster && (p.2.state == .running || p.2.state == .halted) && decide (gangPriority s p.2 < b.prio)
  (orderBy (fun x y => decide (y.2.placed < x.2.placed)) gs).map (·.1)
/-- Room made for a candidate: by swapping out, else by pre-emption (R336). -/
def roomFor (s : State) (b : Bid) : Option Act :=
  if s.gangs.any fun p => p.2.state == .stopping then none
  else match fewest s b.hdr (swapOrder s b) with
    | some gs => some (.stop gs true)
    | none => (fewest s b.hdr (preemptOrder s b)).map fun gs => .stop gs false
/-- The candidate for which room is made: the oldest reserving one, else the first (R334). -/
def roomBid (bs : List Bid) : Option Bid := (oldestReserving bs).or bs.head?
/-- The cluster in which gangs are stopping for a candidate, which is placed there when they have stopped (R336). -/
def heldCluster (s : State) (bs : List Bid) : Option (Bid × Nat) :=
  s.making.bind fun m => (bs.find? fun b => b.cand = m.1).map fun b => (b, m.2)
/-- Whether a gang of a cluster is stopping. -/
def stoppingIn (s : State) (cluster : Nat) : Bool := s.gangs.any fun p => p.2.cluster == cluster && p.2.state == .stopping
/-- The first candidate that fits, outside a cluster that is being cleared for another. -/
def firstFit (s : State) (bs : List Bid) (first : Nat) (barred : Option Nat) : Option (Bid × Nat × Nat) :=
  bs.findSome? fun b => if mayPlace bs b then (findPlace s b.hdr first barred).map fun p => (b, p) else none
/-- The placer's next action: the candidate for which gangs have stopped is placed where they were (R336), else the first that fits;
if none does, room is made (R334). -/
def placerAct (s : State) (first : Nat) : Option Act :=
  let bs := bids s
  let held := heldCluster s bs
  match held.bind fun h => if mayPlace bs h.1 then (coreFor s h.1.hdr h.2).map fun c => (h.1, h.2, c) else none with
  | some (b, cl, c) => some (.place b cl c)
  | none =>
    match firstFit s bs first ((held.filter fun h => stoppingIn s h.2).map (·.2)) with
    | some (b, cl, c) => some (.place b cl c)
    | none => (roomBid bs).bind (roomFor s)
/-- A placed gang's launch has its base priority again (R334). -/
def priorityBack (s : State) (l : Nat) : State := modLaunch s l fun x => { x with raised := 0, agedAt := s.clk }
/-- The turn after a gang of a queue has been placed: it passes only when its own queue has placed its WEIGHT, or has no further
candidate (R334). -/
def countTurn (s : State) (q : Nat) : State := passTurn (if q = s.turnQueue then { s with turnUsed := s.turnUsed + 1 } else s)
/-- The gang that a candidate is, when it has been placed before. -/
def savedOf : Candidate → Option Nat
  | .saved g => some g
  | .next _ => none
/-- A candidate placed, once the saved state that lies where it goes has left and the dictionaries have been copied; `due` is the
step that goes on when a copy has to wait. -/
def placeBid (s : State) (b : Bid) (cluster core : Nat) (due : Due) : State :=
  let x := (savedOf b.cand).bind (get? s.gangs)
  let tag := match x with | some x => x.tag | none => ((get? s.launches b.launch).map (·.tag)).getD 0
  let d := dictsFor s tag b.hdr ((x.map (·.dicts)).getD []) (coresOf b.hdr cluster core)
  match d.2 with
  | .ok dicts =>
    let s1 := (inTheWay d.1 b.hdr cluster core (savedOf b.cand)).foldl (fun s y => evictBank s y.1 y.2)
      { d.1 with making := d.1.making.filter fun m => m.1 != b.cand }
    match b.cand with
    | .saved g =>
      match get? s1.gangs g with
      | some x => priorityBack (restoreGang s1 g x dicts cluster core) b.launch
      | none => s1
    | .next l =>
      match get? s1.launches l with
      | some x => countTurn (priorityBack (placeNext s1 l x dicts cluster core) l) b.queue
      | none => s1
  | _ => holdDue d.1 due
/-- Gangs begin to stop for the candidate for which room is made (R336). -/
def makeWay (s : State) (gs : List Nat) (waiting : Bool) : State :=
  let t := gs.foldl (fun s g => beginStop s g waiting) s
  { t with making := (roomBid (bids s)).bind fun b => (gs.head?.bind (get? s.gangs)).map fun x => (b.cand, x.cluster) }
/-- Room is no longer held for a candidate that is none, or for which the stops that have ended do not suffice. -/
def releaseRoom (s : State) : State :=
  if s.haltAll then s
  else match heldCluster s (bids s) with
    | some (b, cl) => if stoppingIn s cl || (coreFor s b.hdr cl).isSome then s else { s with making := none }
    | none => { s with making := none }
/-- What the placer finds: saved gangs that are to wake are candidates, the turn among queues and the room that is held stand as
they should; a placement that has waited for an answer is the one that is made. -/
def placerReady (s : State) : State :=
  releaseRoom (passTurn (wakeSaved { s with waiting := s.waiting.filter (·.placing.isNone) }))
/-- The placer acts. -/
def placer (s : State) (first : Nat) : State :=
  let s1 := placerReady s
  match placerAct s1 first with
  | some (.place b cl c) => placeBid s1 b cl c (.gangPlacement first)
  | some (.stop gs waiting) => makeWay s1 gs waiting
  | none => s1
/-- R334: one action of the placer, which searches the clusters from `first` on. -/
def execGangPlacement (first : Nat) (s : State) : Outcome := event (placer s first)

/-! ## Halts (R304 to R308) -/

/-- Whether a gang's halt can be completed: it has been asked for, and no instruction is left partly done (R304). -/
def haltDue (s : State) (g : Nat) : Bool := (get? s.gangs g).any fun x => asksHalt s g x && atBoundary s g
/-- Every fibre halts, and the gang with them (R304). -/
def haltGang (s : State) (g : Nat) : State := modGang (haltFibres s g) g fun x => { x with state := .halted }
/-- R304 -/
def execGangHaltComplete (g : Nat) (s : State) : Outcome := event (if haltDue s g then haltGang s g else s)
/-- A halted gang runs again (R46, R304). -/
def resumeGang (s : State) (g : Nat) : State :=
  resumeWaves (modGang s g fun x => { x with state := .running, byDevice := false }) g
/-- Every running gang is asked to halt (R308). -/
def haltDevice (s : State) : State :=
  { s with haltAll := true, gangs := s.gangs.map fun p => if p.2.state = .running && !(asksHalt s p.1 p.2) then (p.1, { p.2 with byDevice := true }) else p }
/-- The gangs that the device has halted run again; its collectives go on (R308). -/
def resumeHalted (s : State) : State :=
  let gs := keysWhere s.gangs fun x => x.byDevice
  let s1 := gs.foldl (fun s g =>
    if (get? s.gangs g).any (·.state = .halted) then resumeGang s g else modGang s g fun x => { x with byDevice := false }) { s with haltAll := false }
  reportAll s1
/-- R308 -/
def execDeviceHalt (on : Bool) (s : State) : Outcome :=
  event (if on then (if s.haltAll then s else haltDevice s) else if s.haltAll then resumeHalted s else s)

end Sys2Proof.Machine
end

