-- ==== Sys2Proof/Machine/Contexts.lean ====
section
/-! DEFINITION. Contexts and the commands of `CX_CMD` (R339 to R343, R353): install, update, end, rights, replay, and the
debugger's access to gangs (R304, R356, R357). -/

namespace Sys2Proof.Machine

/-! ## Descriptors (R340) -/

/-- Whether an address lies in this device's memory. -/
def inDevice (s : State) (a : Nat) : Bool := match placeOf s a with | .own _ => true | _ => false
/-- Whether an address lies in device memory, this device's or a peer's (R96). -/
def inMemory (s : State) (a : Nat) : Bool := match placeOf s a with | .own _ => true | .peer .. => true | _ => false
/-- The fields that UPDATE reads as well (R340, R341). -/
def contextLimitsOk (bs : List Byte) : Bool :=
  numAt bs 0x0C 4 / 2 == 0 && numAt bs 0x10 8 != 0 && decide (numAt bs 0x10 8 ≤ 2 ^ 62) && numAt bs 0x3C 132 == 0
/-- The fields of a context descriptor (R340). -/
def contextFieldsOk (s : State) (bs : List Byte) : Bool :=
  contextLimitsOk bs && numAt bs 0 8 % 16 == 0 && inMemory s (numAt bs 0 8) && decide (numAt bs 8 4 ≤ 4096)
    && numAt bs 0x18 8 % 192 == 0 && numAt bs 0x30 8 % 49152 == 0 && inDevice s (numAt bs 0x30 8) && numAt bs 0x38 4 != 0
/-- The fields of a kernel object that a handler uses (R340). -/
def handlerFieldsOk (addr : Nat) (bs : List Byte) : Bool :=
  let span (off len : Nat) : Bool := len == 0 || (decide (192 ≤ off) && decide (addr + off + len ≤ 2 ^ 64))
  let d := dictSpan bs
  numAt bs 0 4 == 0x4B4E4C49 && numAt bs 4 2 == 1 && decide (d.1 ≤ 1024) && d.2 % 4 == 0 && numAt bs 0x80 4 % 2 == 0
    && numAt bs 0x84 4 % 2 == 0 && span d.2 (4 * d.1) && span (numAt bs 0x80 4) (numAt bs 0x84 4)
    && decide (numAt bs 0x38 4 < numAt bs 0x84 4 / 2)
/-- The handler object read and checked (R340), by a step that reads more. -/
def loadHandler (s : State) (addr : Quad) : State × Loaded :=
  thenRead (readKeep s none addr.toNat 192 0) .ofDone fun s bs =>
    if !(handlerFieldsOk addr.toNat bs) then (s, .invalid)
    else
      let n := (dictSpan bs).1
      thenRead (readKeep s none (addr.toNat + (dictSpan bs).2) (4 * n) 0) .ofDone fun s ds =>
        let ws := dictWords n ds
        (s, if dictOk ws then .ok (parseHeader addr bs ws) else .invalid)

/-! ## Rights (R343) -/

/-- The entries of a rights table. -/
def rightsOf (n : Nat) (bs : List Byte) : List Right :=
  (List.range n).map fun k => { start := numAt bs (16 * k) 8, pages := numAt bs (16 * k + 8) 4, bits := numAt bs (16 * k + 12) 4 }
/-- Entries in strictly rising order, none over another. -/
def rightsSorted : List Right → Bool
  | a :: b :: t => decide (a.start < b.start) && decide (a.start + 49152 * a.pages ≤ b.start) && rightsSorted (b :: t)
  | _ => true
/-- Whether a rights table is not malformed. -/
def rightsOk (rs : List Right) : Bool :=
  rightsSorted rs && rs.all fun r => r.start % 49152 == 0 && r.pages != 0 && decide (r.bits < 8)
/-- A rights table read and checked by a step that may read more: its entries, and whether it is malformed. -/
def loadRights (s : State) (at_ : Quad) (n : Nat) : State × Option (List Right × Bool) :=
  let r := readKeep s none at_.toNat (16 * n) 0
  match r.2 with
  | .pending => (r.1, none)
  | .fail .. => (r.1, some ([], true))
  | .ok bs => (r.1, some (rightsOf n bs, !(rightsOk (rightsOf n bs))))

/-! ## Commands -/

/-- Whether a step is a context command that has begun. -/
def isCommand : Due → Bool
  | .install _ => true
  | .update _ => true
  | .rightsinv _ => true
  | _ => false
/-- `CX_CMD` BUSY. -/
def cxBusy (s : State) : Bool := s.waiting.any isCommand || s.agenda.any fun t => match t with | .due d => isCommand d | _ => false
/-- A command of `CX_CMD` ends with a RESULT (R341). -/
def cxDone (s : State) (r : Nat) : State := { s with cxResult := BitVec.ofNat 8 r }
/-- A command written to `CX_CMD`: ignored while BUSY is 1 (R339). -/
def cxCommand (s : State) (t : BitVec 6) (op : BitVec 4) (run : State → State) : State :=
  if !s.live || cxBusy s then s else run { s with cxTag := t, cxOp := op }
/-- A command on an installed context; on another tag it finds nothing. -/
def onContext (s : State) (t : BitVec 6) (run : Context → State) : State :=
  match get? s.contexts t.toNat with
  | some c => run c
  | none => cxDone s 1

/-- Whether a record of the context's end by the device has still to be posted (R342). -/
def endPending (s : State) (t : Nat) : Bool := (s.held ++ s.posting).any fun p => p.2.ended && p.2.tag == t
/-- A context as its descriptor, its handler and its rights table give it (R340, R341). -/
def contextFrom (bs : List Byte) (h : Header) (rs : List Right × Bool) : Context :=
  { dbg := bitOf (numAt bs 0x0C 4) 0, ides := numAt bs 0x10 8, handlerAddr := h.addr + BitVec.ofNat 64 (h.coff + 2 * h.entry.getD 0 0)
    handler := h, harvest := BitVec.ofNat 64 (numAt bs 0x20 8), vigil := BitVec.ofNat 64 (numAt bs 0x28 8)
    pool := BitVec.ofNat 64 (numAt bs 0x30 8), poolPages := numAt bs 0x38 4, rightsAt := BitVec.ofNat 64 (numAt bs 0 8)
    rcount := numAt bs 8 4, rights := rs.1, malformed := rs.2, progs := List.replicate 4 0 }
/-- A command that reads memory ends with a RESULT, or waits for an answer and is carried out again with it. -/
def readDone (r : State × Option (State → State)) (due : Due) : State :=
  match r.2 with
  | some f => f (endReads r.1 false)
  | none => holdDue (endReads r.1 true) due
/-- What a read that gave no bytes makes of a command: RESULT 5, or the wait for an answer. -/
def readBad : Done (List Byte) → Option (State → State)
  | .pending => none
  | _ => some fun s => cxDone s 5
/-- What INSTALL comes to: the descriptor, the handler object and the rights table are read and checked (R340, R341, R343). -/
def installReads (s : State) (t : BitVec 6) : State × Option (State → State) :=
  thenRead (readKeep s none (s.cxBase.toNat + 192 * t.toNat) 192 0) readBad fun s bs =>
    if !(contextFieldsOk s bs) then (s, some fun s => cxDone s 3)
    else
      let k := loadHandler s (BitVec.ofNat 64 (numAt bs 0x18 8))
      match k.2 with
      | .pending => (k.1, none)
      | .unreadable .. => (k.1, some fun s => cxDone s 5)
      | .invalid => (k.1, some fun s => cxDone s 4)
      | .ok h =>
        let q := loadRights k.1 (BitVec.ofNat 64 (numAt bs 0 8)) (numAt bs 8 4)
        (q.1, q.2.map fun rs s => cxDone { s with contexts := put s.contexts t.toNat (contextFrom bs h rs) } 0)
/-- INSTALL of a tag that must be free (R341, R342). -/
def installContext (s : State) (t : BitVec 6) : State :=
  if (get? s.contexts t.toNat).isSome || endPending s t.toNat then cxDone s 2 else readDone (installReads s t) (.install t)
/-- R341 -/
def execInstall (t : BitVec 6) (s : State) : Outcome := event (cxCommand s t 1 fun s => installContext s t)

/-- What UPDATE comes to: FLAGS, IDES, HARVEST and VIGIL are read again (R341). -/
def updateReads (s : State) (t : BitVec 6) : State × Option (State → State) :=
  thenRead (readKeep s none (s.cxBase.toNat + 192 * t.toNat) 192 0) readBad fun s bs =>
    (s, some fun s =>
      if !(contextLimitsOk bs) then cxDone s 3
      else cxDone (modContext s t.toNat fun c => { c with
        dbg := bitOf (numAt bs 0x0C 4) 0, ides := numAt bs 0x10 8, harvest := BitVec.ofNat 64 (numAt bs 0x20 8)
        vigil := BitVec.ofNat 64 (numAt bs 0x28 8) }) 0)
/-- UPDATE of an installed tag (R341). -/
def updateContext (s : State) (t : BitVec 6) : State := onContext s t fun _ => readDone (updateReads s t) (.update t)
/-- R341 -/
def execUpdate (t : BitVec 6) (s : State) : Outcome := event (cxCommand s t 2 fun s => updateContext s t)
/-- R342: an end by the driver posts no record. -/
def execCtxEnd (t : BitVec 6) (s : State) : Outcome :=
  event (cxCommand s t 3 fun s => onContext s t fun _ => cxDone (endContext s t.toNat) 0)
/-- RIGHTSINV: the table is read and checked again (R343). -/
def recheckRights (s : State) (t : BitVec 6) : State :=
  onContext s t fun c =>
    let q := loadRights s c.rightsAt c.rcount
    readDone (q.1, q.2.map fun rs s => cxDone (modContext s t.toNat fun c => { c with rights := rs.1, malformed := rs.2 }) 0) (.rightsinv t)
/-- R343 -/
def execRightsinv (t : BitVec 6) (s : State) : Outcome := event (cxCommand s t 4 fun s => recheckRights s t)

/-! ## Replay (R353 to R355) -/

/-- A parked fibre is replayed, or marked while its gang is SAVED (R353). -/
def replayOne (s : State) (w k : Nat) : State :=
  match get? s.waves w with
  | none => s
  | some x =>
    let saved := (get? s.gangs x.gang).any fun g => g.state == .saved
    if saved then
      let s1 := modFibre s w k fun f => { f with replayed := true }
      patchImage s1 x.gang (slotFibre (headerOf s x.gang) x.member x.index k + 0x221) (toBytes 1 1)
    else replayFibre s w k
/-- Parked fibres of a context, with their tokens; one that has been marked is no longer to be replayed. -/
def parkedOf (s : State) (t : Nat) : List (Nat × Nat × Nat) :=
  s.waves.flatMap fun p =>
    if tagOf s p.1 = t then
      (p.2.fibres.zipIdx.filter fun f => !f.1.replayed).filterMap fun f => f.1.park.map fun k => (p.1, f.2, k.2.token)
    else []
/-- A held completion step is tried again (R355). -/
def retryStep (s : State) (l : Nat) (token : Nat) : State :=
  completeLaunch { modLaunch s l (fun x => { x with heldStep := none }) with tokens := s.tokens.filter (· != token) } l
/-- A launch of a context whose held step has a token. -/
def heldWith (s : State) (t token : Nat) : Option Nat :=
  (s.launches.find? fun p => p.2.tag == t && p.2.heldStep.any fun r => r.token == token).map (·.1)
/-- R353: a token that names nothing of the context gives RESULT 1. -/
def execReplay (t : BitVec 6) (s : State) : Outcome :=
  event (cxCommand s t 5 fun s => onContext s t fun _ =>
    let token := s.cxArg0.toNat % 2 ^ 32
    match (parkedOf s t.toNat).find? fun p => p.2.2 == token, heldWith s t.toNat token with
    | some p, _ => cxDone (replayOne s p.1 p.2.1) 0
    | none, some l => cxDone (retryStep s l token) 0
    | none, none => cxDone s 1)
/-- R341: every parked fibre of the context. -/
def execReplayall (t : BitVec 6) (s : State) : Outcome :=
  event (cxCommand s t 6 fun s => onContext s t fun _ =>
    cxDone ((parkedOf s t.toNat).foldl (fun s p => replayOne s p.1 p.2.1) s) 0)

/-! ## The debugger's access (R304, R341, R356, R357) -/

/-- The gang that the operands of a command name. -/
def namedGang (s : State) (t : Nat) : Option (Nat × Gang) :=
  s.gangs.find? fun p => p.2.tag == t && p.2.index == bitsOf s.cxArg0.toNat 31 0
    && ((get? s.launches p.2.launch).any fun l => l.desc == s.cxArg1)
/-- The wave that the operands name, in a gang. -/
def namedWave (s : State) (g : Nat) : Option Nat :=
  (gangWave s g (bitsOf s.cxArg0.toNat 33 32) (bitsOf s.cxArg0.toNat 38 34)).map (·.1)
/-- A command on a gang: RESULT 1 when there is none (R341). -/
def onGang (s : State) (t : BitVec 6) (run : Nat → Gang → State) : State :=
  onContext s t fun _ => match namedGang s t.toNat with
    | some p => run p.1 p.2
    | none => cxDone s 1
/-- A precise stop asked of a live fibre: taken at once where its gang does not run, else as soon as its instruction is done; a
saved gang stays SAVED, and comes back HALTED (R304, R305). -/
def requestStop (s : State) (g : Nat) (x : Gang) (w k : Nat) : State :=
  let t := modFibre s w k fun f => { f with stopReq := true }
  match x.state with
  | .running | .stopping => t
  | .halted => modGang (haltOne t w k) g fun y => { y with byDevice := false }
  | .saved => rewriteControl (modGang (haltFibres t g) g fun y => { y with wasHalted := true }) g
/-- R304, R341 -/
def execStop (t : BitVec 6) (s : State) : Outcome :=
  event (cxCommand s t 7 fun s => onGang s t fun g x =>
    match namedWave s g with
    | none => cxDone s 1
    | some w =>
      let k := bitsOf s.cxArg0.toNat 40 39
      if !(fibreAt s w k).live then cxDone s 1 else cxDone (requestStop s g x w k) 0)
/-- R341, R356: the image of a halted gang written to a save slot, which ARG0 receives. -/
def execDbgsave (t : BitVec 6) (s : State) : Outcome :=
  event (cxCommand s t 8 fun s => onGang s t fun g x =>
    if x.state != .halted then cxDone s 2
    else match reserveSlot s g with
      | none => cxDone s 2
      | some s1 =>
        match get? s1.gangs g with
        | none => cxDone s 1
        | some y =>
          let a := y.slot.getD 0
          let w := saveParts s1 g y a [(0, slotBytes y.hdr)]
          match w.2 with
          | .ok _ => cxDone { modGang w.1 g (fun z => { z with written := true }) with cxArg0 := a } 0
          | .fail _ _ _ u => cxDone (saveFailed w.1 x u) 5
          | .pending => cxDone w.1 5)
/-- R341, R357: the gang takes what its slot holds, and stays HALTED. -/
def execDbgload (t : BitVec 6) (s : State) : Outcome :=
  event (cxCommand s t 9 fun s => onGang s t fun g x =>
    if x.state != .halted then cxDone s 2
    else match x.slot with
      | none => cxDone s 1
      | some a =>
        if !x.written then cxDone s 1
        else
          let r := takeParts s g x a.toNat [(0, slotBytes x.hdr)]
          match r.2 with
          | .ok q => cxDone (fromImage r.1 g q.bytes q.bad) 0
          | _ => cxDone r.1 5)
/-- R341: every gang of the context is pre-empted, if its pool has room for it, and none is placed. -/
def execSuspend (t : BitVec 6) (s : State) : Outcome :=
  event (cxCommand s t 10 fun s => onContext s t fun _ =>
    let s1 := modContext s t.toNat fun c => { c with suspended := true }
    cxDone ((keysWhere s1.gangs fun x => x.tag == t.toNat && (x.state == .running || x.state == .halted)).foldl
      (fun s g => beginStop s g false) s1) 0)
/-- R341: its gangs are candidates again. -/
def execResume (t : BitVec 6) (s : State) : Outcome :=
  event (cxCommand s t 11 fun s => onContext s t fun _ => cxDone (modContext s t.toNat fun c => { c with suspended := false }) 0)
/-- R304, R341; while the device is halted the gang resumes with it (R308). -/
def execResumegang (t : BitVec 6) (s : State) : Outcome :=
  event (cxCommand s t 12 fun s => onGang s t fun g x =>
    if x.state != .halted then cxDone s 2
    else if s.haltAll then cxDone (modGang s g fun y => { y with byDevice := true }) 0
    else cxDone (resumeGang s g) 0)

end Sys2Proof.Machine
end

