-- ==== Sys2Proof/Machine/Texture.lean ====
section
/-! DEFINITION. Texture samples (R238, R239, R277 to R284) and the withdrawal of residency-map copies (R240, R279). -/

namespace Sys2Proof.Machine

/-! ## Descriptor and sampler (R238, R277, R278) -/

/-- A texture descriptor. -/
structure Texture where
  base     : Nat
  map      : Nat
  w        : Nat
  h        : Nat
  levels   : Nat
  half     : Bool              -- FMT 1, RGBA16F
  fallback : List Nat
  deriving DecidableEq, Repr
/-- The descriptor of 48 bytes; none when it breaks a limit (R277). -/
def readTexture (bs : List Byte) : Option Texture :=
  let t : Texture := { base := numAt bs 0 8, map := numAt bs 8 8, w := numAt bs 16 2, h := numAt bs 18 2, levels := numAt bs 20 1
                       half := numAt bs 21 1 == 1, fallback := [numAt bs 24 2, numAt bs 26 2, numAt bs 28 2, numAt bs 30 2] }
  if t.base % 16 == 0 && decide (1 ≤ t.w ∧ t.w ≤ 32768) && decide (1 ≤ t.h ∧ t.h ≤ 32768)
      && decide (1 ≤ t.levels ∧ t.levels ≤ 16) && decide (t.levels ≤ Nat.log2 (max t.w t.h) + 1) && decide (numAt bs 21 1 ≤ 1)
      && numAt bs 22 2 == 0 && numAt bs 32 16 == 0 then some t else none

/-- Width and height of a level. -/
def Texture.width (t : Texture) (l : Nat) : Nat := max 1 (t.w / 2 ^ l)
def Texture.height (t : Texture) (l : Nat) : Nat := max 1 (t.h / 2 ^ l)
/-- Texels of a tile across and down, and bytes of a texel. -/
def Texture.tileH (t : Texture) : Nat := if t.half then 64 else 128
def Texture.texel (t : Texture) : Nat := if t.half then 8 else 4
/-- Tiles of a level across and down. -/
def Texture.across (t : Texture) (l : Nat) : Nat := ceilDiv (t.width l) 128
def Texture.down (t : Texture) (l : Nat) : Nat := ceilDiv (t.height l) t.tileH
/-- The first tile of a level. -/
def Texture.firstTile (t : Texture) (l : Nat) : Nat := ((List.range l).map fun k => t.across k * t.down k).foldl (· + ·) 0
/-- The tile of a texel within its level. -/
def Texture.tileIn (t : Texture) (l x y : Nat) : Nat := y / t.tileH * t.across l + x / 128
/-- The address of a texel (R278). -/
def Texture.texelAt (t : Texture) (l x y : Nat) : Nat :=
  (t.base + 65536 * (t.firstTile l + t.tileIn l x y) + (y % t.tileH * 128 + x % 128) * t.texel) % 2 ^ 64

/-- The sampler CTL (R238). -/
structure Sampler where
  addr   : Nat
  linear : Bool
  aniso  : Nat
  bias   : Int
  deriving DecidableEq, Repr
/-- The sampler that a CTL word names; none when it is invalid. -/
def readSampler (c : Nat) : Option Sampler :=
  if c % 4 = 3 || bitsOf c 31 16 != 0 then none
  else some { addr := c % 4, linear := bitOf c 2, aniso := bitsOf c 7 4 + 1, bias := signed 8 (bitsOf c 15 8) }
/-- A texel index addressed within a level (R282). -/
def Sampler.wrap (p : Sampler) (size : Nat) (n : Int) : Nat :=
  match p.addr with
  | 0 => (n % (size : Int)).toNat
  | 1 => (clampInt 0 (size - 1) n).toNat
  | _ => let m := (n % (2 * size : Int)).toNat; if m < size then m else 2 * size - 1 - m

/-! ## Footprints (R281, R282) -/

/-- A footprint: its centre, the probes along the major axis, and the wanted level. -/
structure Footprint where
  u     : Frac
  v     : Frac
  n     : Nat
  mx    : Frac
  my    : Frac
  level : Nat
  deriving DecidableEq, Repr

/-- An operand as R281 reads it: a NaN is 0; none for an infinity. -/
def operandFrac (x : Word) : Option Frac :=
  match Fmt.f32.value x.toNat with
  | .nan _ => some (.ofInt 0)
  | .inf _ => none
  | .fin s n d => some ⟨signedNum s n, d⟩
/-- A coordinate: an infinite one reads as 0. -/
def coordinate (x : Word) : Frac := (operandFrac x).getD (.ofInt 0)
/-- The four differentials of `sample.c` (R238); none when one is not finite. -/
def coneDiffs (ws : List Word) : Option (Frac × Frac × Frac × Frac) := do
  let w ← operandFrac (ws.getD 2 0)
  let r ← match Fmt.f32.value (ws.getD 3 0).toNat with
    | .inf true => some (.ofInt 1)
    | _ => (operandFrac (ws.getD 3 0)).map fun r => r.max (.ofInt 1)
  let cx ← operandFrac (ws.getD 4 0)
  let cy ← operandFrac (ws.getD 5 0)
  some ((w.mul r).mul cx, (w.mul r).mul cy, (w.mul cy).neg, w.mul cx)
/-- The four differentials of `sample.d`. -/
def plainDiffs (ws : List Word) : Option (Frac × Frac × Frac × Frac) := do
  some (← operandFrac (ws.getD 2 0), ← operandFrac (ws.getD 3 0), ← operandFrac (ws.getD 4 0), ← operandFrac (ws.getD 5 0))
/-- The number of probes: the least number not below the square root of P / Q, at most ANISO. -/
def probes (aniso : Nat) (p q : Frac) : Nat :=
  (((List.range aniso).map fun (k : Nat) => k + 1).find? fun (n : Nat) => p.le (q.mul (.ofInt (n * n)))).getD aniso
/-- The wanted level of a footprint whose longer side has the square P: the count of levels k with
P / N² ≥ 2 ^ (2 k - 1 - BIAS / 8). -/
def levelOf (levels : Nat) (bias : Int) (p : Frac) (n : Nat) : Nat :=
  ((List.range levels).filter fun (k : Nat) => k != 0 &&
    (Frac.pow2 (16 * (k : Int) - 8 - bias)).le ⟨p.num ^ 8, (p.den * n * n) ^ 8⟩).length
/-- The footprint of differentials (R281). -/
def footprint (t : Texture) (p : Sampler) (u v : Word) (d : Option (Frac × Frac × Frac × Frac)) : Footprint :=
  let none_ : Footprint := { u := coordinate u, v := coordinate v, n := 1, mx := .ofInt 0, my := .ofInt 0, level := 0 }
  match d with
  | none => none_
  | some (a, b, c, e) =>
    let px := (a.mul (.ofInt t.w), b.mul (.ofInt t.h))
    let py := (c.mul (.ofInt t.w), e.mul (.ofInt t.h))
    let sx := (px.1.mul px.1).add (px.2.mul px.2)
    let sy := (py.1.mul py.1).add (py.2.mul py.2)
    let big := sx.max sy
    let major := if sy.le sx then px else py
    if big.isZero then none_
    else
      let n := probes p.aniso big (sx.min sy)
      { none_ with n, mx := major.1, my := major.2, level := levelOf t.levels p.bias big n }
/-- The footprint of `sample.l`. -/
def levelFootprint (t : Texture) (p : Sampler) (u v lam : Word) : Footprint :=
  let l : Int := match Fmt.f32.value lam.toNat with
    | .nan _ => ((Frac.add ⟨p.bias, 16⟩ ⟨1, 2⟩).floor)
    | .inf s => if s then 0 else 15
    | .fin s n d => ((Frac.add ⟨signedNum s n, d⟩ (Frac.add ⟨p.bias, 16⟩ ⟨1, 2⟩)).floor)
  { u := coordinate u, v := coordinate v, n := 1, mx := .ofInt 0, my := .ofInt 0, level := (clampInt 0 (t.levels - 1) l).toNat }

/-- The texels that a probe reads, with their weights (R282). -/
def probeTexels (t : Texture) (p : Sampler) (f : Footprint) (l k : Nat) : List (Nat × Nat × Frac) :=
  let along (m : Frac) : Frac := m.mul ⟨2 * k + 1 - f.n, 2 * f.n⟩
  let q (c m : Frac) (size0 size : Nat) : Frac := ((c.mul (.ofInt size0)).add (along m)).mul ⟨size, size0⟩
  let qx := q f.u f.mx t.w (t.width l)
  let qy := q f.v f.my t.h (t.height l)
  let x (n : Int) : Nat := p.wrap (t.width l) n
  let y (n : Int) : Nat := p.wrap (t.height l) n
  if !p.linear then [(x qx.floor, y qy.floor, .ofInt 1)]
  else
    let sx := qx.sub ⟨1, 2⟩
    let sy := qy.sub ⟨1, 2⟩
    let i := sx.floor
    let j := sy.floor
    let fx : Frac := ⟨((sx.sub (.ofInt i)).mul (.ofInt 256)).floor, 256⟩
    let fy : Frac := ⟨((sy.sub (.ofInt j)).mul (.ofInt 256)).floor, 256⟩
    let gx := (Frac.ofInt 1).sub fx
    let gy := (Frac.ofInt 1).sub fy
    [(x i, y j, gx.mul gy), (x (i + 1), y j, fx.mul gy), (x i, y (j + 1), gx.mul fy), (x (i + 1), y (j + 1), fx.mul fy)]
/-- The texels that the filter reads at a level. -/
def levelTexels (t : Texture) (p : Sampler) (f : Footprint) (l : Nat) : List (Nat × Nat × Frac) :=
  (List.range f.n).flatMap (probeTexels t p f l)

/-! ## Reads of a sample (R239, R279) -/

/-- The reads of one issue in progress: whether an answer is missing, the reads that fault the fibre, the map lines read. -/
structure TexRun where
  s       : State
  missing : Bool := false
  bad     : List (Access × Got) := []
  lines   : List Nat := []
/-- What a read of one unit found. -/
inductive TexGot where
  | bytes (bs : List Byte)
  | fail (row level : Nat) (readOnly : Bool)
  | missing
/-- The key of a unit among a fibre's answers. -/
def texKey (u : Nat) : Nat := 2 ^ 80 + u
/-- One 16-byte unit read at the instruction (R186, R239). -/
def texRead (h : Here) (r : TexRun) (u : Nat) : TexRun × TexGot :=
  let c := check r.s (some h.g.tag) u rightRead true false true
  let r1 := { r with s := c.1 }
  match c.2 with
  | .ok => (r1, .bytes (readGlobal c.1 u 16))
  | .fail row level ro => (r1, .fail row level ro)
  | .host a => ({ r1 with s := askHost c.1 a, missing := true }, .missing)
  | .peer d =>
    match h.f.answers.find? fun x => x.key = texKey u with
    | some x => if x.status = 0 then (r1, .bytes (padTo 16 x.value)) else (r1, .fail (statusRow x.status x.attr) (x.attr % 4) false)
    | none => ({ r1 with s := askFor h c.1 d (texKey u) { opc := 1, size := 16, addr := u }, missing := true }, .missing)
/-- A failed read that faults the fibre. -/
def TexRun.fault (r : TexRun) (lane a row level : Nat) (ro : Bool) : TexRun :=
  { r with bad := r.bad ++ [(⟨lane, 0, a⟩, .fail row level ro (rowStatus row))] }

/-- The TXU of the core a group runs on. -/
def Here.txu (h : Here) : Nat := 4 * h.g.cluster + h.coreOf
/-- The copy from which a TXU may answer a read: the reader's logical time lies within its lease (R100, R279). The reader is the TXU: its
time is past what the launch depended on and what the fibre has written, and need not be past what the fibre has read, so that a sample
ordered by a readiness word alone may still find the copy, as R328 allows (DEDUCED, log 65). -/
def mapCopy (h : Here) (s : State) (u : Nat) : Option MapCopy :=
  s.maps.find? fun m => m.txu == h.txu && m.unit == u && decide (h.f.mapTime ≤ m.lease)
/-- A unit that a TXU has read kept, when a free value says so; of lines of peers and of the host it keeps no copy (log 39). -/
def keepMap (h : Here) (s : State) (u : Nat) (bs : List Byte) : State :=
  match placeOf s u with
  | .own o =>
    let v := s.takeFree
    if v.2.getLsbD 0 then
      let y := grantLease v.1 o h.f.mapTime
      { y.1 with maps := (y.1.maps.filter fun m => !(m.txu == h.txu && m.unit == u))
          ++ [{ txu := h.txu, unit := u, taken := s.clk, lease := y.2.lease, bytes := bs }] }
    else v.1
  | _ => s
/-- A unit of the residency map: from the TXU's copy, or read; whether a copy is used and whether one is taken is left open
(R279). -/
def mapRead (h : Here) (r : TexRun) (u : Nat) : TexRun × TexGot :=
  let read (r : TexRun) : TexRun × TexGot :=
    let x := texRead h r u
    match x.2 with
    | .bytes bs => ({ x.1 with s := keepMap h x.1.s u bs }, x.2)
    | _ => x
  match mapCopy h r.s u with
  | none => read r
  | some m =>
    let x := texRead h r u
    let v := x.1.s.takeFree
    match x.2 with
    | .fail .. => x
    | _ => if v.2.getLsbD 0 then ({ r with s := v.1 }, .bytes m.bytes) else read { r with s := v.1 }
/-- Whether a tile is marked resident. -/
def tileMarked (h : Here) (t : Texture) (lane : Nat) (r : TexRun) (b : Nat) : TexRun × Bool :=
  let a := (t.map + b / 8) % 2 ^ 64
  let x := mapRead h { r with lines := insertNew r.lines (a / 192) } (a / 16 * 16)
  match x.2 with
  | .bytes bs => (x.1, bitOf (bs.getD (a % 16) 0).toNat (b % 8))
  | .fail row level ro => (x.1.fault lane a row level ro, false)
  | .missing => (x.1, false)
/-- Whether every tile of some texels is marked. -/
def tilesMarked (h : Here) (t : Texture) (lane l : Nat) (r : TexRun) (xs : List (Nat × Nat × Frac)) : TexRun × Bool :=
  (xs.foldl (fun ts x => insertNew ts (t.firstTile l + t.tileIn l x.1 x.2.1)) []).foldl
    (fun r b => let x := tileMarked h t lane r.1 b; (x.1, r.2 && x.2)) (r, true)

/-- What the texels of a level come to: the colours with their weights, the greatest status, whether a page was absent. -/
structure Texels where
  run    : TexRun
  values : List (Frac × List Exact) := []
  status : Nat := 0
  absent : Bool := false
/-- The four channels of a texel's bytes (R278). -/
def Texture.colour (t : Texture) (bs : List Byte) : List Exact :=
  (List.range 4).map fun c => if t.half then Fmt.f16.value (numAt bs (2 * c) 2) else .fin false (numAt bs c 1) 255
/-- One texel read. -/
def readTexel (h : Here) (t : Texture) (l : Nat) (r : Texels) (x : Nat × Nat × Frac) : Texels :=
  let a := t.texelAt l x.1 x.2.1
  let y := texRead h r.run (a / 16 * 16)
  let zeros : List Exact := List.replicate 4 (.fin false 0 1)
  match y.2 with
  | .bytes bs => { r with run := y.1, values := r.values ++ [(x.2.2, t.colour (bs.drop (a % 16)))] }
  | .fail row _ _ =>
    if row = 5 then { r with run := y.1, absent := true }
    else { r with run := y.1, values := r.values ++ [(x.2.2, zeros)], status := max r.status (rowStatus row) }
  | .missing => { r with run := y.1 }
/-- The filtered value of a channel: the exact mean of the probes, rounded once to FP32 (R282). -/
def filtered (n : Nat) (vs : List (Frac × List Exact)) (c : Nat) : Word :=
  let terms := (vs.filter fun v => !v.1.isZero).map fun v => (v.2.getD c (.fin false 0 1)).mul (.fin false v.1.num.natAbs (v.1.den * n))
  BitVec.ofNat 32 (roundTo .f32 .rn false (exactSum terms))

/-- The result of one strand: its five words, and the level to log. -/
structure Sampled where
  words : List Word
  level : Nat                    -- level used; LEVELS for none
  deriving DecidableEq, Repr
/-- The status word (R238, R282). -/
def sampleStatus (st fallen used : Nat) : Word := BitVec.ofNat 32 (st + 2 ^ 8 * fallen + 2 ^ 16 * used)
/-- The levels from `l` on, `n` of them, tried in turn (R239). -/
def sampleFrom (h : Here) (t : Texture) (p : Sampler) (f : Footprint) (lane : Nat) : Nat → Nat → TexRun → TexRun × Sampled
  | 0, l, r =>
    let fall := t.fallback.map fun x => BitVec.ofNat 32 (convert .f16 .f32 .rn false x)
    (r, { words := fall ++ [sampleStatus 6 (l - f.level) 0xFF], level := l })
  | n + 1, l, r =>
    let xs := levelTexels t p f l
    let m := tilesMarked h t lane l r xs
    if !m.2 then sampleFrom h t p f lane n (l + 1) m.1
    else
      let v := xs.foldl (readTexel h t l) { run := m.1 : Texels }
      if v.absent then sampleFrom h t p f lane n (l + 1) v.run
      else
        let st := max v.status (if l = f.level then 0 else 5)
        (v.run, { words := (List.range 4).map (filtered f.n v.values) ++ [sampleStatus st (l - f.level) l], level := l })

/-- The tile that a strand logs: that of the footprint's centre at the wanted level (R282). -/
def wantedTile (t : Texture) (p : Sampler) (f : Footprint) : Nat :=
  t.tileIn f.level (p.wrap (t.width f.level) (f.u.mul (.ofInt (t.width f.level))).floor)
    (p.wrap (t.height f.level) (f.v.mul (.ofInt (t.height f.level))).floor)

/-! ## The sample instructions -/

/-- The 48 bytes of the descriptor, read as three units (R277). -/
def readDescriptor (h : Here) (lane a : Nat) (r : TexRun) : TexRun × List Byte :=
  [0, 16, 32].foldl (fun x k =>
    let y := texRead h x.1 ((a + k) % 2 ^ 64)
    match y.2 with
    | .bytes bs => (y.1, x.2 ++ bs)
    | .fail row level ro => (y.1.fault lane (a + k) row level ro, x.2)
    | .missing => (y.1, x.2)) (r, [])
/-- The reads that fault the fibre stop it; missing answers are waited for. -/
def TexRun.settled (r : TexRun) (dests : Dests) : Except Stop PUnit :=
  if r.missing then .error (.ask r.s) else orFail r.s false dests r.bad
/-- A sample of `n` operand registers (R238, R239). -/
def sampleForm (n : Nat) (print : Texture → Sampler → List Word → Footprint) (o : GfxDAS) (s : State) : Outcome :=
  performLate s fun h => do
    let a := o.s.toNat
    orIllegal (a % 2 == 0 && decide (a ≤ 60) && h.sregOk (a + 2) && decide (o.a.toNat + n ≤ 120) && decide (o.d.toNat ≤ 115))
    notInScout h
    let desc := h.spair a
    orTrap (desc.toNat % 48 == 0) 3 desc
    match readSampler (h.sreg (a + 2)).toNat with
    | none => .error (.trap 4 0)
    | some p =>
      let as ← h.source o.a n
      let ds ← h.block o.d 5
      let dests : Dests := { regs := ds.map fun d => (d, h.i.lanes) }
      let d := readDescriptor h (lowest h.i.lanes) desc.toNat { s := s }
      d.1.settled dests
      match readTexture d.2 with
      | none => .error (.trap 4 0)
      | some t =>
        let r := (lanesIn h.i.lanes).foldl (fun r i =>
          let f := print t p (as.map fun x => h.reg x i)
          let y := sampleFrom h t p f i (t.levels - f.level) f.level r.1
          (y.1, r.2 ++ [(i, f, y.2)])) (d.1, ([] : List (Nat × Footprint × Sampled)))
        r.1.settled dests
        let word (k i : Nat) : Word := ((((r.2.find? fun x => x.1 = i).map (·.2.2.words)).getD []).getD k 0)
        let wants := r.2.filterMap fun x =>
          if x.2.2.level = x.2.1.level then none
          else some (Note.harvest h.g.tag h.txu desc x.2.1.level (wantedTile t p x.2.1))
        let s1 := advance h (owe h r.1.s .sample (ds.zipIdx.map fun d => owedWrite h d.1 h.i.lanes (word d.2)) r.1.lines)
        .ok (drainNotes { s1 with notes := s1.notes ++ wants })

/-- R239 -/
def execSampleD (o : GfxDAS) (s : State) : Outcome :=
  sampleForm 6 (fun t p ws => footprint t p (ws.getD 0 0) (ws.getD 1 0) (plainDiffs ws)) o s
/-- R239 -/
def execSampleC (o : GfxDAS) (s : State) : Outcome :=
  sampleForm 6 (fun t p ws => footprint t p (ws.getD 0 0) (ws.getD 1 0) (coneDiffs ws)) o s
/-- R239 -/
def execSampleL (o : GfxDAS) (s : State) : Outcome :=
  sampleForm 3 (fun t p ws => levelFootprint t p (ws.getD 0 0) (ws.getD 1 0) (ws.getD 2 0)) o s
/-- R239: the results of a sample are written. -/
def execSampleResult (w r : Nat) (s : State) : Outcome := event (unitResult .sample w r s)

/-! ## Withdrawal of map copies (R240) -/

/-- Whether a line overlaps a range. -/
def lineOverlaps (lo hi line : Nat) : Bool := decide (192 * line < hi) && decide (lo < 192 * line + 192)
/-- Every TXU's copies of the map lines of a range dropped (R279). -/
def dropMaps (s : State) (lo hi : Nat) : State := { s with maps := s.maps.filter fun m => !(lineOverlaps lo hi (m.unit / 192)) }
/-- Samples that still wait for answers, and have asked a peer for a map line of a range, ask again: that read of theirs comes after the
`rmapinv` (R240). -/
def rereadMaps (s : State) (lo hi : Nat) : State :=
  let old (key : Nat) : Bool := decide (texKey 0 ≤ key) && lineOverlaps lo hi ((key - texKey 0) / 192)
  let out := s.requests.filterMap fun r => match r.2.who with | .fibre w k key => if old key then some (r.1, w, k) else none | _ => none
  let s1 : State := { s with
    requests := s.requests.map fun r => (r.1, if out.any fun x => x.1 == r.1 then { r.2 with who := .none } else r.2)
    waves := s.waves.map fun p => (p.1, { p.2 with fibres := p.2.fibres.map fun (f : Fibre) => { f with answers := f.answers.filter fun a => !(old a.key) } }) }
  out.foldl (fun s x => if (fibreAt s x.2.1 x.2.2).wait.any fun y => y.kind == .answers then wakeRetry s x.2.1 x.2.2 else s) s1
/-- The samples that have read map lines of a range and have not completed. -/
def samplesOf (s : State) (lo hi : Nat) : List Nat :=
  s.waves.flatMap fun w => keysWhere w.2.pending fun p => p.kind == .sample && p.maps.any (lineOverlaps lo hi)
/-- Whether an address begins a page: of 4 KiB in the host window, else of 48 KiB of its device's space (R5, R345, R364). -/
def beginsPage (a : Nat) : Bool := bitOf a 56 || a % 2 ^ 56 % 49152 == 0
/-- The places at which a range is checked: its first byte, and the first byte of every further page (R186). -/
def rangeProbes (lo hi : Nat) : List Nat :=
  if hi ≤ lo then []
  else lo :: ((List.range (hi / 4096 + 1 - lo / 4096)).map fun k => 4096 * (lo / 4096 + 1 + k)).filter fun a => decide (a < hi) && beginsPage (a % 2 ^ 64)
/-- A peer is asked for the page of a range: the read of a unit tells whether it is there; poison is not the range's. -/
def carryPage : Carry := fun _ us ans =>
  match us with
  | [] => .got []
  | u :: _ =>
    match ans u.look with
    | some x => if x.status = 0 || x.status = 15 then .got [] else .lost x.status x.attr
    | none => .ask u.look { opc := 1, size := 16, addr := u.addr / 16 * 16 }
/-- The key of the answer that says that an `rmapinv` is satisfied. -/
def rmapinvKey : Nat := 2 ^ 76
/-- R240: the copies are dropped, and the instruction stalls until the samples that read before have completed; issued again it
drops the copies taken since, empties the filters (R284) and writes OK (R29). -/
def execRmapinv (o : GfxDS) (s : State) : Outcome :=
  performLate s fun h => do
    let a := o.s.toNat
    orIllegal (h.sregOk o.d.toNat && a % 2 == 0 && decide (a ≤ 61) && h.sregOk (a + 2))
    notInScout h
    let lo := (h.spair a).toNat
    let hi := lo + (h.sreg (a + 2)).toNat
    let us : List Access := (rangeProbes lo hi).zipIdx.map fun x => ⟨0, x.2, x.1 % 2 ^ 64⟩
    let r ← examine h s { loadKind with reads := false } false carryPage us
    orFail r.1 false { s := [o.d.toNat] } r.2
    let s1 := rereadMaps (dropMaps r.1 lo hi) lo hi
    if hi ≤ lo || h.f.answers.any fun x => x.key == rmapinvKey then
      .ok (advance h (writeS h { s1 with filters := [] } o.d.toNat 0))
    else .error (.reissue s1 (.rmapinv lo hi o.d.toNat (samplesOf s1 lo hi)))

/-- Whether an `rmapinv` can return: none of the samples that read before it is outstanding. -/
def rmapinvDue (s : State) (w k : Nat) : Bool :=
  (liveWait s w k).any fun x => match x.kind with
    | .rmapinv _ _ _ ids => s.waves.all fun y => ids.all fun i => (get? y.2.pending i).isNone
    | _ => false
/-- R240: the stall of an `rmapinv` has cleared; it issues again. -/
def execRmapinvComplete (w f : Nat) (s : State) : Outcome :=
  event (if rmapinvDue s w f then
    wakeRetry (modFibre s w f fun y => { y with answers := y.answers ++ [{ key := rmapinvKey, status := 0 }] }) w f
  else s)
/-- R279: a TXU drops a copy 2 ^ 20 clk after it was taken. -/
def mapDue (s : State) (m : MapCopy) : Bool := decide (m.taken + 2 ^ 20 ≤ s.clk)
def execMapCopyExpiry (core unit : Nat) (s : State) : Outcome :=
  event { s with maps := s.maps.filter fun m => !(m.txu == core && m.unit == unit && mapDue s m) }

end Sys2Proof.Machine
end

