-- ==== Sys2Proof/Machine/Expand.lean ====
section
/-! DEFINITION. A dictionary parcel: the entry's word is performed as if it stood in the stream (R127). -/

namespace Sys2Proof.Machine

/-- The meaning of an instruction word taken from a dictionary; no entry is a prefix or another dictionary parcel (R127). -/
def execEntry (i : Instr) (s : State) : Outcome :=
  match i with
  | .addB32 o => execAddB32 o s
  | .subB32 o => execSubB32 o s
  | .mulB32 o => execMulB32 o s
  | .madB32 o => execMadB32 o s
  | .mulhiS32 o => execMulhiS32 o s
  | .mulhiN32 o => execMulhiN32 o s
  | .andB32 o => execAndB32 o s
  | .orB32 o => execOrB32 o s
  | .xorB32 o => execXorB32 o s
  | .andnB32 o => execAndnB32 o s
  | .shlB32 o => execShlB32 o s
  | .shrN32 o => execShrN32 o s
  | .shrS32 o => execShrS32 o s
  | .rotlB32 o => execRotlB32 o s
  | .minS32 o => execMinS32 o s
  | .maxS32 o => execMaxS32 o s
  | .minN32 o => execMinN32 o s
  | .maxN32 o => execMaxN32 o s
  | .addsS32 o => execAddsS32 o s
  | .subsS32 o => execSubsS32 o s
  | .addsN32 o => execAddsN32 o s
  | .subsN32 o => execSubsN32 o s
  | .bfxN32 o => execBfxN32 o s
  | .bfxS32 o => execBfxS32 o s
  | .bfiB32 o => execBfiB32 o s
  | .absdN32 o => execAbsdN32 o s
  | .addN64 o => execAddN64 o s
  | .subN64 o => execSubN64 o s
  | .mulN64 o => execMulN64 o s
  | .mulwN32 o => execMulwN32 o s
  | .mulwS32 o => execMulwS32 o s
  | .addaS64 o => execAddaS64 o s
  | .shlN64 o => execShlN64 o s
  | .shrN64 o => execShrN64 o s
  | .shrS64 o => execShrS64 o s
  | .rotlN64 o => execRotlN64 o s
  | .cmpS32 o => execCmpS32 o s
  | .cmpN32 o => execCmpN32 o s
  | .cmpS64 o => execCmpS64 o s
  | .cmpN64 o => execCmpN64 o s
  | .addB32Imm o => execAddB32Imm o s
  | .shlB32Imm o => execShlB32Imm o s
  | .shrN32Imm o => execShrN32Imm o s
  | .shrS32Imm o => execShrS32Imm o s
  | .addN64Imm o => execAddN64Imm o s
  | .movB32Imm o => execMovB32Imm o s
  | .movB32ImmS o => execMovB32ImmS o s
  | .movB32 o => execMovB32 o s
  | .notB32 o => execNotB32 o s
  | .negS32 o => execNegS32 o s
  | .absS32 o => execAbsS32 o s
  | .popcB32 o => execPopcB32 o s
  | .clzB32 o => execClzB32 o s
  | .ctzB32 o => execCtzB32 o s
  | .brevB32 o => execBrevB32 o s
  | .sxbS32 o => execSxbS32 o s
  | .sxhS32 o => execSxhS32 o s
  | .div3N32 o => execDiv3N32 o s
  | .mod3N32 o => execMod3N32 o s
  | .movN64 o => execMovN64 o s
  | .negS64 o => execNegS64 o s
  | .div3N64 o => execDiv3N64 o s
  | .mod3N64 o => execMod3N64 o s
  | .mset o => execMset o s
  | .mget o => execMget o s
  | .mand o => execMand o s
  | .mor o => execMor o s
  | .mxor o => execMxor o s
  | .mandn o => execMandn o s
  | .br o => execBr o s
  | .call o => execCall o s
  | .jmp o => execJmp o s
  | .ret o => execRet o s
  | .calli o => execCalli o s
  | .exit p => execExit p s
  | .yield p => execYield p s
  | .wbase o => execWbase o s
  | .wbadd o => execWbadd o s
  | .nop p => execNop p s
  | .faddF32 o => execFaddF32 o s
  | .fmulF32 o => execFmulF32 o s
  | .ffmaF32 o => execFfmaF32 o s
  | .fsubF32 o => execFsubF32 o s
  | .fminF32 o => execFminF32 o s
  | .fmaxF32 o => execFmaxF32 o s
  | .faddF16 o => execFaddF16 o s
  | .fmulF16 o => execFmulF16 o s
  | .ffmaF16 o => execFfmaF16 o s
  | .fsubF16 o => execFsubF16 o s
  | .fminF16 o => execFminF16 o s
  | .fmaxF16 o => execFmaxF16 o s
  | .faddBf16 o => execFaddBf16 o s
  | .fmulBf16 o => execFmulBf16 o s
  | .ffmaBf16 o => execFfmaBf16 o s
  | .fsubBf16 o => execFsubBf16 o s
  | .fminBf16 o => execFminBf16 o s
  | .fmaxBf16 o => execFmaxBf16 o s
  | .fcmpF32 o => execFcmpF32 o s
  | .fcmpF16 o => execFcmpF16 o s
  | .faddF32Rm o => execFaddF32Rm o s
  | .fsubF32Rm o => execFsubF32Rm o s
  | .fmulF32Rm o => execFmulF32Rm o s
  | .fdivF32 o => execFdivF32 o s
  | .fsqrtF32 o => execFsqrtF32 o s
  | .frndF32 o => execFrndF32 o s
  | .frcp o => execFrcp o s
  | .frsq o => execFrsq o s
  | .fex2 o => execFex2 o s
  | .flg2 o => execFlg2 o s
  | .fsin o => execFsin o s
  | .fcos o => execFcos o s
  | .fabsF32 o => execFabsF32 o s
  | .fnegF32 o => execFnegF32 o s
  | .fsgnF32 o => execFsgnF32 o s
  | .faddF16Rm o => execFaddF16Rm o s
  | .fsubF16Rm o => execFsubF16Rm o s
  | .fmulF16Rm o => execFmulF16Rm o s
  | .fdivF16 o => execFdivF16 o s
  | .fsqrtF16 o => execFsqrtF16 o s
  | .frndF16 o => execFrndF16 o s
  | .fabsF16 o => execFabsF16 o s
  | .fnegF16 o => execFnegF16 o s
  | .fsgnF16 o => execFsgnF16 o s
  | .faddBf16Rm o => execFaddBf16Rm o s
  | .fsubBf16Rm o => execFsubBf16Rm o s
  | .fmulBf16Rm o => execFmulBf16Rm o s
  | .fdivBf16 o => execFdivBf16 o s
  | .fsqrtBf16 o => execFsqrtBf16 o s
  | .frndBf16 o => execFrndBf16 o s
  | .fabsBf16 o => execFabsBf16 o s
  | .fnegBf16 o => execFnegBf16 o s
  | .fsgnBf16 o => execFsgnBf16 o s
  | .cvtF16F32 o => execCvtF16F32 o s
  | .cvtBf16F32 o => execCvtBf16F32 o s
  | .cvtE4m3F32 o => execCvtE4m3F32 o s
  | .cvtE5m2F32 o => execCvtE5m2F32 o s
  | .cvtF32F16 o => execCvtF32F16 o s
  | .cvtF32Bf16 o => execCvtF32Bf16 o s
  | .cvtF32E4m3 o => execCvtF32E4m3 o s
  | .cvtF32E5m2 o => execCvtF32E5m2 o s
  | .cvtS32F32 o => execCvtS32F32 o s
  | .cvtN32F32 o => execCvtN32F32 o s
  | .cvtF32S32 o => execCvtF32S32 o s
  | .cvtF32N32 o => execCvtF32N32 o s
  | .cvtS64F32 o => execCvtS64F32 o s
  | .cvtF32S64 o => execCvtF32S64 o s
  | .cvtS8S32 o => execCvtS8S32 o s
  | .cvtS16S32 o => execCvtS16S32 o s
  | .qntQn4 o => execQntQn4 o s
  | .dqnQn4 o => execDqnQn4 o s
  | .shflB32 o => execShflB32 o s
  | .shflxB32 o => execShflxB32 o s
  | .voteAny o => execVoteAny o s
  | .voteAll o => execVoteAll o s
  | .ballot o => execBallot o s
  | .scanAddS32 o => execScanAddS32 o s
  | .scanxAddS32 o => execScanxAddS32 o s
  | .wredAddS32 o => execWredAddS32 o s
  | .wredMinS32 o => execWredMinS32 o s
  | .wredMaxS32 o => execWredMaxS32 o s
  | .wredMinN32 o => execWredMinN32 o s
  | .wredMaxN32 o => execWredMaxN32 o s
  | .wredAndB32 o => execWredAndB32 o s
  | .wredOrB32 o => execWredOrB32 o s
  | .wredXorB32 o => execWredXorB32 o s
  | .firstB32 o => execFirstB32 o s
  | .ldg o => execLdg o s
  | .stg o => execStg o s
  | .ldl o => execLdl o s
  | .stl o => execStl o s
  | .ldgTry o => execLdgTry o s
  | .stgTry o => execStgTry o s
  | .atom o => execAtom o s
  | .atom2 o => execAtom2 o s
  | .redF32 o => execRedF32 o s
  | .redF16 o => execRedF16 o s
  | .redBf16 o => execRedBf16 o s
  | .redS32 o => execRedS32 o s
  | .redS64 o => execRedS64 o s
  | .red2F16 o => execRed2F16 o s
  | .red2Bf16 o => execRed2Bf16 o s
  | .rfinF32 o => execRfinF32 o s
  | .rfinF16 o => execRfinF16 o s
  | .rfinBf16 o => execRfinBf16 o s
  | .rfinS32 o => execRfinS32 o s
  | .rfinS64 o => execRfinS64 o s
  | .tcopyGl o => execTcopyGl o s
  | .tcopyLg o => execTcopyLg o s
  | .tcopyLl o => execTcopyLl o s
  | .collRed o => execCollRed o s
  | .collBcast o => execCollBcast o s
  | .collAgat o => execCollAgat o s
  | .bwait o => execBwait o s
  | .waitc o => execWaitc o s
  | .monw o => execMonw o s
  | .qsend o => execQsend o s
  | .qrecv o => execQrecv o s
  | .fence o => execFence o s
  | .fbar o => execFbar o s
  | .bexp o => execBexp o s
  | .barr o => execBarr o s
  | .procEnter o => execProcEnter o s
  | .procLeave o => execProcLeave o s
  | .gbar o => execGbar o s
  | .mmaS8 o => execMmaS8 o s
  | .mmaE4m3 o => execMmaE4m3 o s
  | .mmaE5m2 o => execMmaE5m2 o s
  | .mmaQn4 o => execMmaQn4 o s
  | .mmaF16 o => execMmaF16 o s
  | .mmaBf16 o => execMmaBf16 o s
  | .msacc o => execMsacc o s
  | .mdrain o => execMdrain o s
  | .mdrainAdd o => execMdrainAdd o s
  | .mclear o => execMclear o s
  | .cover o => execCover o s
  | .flins o => execFlins o s
  | .flrep o => execFlrep o s
  | .flget o => execFlget o s
  | .flclr o => execFlclr o s
  | .trace o => execTrace o s
  | .boxu o => execBoxu o s
  | .sah o => execSah o s
  | .npack o => execNpack o s
  | .sampleD o => execSampleD o s
  | .sampleC o => execSampleC o s
  | .sampleL o => execSampleL o s
  | .rmapinv o => execRmapinv o s
  | .trap n => execTrap n s
  | .tret => execTret s
  | .srd o => execSrd o s
  | .swr o => execSwr o s
  | .halt => execHalt s
  | .brk n => execBrk n s
  | .prog n => execProg n s
  | .ckmark n => execCkmark n s
  | _ => execIllegalInstruction 0 s

/-- R127: an index beyond the dictionary, or an entry that no row assigns, traps. -/
def execDictionaryParcel (k : BitVec 10) (s : State) : Outcome :=
  match (hereOf s).bind fun h => (h.dictionary[k.toNat]?).bind fun w => decodeWord w h.i.lit with
  | some i => execEntry i s
  | none => execIllegalInstruction 0 s

end Sys2Proof.Machine
end

