-- ==== Sys2Proof/Machine/Bus.lean ====
section
/-! DEFINITION. The management bus (R383): SMBus block writes with packet error checking that carry MCTP packets, and the messages
that packets make up. The layouts are those of DMTF DSP0236 and DSP0237, which R383 names (PRESUMED, log 42). -/

namespace Sys2Proof.Machine

/-- The MGC's SMBus address. -/
def busAddr : Nat := 0x64 + Config.madr.toNat
/-- One bit, then one byte, of the packet error check: CRC-8 over x^8 + x^2 + x + 1, most significant bit first. -/
def pecBit (c : Nat) : Nat := if 128 ≤ c then (2 * c) % 256 ^^^ 7 else 2 * c
def pecByte (c : Nat) (b : Byte) : Nat := pecBit (pecBit (pecBit (pecBit (pecBit (pecBit (pecBit (pecBit (c ^^^ b.toNat))))))))
def pec (bs : List Byte) : Byte := BitVec.ofNat 8 (bs.foldl pecByte 0)

/-! ## Packets -/

/-- One packet of an answer, with its place in the message. -/
def busPacket (s : State) (dst : BusFrom) (seq : Nat) (first last : Bool) (payload : List Byte) : List Byte :=
  let flags := 128 * bit first + 64 * bit last + 16 * (seq % 4) + dst.tag % 8
  let p := [BitVec.ofNat 8 (2 * dst.addr), 0x0F, BitVec.ofNat 8 (payload.length + 5), BitVec.ofNat 8 (2 * busAddr + 1), 1, dst.eid, s.mgc.eid,
    BitVec.ofNat 8 flags] ++ payload
  p ++ [pec p]
/-- Whether a block write is a packet for the MGC: its address, command, byte count, check, header version and endpoint. -/
def packetOk (s : State) (p : List Byte) : Bool :=
  let at_ (i : Nat) : Nat := numAt p i 1
  decide (10 ≤ p.length) && decide (p.length ≤ 73) && at_ 0 == 2 * busAddr && at_ 1 == 0x0F && at_ 2 + 4 == p.length && at_ 3 % 2 == 1
    && at_ 4 % 16 == 1 && (at_ 5 == 0 || at_ 5 == s.mgc.eid.toNat) && pec (p.take (p.length - 1)) == p.getD (p.length - 1) 0
/-- Who sent a packet, under which tag. -/
def packetFrom (p : List Byte) : BusFrom := { addr := numAt p 3 1 / 2, eid := p.getD 6 0, tag := numAt p 7 1 % 16 }
/-- A packet taken: the message that it completes, if it does. Packets of a message come in sequence, each but the last with 64
bytes; one that does not follow ends its message, of which nothing is kept. -/
def takePacket (s : State) (p : List Byte) : State × Option (BusFrom × List Byte) :=
  let f := packetFrom p
  let flags := numAt p 7 1
  let payload := (p.take (p.length - 1)).drop 8
  let mine (x : BusPart) : Bool := x.eid == f.eid && x.tag == f.tag
  let keep (xs : List BusPart) : State := { s with mgc := { s.mgc with parts := (s.mgc.parts.filter fun x => !(mine x)) ++ xs } }
  let seq := bitsOf flags 5 4
  let before := if bitOf flags 7 then some [] else (s.mgc.parts.find? fun x => mine x && x.next == seq).map (·.body)
  match before with
  | none => (keep [], none)
  | some b =>
    if bitOf flags 6 then (keep [], some (f, b ++ payload))
    else (keep (if payload.length = 64 then [{ eid := f.eid, tag := f.tag, next := (seq + 1) % 4, body := b ++ payload }] else []), none)

/-! ## Messages -/

/-- A message leaves, split into packets of 64 bytes; one of a checked type ends with its integrity check. -/
def sendMessage (s : State) (dst : BusFrom) (kind : Byte) (body : List Byte) : State :=
  let m := kind :: body
  let all := if kind.getLsbD 7 then m ++ toBytes 4 (crc32c m) else m
  let n := ceilDiv all.length 64
  (List.range n).foldl (fun s k => s.send (.smbus (busPacket s dst k (k == 0) (k + 1 == n) ((all.drop (64 * k)).take 64)))) s
/-- The body of a message of a type: a request, whole and with its check right where the type has one. -/
def messageBody (kind : Byte) (f : BusFrom) (m : List Byte) : Option (List Byte) :=
  if f.tag < 8 || m.head? != some kind then none
  else if !(kind.getLsbD 7) then some (m.drop 1)
  else
    let n := m.length - 4
    if 5 ≤ m.length && crc32c (m.take n) == numAt m n 4 then some ((m.take n).drop 1) else none
/-- Whether the MGC serves the management bus: it is powered and out of reset (R388). -/
def busUp (s : State) : Bool := s.power && s.mrstN
/-- A packet arrives that belongs to a message of a type; with its last packet the message is acted on. One that belongs to
another kind of message is no such event. -/
def onBus (s : State) (kind : Byte) (p : List Byte) (act : State → BusFrom → List Byte → Option State) : State :=
  if !(busUp s) || !(packetOk s p) then s
  else
    let r := takePacket s p
    match r.2 with
    | none => r.1
    | some (f, m) => ((messageBody kind f m).bind (act r.1 f)).getD s

/-! ## Control messages -/

/-- A control message of a code: it is answered with its instance and code, a completion code and data. -/
def onControl (s : State) (code : Byte) (p : List Byte) (act : State → List Byte → State × List Byte) : State :=
  onBus s 0 p fun s f m =>
    if 2 ≤ m.length && bitOf (numAt m 0 1) 7 && m.getD 1 0 == code then
      let r := act s (m.drop 2)
      some (sendMessage r.1 f 0 ([BitVec.ofNat 8 (numAt m 0 1 % 32), code] ++ r.2))
    else none
/-- Completion codes: done, invalid data, invalid length. -/
def ccOk : Byte := 0
def ccData : Byte := 2
def ccLength : Byte := 3
/-- The Vendor ID that leads a vendor-defined message, most significant byte first. -/
def vendorPrefix : List Byte := (toBytes 2 Config.vendorId.toNat).reverse

end Sys2Proof.Machine
end

