-- ==== Sys2Proof/Machine/Ecdsa.lean ====
section
/-! DEFINITION. ECDSA verification over brainpoolP384r1 with SHA-384, as the standards that R389 names define it. -/

namespace Sys2Proof.Machine

/-- The curve: the field's prime, the coefficient a, the base point and its order. -/
def curveP : Nat := 0x8CB91E82A3386D280F5D6F7E50E641DF152F7109ED5456B412B1DA197FB71123ACD3A729901D1A71874700133107EC53
def curveA : Nat := 0x7BC382C63D8C150C3C72080ACE05AFA0C2BEA28E4FB22787139165EFBA91F90F8AA5814A503AD4EB04A8C7DD22CE2826
def curveX : Nat := 0x1D1C64F068CF45FFA2A63A81B7C13F6B8847A3E77EF14FE3DB7FCAFE0CBD10E8E826E03436D646AAEF87B2E247D4AF1E
def curveY : Nat := 0x8ABE1D7520F9C2A45CB1EB8E95CFD55262B70B29FEEC5864E19C054FF99129280E4646217791811142820341263C5315
def curveQ : Nat := 0x8CB91E82A3386D280F5D6F7E50E641DF152F7109ED5456B31F166E6CAC0425A7CF3AB6AF6B7FC3103B883202E9046565

/-- `b` to the power of the low `fuel` bits of `e`, modulo `m`. -/
def powMod (fuel b e m : Nat) : Nat :=
  match fuel with
  | 0 => 1 % m
  | f + 1 =>
    let h := powMod f (b * b % m) (e / 2) m
    if e % 2 = 1 then b * h % m else h
/-- The inverse modulo a prime of 384 bits. -/
def invMod (x m : Nat) : Nat := powMod 384 (x % m) (m - 2) m

/-- A point of the curve: none is the point at infinity. -/
abbrev CurvePoint := Option (Nat × Nat)
/-- The sum of two points. -/
def CurvePoint.plus : CurvePoint → CurvePoint → CurvePoint
  | none, b => b
  | a, none => a
  | some (x1, y1), some (x2, y2) =>
    let p := curveP
    let chord (l : Nat) : CurvePoint :=
      let x3 := (l * l + 2 * p - x1 - x2) % p
      some (x3, (l * (x1 + p - x3) + p - y1) % p)
    if x1 = x2 then
      if (y1 + y2) % p = 0 then none
      else chord ((3 * x1 * x1 + curveA) * invMod (2 * y1) p % p)
    else chord ((y2 + p - y1) * invMod (x2 + p - x1) p % p)
/-- A multiple of a point, of the low `fuel` bits of `k`. -/
def CurvePoint.times (fuel k : Nat) (a : CurvePoint) : CurvePoint :=
  match fuel with
  | 0 => none
  | f + 1 =>
    let h := CurvePoint.times f (k / 2) (a.plus a)
    if k % 2 = 1 then a.plus h else h

/-- A big-endian number. -/
def bigEndian (bs : List Byte) : Nat := bs.foldl (fun n b => 256 * n + b.toNat) 0
/-- Whether a signature r ∥ s, each of 48 bytes, is that of a message under a key. -/
def ecdsaOk (key : Nat × Nat) (message signature : List Byte) : Bool :=
  let r := bigEndian (signature.take 48)
  let s := bigEndian ((signature.drop 48).take 48)
  let w := invMod s curveQ
  let e := bigEndian (sha384 message)
  let u := (CurvePoint.times 384 (e * w % curveQ) (some (curveX, curveY))).plus (CurvePoint.times 384 (r * w % curveQ) (some key))
  decide (1 ≤ r ∧ r < curveQ ∧ 1 ≤ s ∧ s < curveQ) && (match u with | some (x, _) => x % curveQ == r | none => false)

end Sys2Proof.Machine
end

