-- ==== Sys2Proof/Machine/Firmware.lean ====
section
/-! DEFINITION. Firmware images and the flash slots that hold them (R389, R390). -/

namespace Sys2Proof.Machine

/-- A slot's bytes, true for slot B. -/
def Mgc.slot (m : Mgc) (b : Bool) : List Byte := if b then m.slotB else m.slotA
/-- A slot's bytes replaced. -/
def Mgc.setSlot (m : Mgc) (b : Bool) (bs : List Byte) : Mgc := if b then { m with slotB := bs } else { m with slotA := bs }
/-- The slot of the running image; with none running, the selected one. -/
def Mgc.active (m : Mgc) : Bool := m.running.getD m.selected
/-- Bytes of an image: header, body and signature (R389). -/
def imageLen (bs : List Byte) : Nat := 0x10 + numAt bs 0x0C 4 + 96
/-- SVN of an image. -/
def imageSvn (bs : List Byte) : Nat := numAt bs 8 1
/-- Whether an image is laid out as R389 says and signed by the Birluam key. -/
def imageSigned (bs : List Byte) : Bool :=
  let n := numAt bs 0x0C 4
  numAt bs 0 4 == 0x574D4742 && numAt bs 9 3 == 0 && decide (imageSvn bs ≤ 64) && decide (n ≤ 2 ^ 22)
    && decide (imageLen bs ≤ bs.length) && ecdsaOk Config.birluamKey (bs.take (0x10 + n)) ((bs.drop (0x10 + n)).take 96)
/-- Whether the boot ROM takes a slot's image (R389, R390). -/
def Mgc.boots (m : Mgc) (b : Bool) : Bool := imageSigned (m.slot b) && decide (m.fuses ≤ imageSvn (m.slot b))
/-- VERSION of a slot's image, 0 when the slot is invalid (R391). -/
def Mgc.version (m : Mgc) (b : Bool) : Nat := if imageSigned (m.slot b) then numAt (m.slot b) 4 4 else 0

end Sys2Proof.Machine
end

