-- ==== Sys2Proof/Machine/Translation.lean ====
section
/-! DEFINITION. The commands of `TR_CMD`: invalidation of a range (R347) and the end of a page's migration (R348). -/

namespace Sys2Proof.Machine

/-- A command of `TR_CMD` ends with a RESULT (R339). -/
def trDone (s : State) (r : Nat) : State := { s with trResult := BitVec.ofNat 8 r }

/-! ## Invalidation (R347) -/

/-- Whether a sector holds a byte of a range of this device's space. -/
def meets (s : State) (o n k : Nat) : Bool := decide (secStart s k < o + n ∧ o < secStart s k + 48)
/-- Dirty sectors that hold a byte of a range of this device's space. -/
def dirtyIn (s : State) (o n : Nat) : List Nat := (s.l2.filter fun p => meets s o n p.1).map (·.1)
/-- Dirty sectors of a range written back, or dropped, or left; then no kept entry translates any of it, and no clean copy of
it is kept (R347). -/
def invalidate (s : State) (o n : Nat) (wb discard : Bool) : State :=
  let s1 := if wb then (dirtyIn s o n).foldl (fun s k => (writeBack s k).1) s
    else if discard then { s with l2 := s.l2.filter fun p => !((dirtyIn s o n).contains p.1) }
    else s
  { s1 with
    tlb := s1.tlb.filter fun e => !(decide (e.va < o + n) && decide (o < e.va + e.size))
    l1 := s1.l1.filter fun p => !(meets s1 o n p.1) }
/-- R347: operands that are not multiples of 49,152 give RESULT 1; of a range elsewhere this device keeps nothing. -/
def invalidateNow (s : State) (wb discard : Bool) : State :=
  let n := s.trArg1.toNat
  if s.trArg0.toNat % 49152 != 0 || n % 49152 != 0 then trDone s 1
  else match placeOf s s.trArg0.toNat with
    | .own o => trDone (invalidate s o n wb discard) 0
    | _ => trDone s 0
/-- R347 -/
def execInvalidateRange (wb discard : Bool) (s : State) : Outcome :=
  event (if s.live then invalidateNow { s with trOp := 1, trWb := wb, trDiscard := discard } wb discard else s)

/-! ## Migration (R348) -/

/-- Valid entries of a table of page-table entries, with their places. -/
def entriesAt (s : State) (base n : Nat) : List (Nat × Nat × Nat) :=
  (List.range n).filterMap fun i =>
    match readPte s (base + 8 * i) with
    | some e => if bitOf e 0 then some (i, base + 8 * i, e) else none
    | none => none
/-- Where the table lies to which an entry points. -/
def nextTable (e : Nat) : Nat := frameBase (bitsOf e 47 16) + 512 * bitsOf e 12 6
/-- The leaf of a migration: its place, and the page that it maps. -/
def findMigration (s : State) (j : Nat) : Option (Nat × TlbEntry) :=
  (entriesAt s (frameBase s.ptFrame.toNat) s.ptLen).findSome? fun a =>
    if bitOf a.2.2 1 then none
    else (entriesAt s (nextTable a.2.2) 64).findSome? fun b =>
      if bitOf b.2.2 1 then none
      else (entriesAt s (nextTable b.2.2) 64).findSome? fun c =>
        if bitOf c.2.2 1 && bitOf c.2.2 5 && bitsOf c.2.2 59 48 == j then
          match leafOf s c.2.2 0 (49152 * (4096 * a.1 + 64 * b.1 + c.1)) with
          | .page e => some (c.2.1, e)
          | _ => none
        else none
/-- Every line of a page pulled. -/
def pullAll (s : State) (e : TlbEntry) : State := (List.range 256).foldl (fun s l => pullLine s e l) s
/-- The byte of a page's migration entry at which completing it would meet an error. -/
def pullsBad (s : State) (e : TlbEntry) : Option Nat := (List.range 256).findSome? (migBad s e)
/-- R348: the migration that `TR_ARG0` names is completed; RESULT 1 when no leaf carries it. What an entry that cannot be read does is
not said: the migration stays in progress, with RESULT 1 and a log entry (R393, DESIGN CHOICE, log 62). -/
def completeNow (s : State) : State :=
  let j := s.trArg0.toNat
  if s.migCount ≤ j then trDone s 1
  else match findMigration s j with
    | none => trDone s 1
    | some (pte, e) =>
      match pullsBad s e with
      | some pa => trDone (logPoison (foundAt s (sectorBase pa)) none (ownAddr s e.va)) 1
      | none =>
        let s1 := pullAll s e
        let old := ofBytes (s1.dram.readN pte 8)
        trDone { s1 with
          dram := s1.dram.writeN pte (toBytes 8 (old - 2 ^ 5))
          tlb := s1.tlb.filter fun t => !(decide (t.va < e.va + e.size) && decide (e.va < t.va + t.size)) } 0
/-- R348 -/
def execCompleteMigration (s : State) : Outcome := event (if s.live then completeNow { s with trOp := 2 } else s)

end Sys2Proof.Machine
end

