-- ==== Sys2Proof/Machine/Reset.lean ====
section
/-! DEFINITION. Resets of the function and of the module (R366), the boot ROM (R389), and the power signals (R388). -/

namespace Sys2Proof.Machine

/-- The down notice, on every port (R372). -/
def sendDown (s : State) : State :=
  (List.range 16).foldl (fun s p => if (portOf s p).up then transmit s p (ownFlit s 6 0xFF []) else s) s
/-- The fabric and every port disabled: nothing leaves or arrives any more, and no device is reached; what a port has counted
stays (R366). -/
def closePorts (s : State) : State :=
  { s with
    fabEnable := false, ports := s.ports.map (fun x => { x.cleared with up := false, enable := false }), reach := [], probes := []
    credits := [], requests := [], unsent := [], far := [], barred := [], keptBack := [], inbound := [] }
/-- Every queue disabled (R366). -/
def disableQueues (s : State) : State :=
  (keysWhere s.queues fun q => q.state != 0).foldl (fun s q => setQueue s q { queueOf s q with state := 0, err := 0 }) s
/-- Every installed context ended as END does; accepted launches are discarded (R366). -/
def endAll (s : State) : State :=
  { (keysWhere s.contexts fun _ => true).foldl endContext s with contexts := [], launches := [], gangs := [], waves := [], ops := [] }
/-- Host lines given up: written back while the link is up, else lost, which the MGC logs (R365, R366). -/
def loseHost (s : State) (linkDown : Bool) : State :=
  let s1 := if !linkDown then writeBackHost s fun _ _ => true
    else if s.hostLines.any (·.2.modified) then s.log 5 else s
  { s1 with hostLines := [], atc := [], hostAsks := [], atsWaits := [], linkUp := s.linkUp && !linkDown }
/-- Every dirty line written back, and every cached thing dropped (R366). -/
def dropCaches (s : State) : State :=
  let s1 := (s.l2.map (·.1)).foldl (fun s k => (writeBack s k).1) s
  { s1 with l2 := [], tlb := [], maps := [], l1 := [], lines := [] }
/-- Whether a turn comes from outside the device. -/
def Turn.outside : Turn → Bool
  | .elapse _ => true
  | .event _ => true
  | .bitError _ => true
  | .corrected _ => true
  | _ => false
/-- The registers that a Function Level Reset returns to their reset values (R366), and what they governed. -/
def resetRegisters (s : State) : State :=
  { s with
    qmEnable := false, haltAll := false, qtBase := 0, cxBase := 0, ptFrame := 0, ptLen := 0, migFrame := 0, migCount := 0
    fbBase := 0, fbSize := 0, fbEnable := false, fbWr := 0, fbRd := 0, fbOvf := 0, fbStop := false, held := [], posting := []
    colBase := 0, colCount := 0, phyBase := 0, qmIntStat := 0, qmIntEn := 0, fxIntStat := 0, fxIntEn := 0, vectors := [{}, {}]
    agenda := s.agenda.filter Turn.outside, issue := none, waiting := [], deviceAnswers := [], reading := [], notes := [], tablesDirty := [], monitors := [], filters := []
    collIssues := [], tokens := [], turnQueue := 0, turnUsed := 0, making := none }
/-- A reset of the function (R366): what it ends, disables, tells and writes back. -/
def resetFunction (s : State) (linkDown : Bool) : State :=
  resetRegisters (loseHost (dropCaches (endAll (disableQueues (closePorts (sendDown s))))) linkDown)
/-- R366: a Function Level Reset, a hot reset, or one that the host link going down causes. -/
def execFunctionLevelReset (linkDown : Bool) (s : State) : Outcome := event (if s.live then resetFunction s linkDown else s)

/-! ## Module reset (R366, R389) -/

/-- What a module reset leaves of the management controller: its flash, its fuses, and the log, which outlives it but not a
loss of power (R385). -/
def Mgc.afterReset (m : Mgc) (keepLog : Bool) : Mgc where
  slotA := m.slotA
  slotB := m.slotB
  selected := m.selected
  running := none
  committed := m.committed
  fuses := m.fuses
  log := if keepLog then m.log else []
  logSeq := if keepLog then m.logSeq else 0
/-- The module held in reset: everything at its reset value, memory zero, the device out of action. A module reset does all that
a reset of the function does (R366): DEVID, DOMAIN, `CAL_CTL` and `CAL_RATE` are kept; a loss of power keeps none of them
(DESIGN CHOICE, log 41). -/
def heldState (s : State) (powered : Bool) : State :=
  { State.reset with
    outbox := s.outbox, fresh := s.fresh, nextUid := s.nextUid, agenda := s.agenda.filter Turn.outside, planned := s.planned
    clk := if powered then s.clk else 0, linkUp := s.linkUp, mgc := s.mgc.afterReset powered
    devId := if powered then s.devId else 0, domain := if powered then s.domain else 0
    calSrc := if powered then s.calSrc else 0, calLocked := powered && s.calLocked
    calGood := if powered then s.calGood else none, calRate := if powered then s.calRate else 0
    pwren := s.pwren, pgood := s.pgood, mrstN := s.mrstN, power := s.power, live := false }
/-- The boot ROM takes the selected slot, else the other with a log entry; with neither the die stays in reset (R389). -/
def boot (s : State) : State :=
  let m := s.mgc
  if m.boots m.selected then { s with mgc := { m with running := some m.selected }, live := true }
  else
    let s1 := s.log 8
    if m.boots (!m.selected) then { s1 with mgc := { s1.mgc with running := some (!m.selected) }, live := true } else s1
/-- R388: while MRST_N is low, the die and the MGC are held in reset. -/
def execMrstNDrivenLow (s : State) : Outcome :=
  event (if s.mrstN then
    let s1 := { s with mrstN := false }
    if s.power then heldState (if s.live then resetFunction s1 false else s1) true else s1
  else s)
/-- R366: the rising edge of MRST_N begins a module reset. -/
def execMrstN (s : State) : Outcome :=
  event (if s.mrstN then s
    else
      let s1 := { s with mrstN := true }
      if s.power then boot (heldState s1 true) else s1)

/-! ## Power (R388) -/

/-- Die power removed: PGOOD is low, and nothing stays but flash and fuses. -/
def powerOff (s : State) : State :=
  let s1 := heldState { (if s.live then resetFunction s false else s) with power := false, pgood := false } false
  if s.pgood then s1.send (.pgood false) else s1
/-- R388: the internal rails start, PGOOD rises, and a module reset follows unless MRST_N is low. -/
def execPwrenRise (s : State) : Outcome :=
  event (if s.pwren then s
    else
      let s1 := heldState { s with pwren := true, power := true, pgood := true } false
      let s2 := s1.send (.pgood true)
      if s2.mrstN then boot s2 else s2)
/-- R388 -/
def execPwrenFall (s : State) : Outcome :=
  event (if s.pwren then
    let s1 := { s with pwren := false }
    if s.power then powerOff s1 else s1
  else s)
/-- R388: the down notice is sent, and die power removed. -/
def execRailOutOfTolerance (s : State) : Outcome := event (if s.power then powerOff s else s)

end Sys2Proof.Machine
end

