-- ==== Sys2Proof/Machine/Mgc.lean ====
section
/-! DEFINITION. The management controller: the mailbox (R381, R382), the management bus (R383), samples and the throttle (R384 to
R387), firmware updates (R389, R390), attestation (R391) and time settings (R380). -/

namespace Sys2Proof.Machine

/-! ## The mailbox (R381, R382) -/

/-- The management controller changed. -/
def modMgc (s : State) (f : Mgc → Mgc) : State := { s with mgc := f s.mgc }
/-- Bytes of `MB_DATA`. -/
def Mgc.data (m : Mgc) (n : Nat) : List Byte := padTo n m.buf
/-- Bytes written to `MB_DATA` from its start. -/
def Mgc.fill (m : Mgc) (bs : List Byte) : Mgc := { m with buf := padTo 3840 (overlay (padTo 3840 m.buf) 0 (bs.take 3840)) }
/-- What a command came to: its result and the bytes of `MB_DATA` that it has written. -/
structure Reply where
  s : State
  result : Nat
  wrote : List Byte := []
/-- A command that writes bytes to `MB_DATA`. -/
def answer (s : State) (bs : List Byte) : Reply := { s := modMgc s fun m => m.fill bs, result := 0, wrote := bs.take 3840 }

/-- The 64 bytes of a log record (R385). -/
def LogRecord.bytes (r : LogRecord) : List Byte :=
  toBytes 8 r.seq ++ toBytes 8 r.time.toNat ++ toBytes 2 r.code ++ toBytes 2 r.source ++ toBytes 4 (r.tag.getD 0xFFFFFFFF)
    ++ toBytes 8 r.addr.toNat ++ padTo 32 r.extra
/-- SENSORS: the latest sample (R384). -/
def readSensors (s : State) : Reply := answer s (padTo 0x98 s.mgc.sample)
/-- LOG: up to 32 records from a sequence number on, or from the oldest kept (R382, R385). -/
def readLog (s : State) : Reply := answer s (((s.mgc.log.filter fun r => decide (s.mgc.arg.toNat ≤ r.seq)).take 32).flatMap LogRecord.bytes)
/-- Whether the update is owned by the other path (R382). -/
def Mgc.ownedByOther (m : Mgc) (path : Nat) : Bool := m.owner.any (· != path)
/-- Bytes that a slot can hold: the largest image (R389). -/
def slotSize : Nat := 0x10 + 2 ^ 22 + 96
/-- FWSTAGE: 3,072 bytes into the inactive slot (R382, R389). -/
def stageFirmware (s : State) (path : Nat) : Reply :=
  let m := s.mgc
  let off := m.arg.toNat
  if m.ownedByOther path then { s, result := 2 }
  else
    let s1 := modMgc s fun m => { m with owner := some path }
    if off % 4 != 0 || decide (slotSize ≤ off) then { s := s1, result := 3 }
    else
      let b := !m.active
      let old := m.slot b
      let bs := padTo (max old.length (off + 3072)) (overlay (padTo (max old.length (off + 3072)) old) off (m.data 3072))
      { s := modMgc s1 fun m => m.setSlot b (bs.take slotSize), result := 0 }
/-- FWCOMMIT: the inactive slot is checked and selected for the next module reset (R389). -/
def commitFirmware (s : State) (path : Nat) : Reply :=
  let m := s.mgc
  if m.ownedByOther path then { s, result := 2 }
  else
    let b := !m.active
    let s1 := modMgc s fun m => { m with owner := none }
    if !(imageSigned (m.slot b)) then { s := s1, result := 4 }
    else if imageSvn (m.slot b) < m.fuses then { s := s1, result := 5 }
    else { s := modMgc s1 fun m => { m with selected := b, committed := some b }, result := 0 }
/-- FWCONFIRM: fuses are blown until their count is the running image's SVN (R390). -/
def confirmFirmware (s : State) (path : Nat) : Reply :=
  let m := s.mgc
  if m.ownedByOther path then { s, result := 2 }
  else match m.running with
    | some b => if m.committed = some b then { s := modMgc s fun m => { m with fuses := max m.fuses (imageSvn (m.slot b)) }, result := 0 } else { s, result := 1 }
    | none => { s, result := 1 }
/-- `FAB_CTL` as it reads (R367). -/
def fabCtl (s : State) : Nat := s.devId.toNat + 2 ^ 8 * bit s.fabEnable + 2 ^ 9 * bit s.safe + 2 ^ 16 * s.domain.toNat
/-- ATTEST: a nonce becomes a signed report (R391). -/
def attestation (s : State) : Reply :=
  let m := s.mgc
  let a := m.active
  let image := (m.slot a).take (imageLen (m.slot a))
  let body := m.data 48 ++ sha384 image ++ toBytes 4 (m.version a) ++ toBytes 4 (m.version (!a))
    ++ toBytes 1 (imageSvn (m.slot a)) ++ toBytes 1 m.fuses ++ toBytes 1 (bit a) ++ toBytes 1 0
    ++ toBytes 4 (fabCtl s) ++ toBytes 8 s.calends.toNat
  answer s (body ++ padTo 96 (Config.signature body))
/-- SETCAP (R387). -/
def setCap (s : State) : Reply :=
  let w := s.mgc.arg.toNat
  if 300 ≤ w ∧ w ≤ 1500 then { s := (modMgc s fun m => { m with cap := w }).log 7, result := 0 } else { s, result := 3 }
/-- IDCERT: the certificate's length, then the certificate (R382). -/
def identity (s : State) : Reply := answer s (toBytes 4 Config.certificate.length ++ Config.certificate)
/-- Whether time settings are as R382 demands. -/
def timeSettingsOk (bs : List Byte) : Bool :=
  decide (numAt bs 0 1 ≤ 1) && decide (numAt bs 2 2 ≤ 4094) && numAt bs 18 46 == 0
/-- TIMECFG (R380, R382). -/
def setTime (s : State) : Reply :=
  let bs := s.mgc.data 64
  if timeSettingsOk bs then { s := modMgc s fun m => { m with timecfg := some bs, ptp := {} }, result := 0 } else { s, result := 3 }
/-- A command carried out for a path, 0 the host and 1 the management bus; while no image runs only three are served, and only
over the management bus (R382, R389). -/
def command (s : State) (path op : Nat) : Reply :=
  if s.mgc.running.isNone && !(path == 1 && (op == 2 || op == 3 || op == 4)) then { s, result := 1 }
  else match op with
    | 1 => readSensors s
    | 2 => readLog s
    | 3 => stageFirmware s path
    | 4 => commitFirmware s path
    | 5 => confirmFirmware s path
    | 6 => attestation s
    | 7 => setCap s
    | 8 => identity s
    | 9 => setTime s
    | _ => { s, result := 1 }

/-! ## Commands in their order (R381 to R383) -/

/-- A command joins those that wait: in order of arrival, the host's before those of the bus of the same clk (R382). -/
def queueJob (s : State) (j : Job) : State :=
  modMgc s fun m =>
    let after (x : Job) : Bool := j.bus.isNone && x.bus.isSome && x.at_ == j.at_
    { m with jobs := m.jobs.filter (fun x => !(after x)) ++ [j] ++ m.jobs.filter after }
/-- `MB_CMD` BUSY (R381). -/
def mbBusy (s : State) : Bool := s.mgc.jobs.any fun j => j.bus.isNone
/-- A command of the host, written to `MB_CMD`; ignored while BUSY is 1 (R381). -/
def hostCommand (s : State) (op : Nat) : State :=
  if !s.live || mbBusy s then s
  else queueJob (modMgc s fun m => { m with cmd := BitVec.ofNat 8 op }) { op, arg := s.mgc.arg, at_ := s.clk }
/-- A response of R383. -/
def busReply (s : State) (dst : BusFrom) (op result : Nat) (bs : List Byte) : State :=
  sendMessage s dst 0xFE (vendorPrefix ++ toBytes 1 op ++ toBytes 1 result ++ toBytes 2 0 ++ bs)
/-- A command carried out: data that came with it go to `MB_DATA` first; the host finds RESULT in `MB_STAT`, an endpoint of the
bus gets a response. The operand of `MB_ARG` is the host's own. -/
def carryJob (s : State) (j : Job) : State :=
  let s0 := modMgc s fun m => { (if j.data.isEmpty then m else m.fill j.data) with arg := j.arg, jobs := m.jobs.drop 1 }
  let r := command s0 (bit j.bus.isSome) j.op
  let t := modMgc r.s fun m => { m with arg := s.mgc.arg }
  match j.bus with
  | none => modMgc t fun m => { m with result := BitVec.ofNat 8 r.result }
  | some b => busReply t b j.op r.result r.wrote
/-- The first command that waits carried out, if it passes a test. -/
def serveJob (s : State) (which : Nat → Bool) : State :=
  match s.mgc.jobs with
  | j :: _ => if busUp s && which j.op then carryJob s j else s
  | [] => s
/-- R384 -/
def execSensors (s : State) : Outcome := event (serveJob s (· == 1))
/-- R385 -/
def execLog (s : State) : Outcome := event (serveJob s (· == 2))
/-- R389 -/
def execFwstage (s : State) : Outcome := event (serveJob s (· == 3))
/-- R389 -/
def execFwcommit (s : State) : Outcome := event (serveJob s (· == 4))
/-- R390 -/
def execFwconfirm (s : State) : Outcome := event (serveJob s (· == 5))
/-- R391 -/
def execAttest (s : State) : Outcome := event (serveJob s (· == 6))
/-- R387 -/
def execSetcap (s : State) : Outcome := event (serveJob s (· == 7))
/-- R382 -/
def execIdcert (s : State) : Outcome := event (serveJob s (· == 8))
/-- R380 -/
def execTimecfg (s : State) : Outcome := event (serveJob s (· == 9))
/-- The first command that waits is carried out, whatever it is: within 100 ms, FWCOMMIT within 2 s (R382). -/
def mailboxLate (s : State) : Bool :=
  s.mgc.jobs.head?.any fun j => decide (j.at_ + (if j.op = 4 then 2100000000 else 105000000) ≤ s.clk)

/-! ## Samples and the throttle (R384, R386) -/

/-- A thermal reading, in 1/16 °C. -/
def thermal (x : BitVec 32) : Int := signed 16 (x.toNat % 2 ^ 16)
/-- Thermal readings, power in mW. -/
def sampleThermals (x : Sample) : List Int := (List.range 48).map fun k => thermal (x.readings.getD k 0)
def samplePower (x : Sample) : Nat := (x.readings.getD 68 0).toNat
/-- The throttle level after a sample (R386). -/
def nextThrottle (t cap : Nat) (x : Sample) : Nat :=
  let p := samplePower x
  let t1 := if cap * 1000 < p then min 15 (t + 1) else if 100 * p < 95 * (cap * 1000) then t - 1 else t
  if (sampleThermals x).any fun k => decide (95 * 16 ≤ k) then max 8 t1 else t1
/-- The bytes of a sample (R384). -/
def sampleBytes (x : Sample) (t : Nat) (now : Quad) : List Byte :=
  (List.range 68).flatMap (fun k => toBytes 2 (x.readings.getD k 0).toNat) ++ toBytes 4 (samplePower x) ++ toBytes 4 t ++ toBytes 8 now.toNat
/-- The first sensor at or above a temperature. -/
def hottest (x : Sample) (deg : Int) : Option Nat := (List.range 48).find? fun k => decide (deg * 16 ≤ thermal (x.readings.getD k 0))
/-- A sample taken (R384), the throttle adjusted (R386), the limits logged. -/
def takeSample (s : State) (x : Sample) : State :=
  let m := s.mgc
  let t := nextThrottle m.throttle m.cap x
  let s1 := modMgc s fun m => { m with sample := sampleBytes x m.throttle s.calends, throttle := t }
  match hottest x 110, hottest x 95 with
  | some k, _ => powerOff (s1.log 2 k)
  | none, some k => if m.throttle < 8 then s1.log 1 k else s1
  | none, none => s1
/-- R386 -/
def execSensorSample (sample : Sample) (s : State) : Outcome :=
  event (if s.power && s.mgc.running.isSome then takeSample s sample else s)

/-! ## Corrected errors (R385, R392) -/

/-- Whether errors corrected in a cluster or slice are to be logged: there are some, and the last record is a second old. -/
def correctedDue (s : State) (source : Nat) : Bool :=
  (get? s.correctedErrors source).any fun x => x.1 != 0 && decide (x.2 = 0 ∨ x.2 + 1050000000 ≤ s.clk + 1)
/-- Their count logged, at most once a second for each source. -/
def logCorrected (s : State) (source : Nat) : State :=
  match get? s.correctedErrors source with
  | some x =>
    if correctedDue s source then
      { s with correctedErrors := put s.correctedErrors source (0, s.clk + 1) }.log 3 source none 0 (toBytes 4 x.1)
    else s
  | none => s
/-- An error corrected. -/
def countCorrected (s : State) (source : Nat) : State :=
  let x := (get? s.correctedErrors source).getD (0, 0)
  logCorrected { s with correctedErrors := put s.correctedErrors source (x.1 + 1, x.2) } source

/-! ## The management bus (R383) -/

/-- A mailbox command that came as a message: it waits for its turn; while an earlier one of its sender has not been answered, it
gets RESULT 1, and so does one that is not laid out as R383 says. -/
def busCommand (s : State) (f : BusFrom) (req : List Byte) : State :=
  let op := numAt req 0 1
  if s.mgc.jobs.any (fun j => j.bus.any fun b => b.eid == f.eid) || decide (req.length < 12) || numAt req 1 3 != 0 || decide (3852 < req.length) then
    busReply s f op 1 []
  else queueJob s { op, arg := BitVec.ofNat 64 (numAt req 4 8), data := req.drop 12, bus := some f, at_ := s.clk }
/-- R383 -/
def execVendorDefinedMessage (headers body : List Byte) (s : State) : Outcome :=
  event (onBus s 0xFE (headers ++ body) fun s f m => if m.take 2 == vendorPrefix then some (busCommand s f (m.drop 2)) else none)
/-- R383: operations 0 and 1 set the endpoint ID; 0 and 0xFF are no IDs. -/
def execSetEndpointId (headers control data : List Byte) (s : State) : Outcome :=
  event (onControl s 1 (headers ++ control ++ data) fun s m =>
    let eid := m.getD 1 0
    if m.length != 2 then (s, [ccLength])
    else if numAt m 0 1 % 4 ≤ 1 && eid != 0 && eid != 0xFF then (modMgc s fun m => { m with eid := eid }, [ccOk, 0, eid, 0])
    else (s, [ccData]))
/-- R383 -/
def execGetEndpointId (packet : List Byte) (s : State) : Outcome := event (onControl s 2 packet fun s _ => (s, [ccOk, s.mgc.eid, 0, 0]))
/-- R383: the versions of the base protocol, of control messages and of type 0x7E; of another type there is none. -/
def execGetMctpVersionSupport (headers body : List Byte) (s : State) : Outcome :=
  event (onControl s 4 (headers ++ body) fun s m =>
    (s, if m.length != 1 then [ccLength]
      else if [0xFF, 0, 0x7E].contains (m.getD 0 0) then [ccOk, 1, 0xF1, 0xF3, 0xF1, 0] else [0x80]))
/-- R383 -/
def execGetMessageTypeSupport (packet : List Byte) (s : State) : Outcome := event (onControl s 5 packet fun s _ => (s, [ccOk, 1, 0x7E]))
/-- R383: one vendor ID set, by PCI vendor ID. -/
def execGetVendorDefinedMessageSupport (headers body : List Byte) (s : State) : Outcome :=
  event (onControl s 6 (headers ++ body) fun s m =>
    (s, if m.length != 1 then [ccLength]
      else if m.getD 0 0 == 0 then [ccOk, 0xFF, 0] ++ vendorPrefix ++ [0, 0] else [ccData]))

end Sys2Proof.Machine
end

