-- ==== Sys2Proof/Machine/HostLink.lean ====
section
/-! DEFINITION. The host link: the registers of BAR0 (R329, R339, R360 to R362, R367, R374, R377, R381), the physical window
(R362), and what the host does to lines and translations (R364, R365). -/

namespace Sys2Proof.Machine

/-! ## Interrupts (R361) -/

/-- After a write to a status register that leaves its vector's condition true, the message is sent again (R361). -/
def resend (s : State) (v : Nat) : State := if vectorCond s v then sendVector s v else interrupts s
/-- Status bits cleared by writing 1 (R329, R339, R361). -/
def clearStatus (s : State) (fx : Bool) (v : Word) : State :=
  if fx then resend { s with fxIntStat := s.fxIntStat &&& ~~~(v.extractLsb' 0 4) } 1
  else resend { s with qmIntStat := s.qmIntStat &&& ~~~(v.extractLsb' 0 2) } 0
/-- R361 -/
def execInterruptStatusClear (vector : Bool) (v : Word) (s : State) : Outcome := event (if s.live then clearStatus s vector v else s)
/-- A vector's mask written; unmasked with its condition true, its pending message is sent (R361). -/
def setMask (s : State) (v : Nat) (mask : Bool) : State :=
  match s.vectors[v]? with
  | none => s
  | some x =>
    let s1 := { s with vectors := modAt s.vectors v fun y => { y with mask, pending := y.pending && mask } }
    if !mask && x.mask && x.pending && vectorCond s v then s1.send (.msix x.addr x.data) else s1
/-- R361 -/
def execMsixUnmask (vector : Bool) (s : State) : Outcome := event (if s.live then setMask s (bit vector) false else s)

/-! ## The fault buffer (R339, R349) -/

/-- `FB_CTL` written: SIZE only while ENABLE is 0; counters start at 0 on enable; ENABLE written again ends a BUFERR stop (R339). -/
def writeFbCtl (s : State) (v : Word) : State :=
  let on := v.getLsbD 31
  let s1 := if s.fbEnable then s else { s with fbSize := v.toNat % 32 }
  let s2 := if on && !s.fbEnable then { s1 with fbWr := 0, fbRd := 0 } else s1
  { s2 with fbEnable := on, fbStop := s2.fbStop && !on }
/-- R339 -/
def execFbEnable (v : Word) (s : State) : Outcome := event (if s.live then writeFbCtl s v else s)
/-- R349: the driver consumes records. -/
def execFbRd (v : Word) (s : State) : Outcome := event (if s.live then { s with fbRd := v } else s)

/-! ## Registers written -/

/-- `QM_CTL` (R329, R308). -/
def writeQmCtl (s : State) (v : Nat) : State :=
  let on := bitOf v 0
  let halt := bitOf v 1
  let s2 := setReading s on
  if halt && !s.haltAll then haltDevice s2 else if !halt && s.haltAll then resumeHalted s2 else s2
/-- `QM_QCMD` (R329, R332, R337). -/
def writeQmQcmd (s : State) (v : Nat) : State := queueCommand s (v % 2 ^ 10) (bitsOf v 13 12)
/-- The state that a step of the device leaves. -/
def after (s : State) : Outcome → State
  | .next t => t
  | _ => s
/-- `CX_CMD` (R339, R341): 0 has no effect, 13 to 15 give RESULT 2. -/
def writeCxCmd (s : State) (v : Nat) : State :=
  if cxBusy s then s
  else
    let t := BitVec.ofNat 6 v
    let op := bitsOf v 11 8
    let s1 := { s with cxTag := t, cxOp := BitVec.ofNat 4 op }
    match op with
    | 0 => s1
    | 1 => after s1 (execInstall t s1)
    | 2 => after s1 (execUpdate t s1)
    | 3 => after s1 (execCtxEnd t s1)
    | 4 => after s1 (execRightsinv t s1)
    | 5 => after s1 (execReplay t s1)
    | 6 => after s1 (execReplayall t s1)
    | 7 => after s1 (execStop t s1)
    | 8 => after s1 (execDbgsave t s1)
    | 9 => after s1 (execDbgload t s1)
    | 10 => after s1 (execSuspend t s1)
    | 11 => after s1 (execResume t s1)
    | 12 => after s1 (execResumegang t s1)
    | _ => cxDone s1 2
/-- `TR_CMD` (R339, R347, R348). -/
def writeTrCmd (s : State) (v : Nat) : State :=
  let s1 := { s with trOp := BitVec.ofNat 4 v, trWb := bitOf v 4, trDiscard := bitOf v 5 }
  match v % 16 with
  | 0 => s1
  | 1 => invalidateNow s1 (bitOf v 4) (bitOf v 5)
  | 2 => completeNow s1
  | _ => trDone s1 2
/-- `FAB_CTL` (R367): DEVID and DOMAIN only while ENABLE is 0 and no context is installed; dirty lines keep their addresses. -/
def writeFabCtl (s : State) (v : Nat) : State :=
  let s1 := { s with fabEnable := bitOf v 8, safe := bitOf v 9 }
  if s.fabEnable || contextsLeft s then s1
  else { dropCaches s1 with devId := BitVec.ofNat 7 v, domain := BitVec.ofNat 16 (bitsOf v 31 16) }
/-- `FAB_PORT` (R367): ENABLE is bit 1; the other fields are read-only. -/
def writeFabPort (s : State) (p v : Nat) : State :=
  let s1 := if bitOf v 1 then s else portLost s p
  modPort s1 p fun x => { x with enable := bitOf v 1 }
/-- `FAB_ROUTE` (R367): a device left without a port that is UP goes DOWN (R372). -/
def writeRoute (s : State) (d v : Nat) : State := dropUnreachable { s with routes := put s.routes d (BitVec.ofNat 16 v) }
/-- `FAB_REACH` (R367, R372): bits written 1 ask for a rejoin, those written 0 mark devices DOWN. -/
def writeReach (s : State) (base v : Nat) : State :=
  (List.range 64).foldl (fun s i =>
    let d := base + i
    if d = s.devId.toNat then s
    else if bitOf v i then rejoin s d
    else if s.reach.contains d || (get? s.probes d).isSome then markDown s d else s) s
/-- `CAL_CTL` SRC (R377): 3 reads as 0; with a new source LOCKED starts anew. -/
def writeCalCtl (s : State) (v : Nat) : State :=
  let src := if v % 4 = 3 then 0 else v % 4
  if src = s.calSrc then s else { s with calSrc := src, calLocked := false, calGood := none }
/-- A doubleword of the MSI-X table (R361): address, data and vector control of vector `v`. -/
def writeVector (s : State) (v k x : Nat) : State :=
  let set (f : Vector → Vector) : State := { s with vectors := modAt s.vectors v f }
  match k with
  | 0 => set fun y => { y with addr := (y.addr.high ++ BitVec.ofNat 32 x).setWidth 64 }
  | 1 => set fun y => { y with addr := (BitVec.ofNat 32 x ++ y.addr.low).setWidth 64 }
  | 2 => set fun y => { y with data := BitVec.ofNat 32 x }
  | _ => setMask s v (bitOf x 0)
/-- Registers of 32 bits written. -/
def write32 (s : State) (off v : Nat) : State :=
  if 0x10000 ≤ off && decide (off < 0x12000) && off % 8 == 0 then
    after s (execQmDoorbell (BitVec.ofNat 10 ((off - 0x10000) / 8)) (BitVec.ofNat 32 v) s)
  else if 0x30200 ≤ off && decide (off < 0x30240) then writeFabPort s ((off - 0x30200) / 4) v
  else if 0x31000 ≤ off && decide (off < 0x31200) then writeRoute s ((off - 0x31000) / 4) v
  else if 0x40100 ≤ off && decide (off < 0x41000) then
    modMgc s fun m => { m with buf := overlay (padTo 3840 m.buf) (off - 0x40100) (toBytes 4 v) }
  else if 0x80000 ≤ off && decide (off < 0x80020) then writeVector s ((off - 0x80000) / 16) ((off - 0x80000) % 16 / 4) v
  else match off with
    | 0x0000 => writeQmCtl s v
    | 0x0010 => writeQmQcmd s v
    | 0x0018 => clearStatus s false (BitVec.ofNat 32 v)
    | 0x001C => interrupts { s with qmIntEn := BitVec.ofNat 2 v }
    | 0x20008 => writeCxCmd s v
    | 0x20020 => writeTrCmd s v
    | 0x20088 => writeFbCtl s (BitVec.ofNat 32 v)
    | 0x20090 => { s with fbRd := BitVec.ofNat 32 v }
    | 0x20098 => { s with fbOvf := 0 }
    | 0x200A0 => clearStatus s true (BitVec.ofNat 32 v)
    | 0x200A4 => interrupts { s with fxIntEn := BitVec.ofNat 4 v }
    | 0x30000 => { s with phyBase := BitVec.ofNat 32 v }
    | 0x30100 => writeFabCtl s v
    | 0x30408 => { s with colCount := v % 2 ^ 13 }
    | 0x30508 => writeCalCtl s v
    | 0x3050C => if s.calSrc = 2 then s else { s with calRate := clampRate (BitVec.ofNat 32 v) }
    | 0x40000 => hostCommand s (v % 256)
    | _ => s
/-- Registers of 64 bits written. -/
def write64 (s : State) (off v : Nat) : State :=
  if 0x80000 ≤ off && decide (off < 0x80020) then
    let k := (off - 0x80000) % 16 / 4
    writeVector (writeVector s ((off - 0x80000) / 16) k (v % 2 ^ 32)) ((off - 0x80000) / 16) (k + 1) (v / 2 ^ 32)
  else match off with
    | 0x0008 => if s.qmEnable then s else { s with qtBase := BitVec.ofNat 64 v }
    | 0x20000 => if contextsLeft s then s else { s with cxBase := BitVec.ofNat 64 v }
    | 0x20010 => { s with cxArg0 := BitVec.ofNat 64 v }
    | 0x20018 => { s with cxArg1 := BitVec.ofNat 64 v }
    | 0x20028 => { s with trArg0 := BitVec.ofNat 64 v }
    | 0x20030 => { s with trArg1 := BitVec.ofNat 64 v }
    | 0x20038 => { s with ptFrame := BitVec.ofNat 32 v, ptLen := bitsOf v 51 32 }
    | 0x20048 => { s with migFrame := BitVec.ofNat 32 v, migCount := bitsOf v 43 32 }
    | 0x20080 => if s.fbEnable then s else { s with fbBase := BitVec.ofNat 64 v }
    | 0x30300 => writeReach s 0 v
    | 0x30308 => writeReach s 64 v
    | 0x30310 => { s with safeCount := 0 }
    | 0x30400 => { s with colBase := BitVec.ofNat 64 v }
    | 0x30510 => stepCalends s (BitVec.ofNat 64 v)
    | 0x40008 => modMgc s fun m => { m with arg := BitVec.ofNat 64 v }
    | _ => s
/-- A host write to BAR0: an aligned access of a register's own width has the register's effect, any other is ignored. -/
def writeRegister (s : State) (off bytes : Nat) (v : Quad) : State :=
  if bytes = 4 ∧ off % 4 = 0 then write32 s off (v.toNat % 2 ^ 32)
  else if bytes = 8 ∧ off % 8 = 0 then write64 s off v.toNat
  else s
/-- R329 -/
def execRegisterWrite (off bytes : Nat) (v : BitVec 64) (s : State) : Outcome := event (if s.live then writeRegister s off bytes v else s)

/-! ## Registers read -/

/-- `QM_ERRQ` (R329). -/
def errQueue (s : State) : Nat :=
  match (List.range 1024).find? fun q => (queueOf s q).state == 4 with
  | some q => q + 2 ^ 31
  | none => 0
/-- `FAB_REACH` (R367): this device's own bit reads 1. -/
def reachBits (s : State) (base : Nat) : Nat :=
  ((List.range 64).map fun i => if base + i = s.devId.toNat || s.reach.contains (base + i) then 2 ^ i else 0).foldl (· + ·) 0
/-- A port as `FAB_PORT` reads it (R367). -/
def Port.word (x : Port) : Nat := bit x.up + 2 * bit x.enable + 2 ^ 8 * x.peer.toNat + 2 ^ 16 * x.errs
/-- Registers of 32 bits read; write-only and unassigned ones read 0. -/
def read32 (s : State) (off : Nat) : Nat :=
  if 0x30200 ≤ off && decide (off < 0x30240) then (portOf s ((off - 0x30200) / 4)).word
  else if 0x31000 ≤ off && decide (off < 0x31200) then ((get? s.routes ((off - 0x31000) / 4)).getD 0).toNat
  else if 0x40100 ≤ off && decide (off < 0x41000) then numAt (padTo 3840 s.mgc.buf) (off - 0x40100) 4
  else if 0x80000 ≤ off && decide (off < 0x80020) then
    let x := s.vectors.getD ((off - 0x80000) / 16) {}
    [x.addr.toNat % 2 ^ 32, x.addr.toNat / 2 ^ 32, x.data.toNat, bit x.mask].getD ((off - 0x80000) % 16 / 4) 0
  else match off with
    | 0x0000 => bit s.qmEnable + 2 * bit s.haltAll
    | 0x0010 => s.qcmd.toNat + 2 ^ 31 * bit (qmBusy s)
    | 0x0018 => s.qmIntStat.toNat
    | 0x001C => s.qmIntEn.toNat
    | 0x0020 => errQueue s
    | 0x0024 => s.launches.length
    | 0x20008 => s.cxTag.toNat + 2 ^ 8 * s.cxOp.toNat + 2 ^ 16 * s.cxResult.toNat + 2 ^ 31 * bit (cxBusy s)
    | 0x20020 => s.trOp.toNat + 2 ^ 4 * bit s.trWb + 2 ^ 5 * bit s.trDiscard + 2 ^ 16 * s.trResult.toNat
    | 0x20040 => tierFrames true
    | 0x20088 => s.fbSize + 2 ^ 31 * bit s.fbEnable
    | 0x2008C => s.fbWr.toNat
    | 0x20090 => s.fbRd.toNat
    | 0x20094 => s.held.length
    | 0x20098 => s.fbOvf.toNat
    | 0x200A0 => s.fxIntStat.toNat
    | 0x200A4 => s.fxIntEn.toNat
    | 0x30000 => s.phyBase.toNat
    | 0x30100 => fabCtl s
    | 0x30408 => s.colCount
    | 0x30508 => s.calSrc + 2 ^ 8 * bit s.calLocked
    | 0x3050C => s.calRate.toNat
    | 0x40000 => s.mgc.cmd.toNat + 2 ^ 31 * bit (mbBusy s)
    | 0x40010 => s.mgc.result.toNat
    | 0x81000 => bit (s.vectors.getD 0 {}).pending + 2 * bit (s.vectors.getD 1 {}).pending
    | _ => 0
/-- Registers of 64 bits read. -/
def read64 (s : State) (off : Nat) : Nat :=
  if 0x80000 ≤ off && decide (off < 0x80020) then read32 s off + 2 ^ 32 * read32 s (off + 4)
  else match off with
    | 0x0008 => s.qtBase.toNat
    | 0x20000 => s.cxBase.toNat
    | 0x20010 => s.cxArg0.toNat
    | 0x20018 => s.cxArg1.toNat
    | 0x20028 => s.trArg0.toNat
    | 0x20030 => s.trArg1.toNat
    | 0x20038 => s.ptFrame.toNat + 2 ^ 32 * s.ptLen
    | 0x20048 => s.migFrame.toNat + 2 ^ 32 * s.migCount
    | 0x20080 => s.fbBase.toNat
    | 0x30300 => reachBits s 0
    | 0x30308 => reachBits s 64
    | 0x30310 => s.safeCount.toNat
    | 0x30400 => s.colBase.toNat
    | 0x30500 => s.calends.toNat
    | 0x30518 => s.calOffset.toNat
    | 0x40008 => s.mgc.arg.toNat
    | 0x81000 => read32 s off
    | _ => 0
/-- What a host read of BAR0 returns. -/
def readRegister (s : State) (off bytes : Nat) : Nat :=
  if bytes = 4 ∧ off % 4 = 0 then read32 s off else if bytes = 8 ∧ off % 8 = 0 then read64 s off else 0

/-! ## The physical window (R362) -/

/-- The physical byte of a BAR2 offset: none beyond 48 GiB or beyond the tier. -/
def windowByte (s : State) (x : Nat) : Option Nat :=
  let f := s.phyBase.toNat % 2 ^ 31 + x / 49152
  let lp := bitOf s.phyBase.toNat 31
  if x < 48 * 2 ^ 30 ∧ f < tierFrames lp then some ((if lp then lpBase else 0) + 49152 * f + x % 49152) else none
/-- R362: beyond the window, all ones. -/
def execPhysicalWindowRead (x bytes : Nat) (s : State) : Outcome :=
  event (if s.live then
    s.send (.readData ((List.range bytes).map fun i => match windowByte s (x + i) with | some p => s.dram.read p | none => 0xFF))
  else s)
/-- The bytes that the window reaches, written beneath L2: a written sector is no longer cell-tagged, but keeps its other bytes
(R117; DESIGN CHOICE, log 44); whole units count toward the clearing of poison (R394). -/
def writeWindow (s : State) (x : Nat) (bs : List Byte) : State :=
  let ps := bs.zipIdx.filterMap fun b => (windowByte s (x + b.2)).map fun p => (p, b.1)
  let dram := ps.foldl (fun m p => m.write p.1 p.2) s.dram
  let covered (u : Nat) : Bool := (List.range 16).all fun i => ps.any fun p => p.1 == u + i
  let poison := s.poison.filterMap fun e =>
    let m : Nat := (List.range 3).foldl (fun (m u : Nat) => if covered (e.1 + 16 * u) then m ||| 2 ^ u else m) e.2
    if m = 7 then none else some (e.1, m)
  { s with dram, poison, cells := s.cells.filter fun c => !(ps.any fun p => decide (c ≤ p.1) && decide (p.1 < c + 48)) }
/-- R362 -/
def execPhysicalWindowWrite (x : Nat) (units : List Byte) (s : State) : Outcome := event (if s.live then writeWindow s x units else s)
/-- R360 -/
def execHostAtomicop (_bar _x : Nat) (s : State) : Outcome := event (if s.live then s.send .unsupported else s)

/-! ## Host lines and translations (R364, R365) -/

/-- A host line given up: written back first if it is modified. -/
def giveUp (s : State) (n : Nat) : State :=
  let s1 := writeBackHost s fun k _ => k == n
  { s1 with hostLines := del s1.hostLines n }
/-- Whether an armed monitor watches a word of a host line. -/
def watched (s : State) (n : Nat) : Bool :=
  s.monitors.any fun m => m.2.woken.isNone && match placeOf s m.2.addr.toNat with | .host o => o / 192 == n | _ => false
/-- R365: the line is given up; monitors of its words read it again (R113). -/
def execHostSnoop (line : Nat) (s : State) : Outcome :=
  event (if s.live && (get? s.hostLines line).isSome then
    let s1 := giveUp s line
    if watched s1 line then askHost s1 (.line line) else s1
  else s)
/-- Whether `n` bytes from `a` on meet a range. -/
def within (r : Nat × Nat) (a n : Nat) : Bool := decide (a < r.1 + r.2) && decide (r.1 < a + n)
/-- ATS invalidations are complete when no line is still asked for under a translation that they have dropped (R364). -/
def finishAts (s : State) : State :=
  let out (r : Nat × Nat) : Bool := s.hostAsks.any fun p => p.2.2.isNone && match p.2.1 with | .line n => within r (192 * n) 192 | _ => false
  (s.atsWaits.filter fun r => !(out r)).foldl (fun s r => s.send (.atsDone r.1 r.2)) { s with atsWaits := s.atsWaits.filter out }
/-- Armed monitors of host words whose line is not held have it asked for again, once its page is translated (R113). -/
def askWatched (s : State) : State :=
  s.monitors.foldl (fun s m =>
    match placeOf s m.2.addr.toNat with
    | .host _ => if m.2.woken.isNone then (match (check s none m.2.addr.toNat 0 true false true).2 with | .host a => askHost s a | _ => s) else s
    | _ => s) s
/-- Translations of a range are dropped, and the lines reached through them given up; translations that are asked for are asked
for again. -/
def dropTranslations (s : State) (r : Nat × Nat) : State :=
  let stale (p : Nat × HostAsk × Option HostAnswer) : Bool :=
    p.2.2.isNone && match p.2.1 with | .translate n _ => within r (4096 * n) 4096 | _ => false
  let s1 := { s with atc := s.atc.filter (fun p => !(within r (4096 * p.1) 4096)), hostAsks := s.hostAsks.filter fun p => !(stale p) }
  let s2 := ((s1.hostLines.map (·.1)).filter fun n => within r (192 * n) 192).foldl giveUp s1
  (s.hostAsks.filter stale).foldl (fun s p => askHost s p.2.1) s2
/-- R364: the completion follows once nothing is out under a translation that has been dropped. -/
def execAtsInvalidation (start bytes : Nat) (s : State) : Outcome :=
  event (if s.live then finishAts (askWatched { dropTranslations s (start, bytes) with atsWaits := s.atsWaits ++ [(start, bytes)] }) else s)
/-- What a completion leaves: a line held, unless its translation has been dropped meanwhile, or a translation kept, or a refusal
for those who asked; of a page that is absent the host is asked to make it present (PRI, R364). The spec does not say how many host
lines the device can hold, whether they take room in L2 (R2), nor when one is given up for want of it: they are kept apart from L2,
without bound (DESIGN CHOICE, log 47). -/
def hostAnswered (s : State) (req : Nat) (a : HostAsk) (x : HostAnswer) : State :=
  let done : State := { s with hostAsks := s.hostAsks.filter fun p => p.1 != req }
  let refused : State := { s with hostAsks := s.hostAsks.map fun p => if p.1 = req then (p.1, p.2.1, some x) else p }
  match a, x with
  | .line n, .line bs =>
    if s.atsWaits.any fun r => within r (192 * n) 192 then finishAts (askWatched done)
    else wakeMonitors { done with hostLines := put done.hostLines n { bytes := padTo 192 bs } } (0xFF00000000000000 + 192 * n) 192
  | .translate p _, .writable _ w => askWatched { done with atc := put done.atc p w }
  | .translate p w, .absent => askHost refused (.pageRequest p w)
  | .pageRequest p _, _ =>
    -- the page may be present now: those who watch a word of it ask again (R113)
    askWatched { done with hostAsks := done.hostAsks.filter fun q => q.2.2.isNone || (match q.2.1 with | .translate n _ => n != p | _ => true) }
  | _, _ => finishAts refused
/-- R364, R365: the host answers, and what waited goes on. -/
def execHostRequestCompletion (req : Nat) (answer : HostAnswer) (s : State) : Outcome :=
  event (match s.hostAsks.find? fun p => p.1 = req && p.2.2.isNone with
    | some p => if s.live then retryAll (hostAnswered s req p.2.1 answer) else s
    | none => s)
/-- R359: the link has trained again. -/
def execHostLinkUp (s : State) : Outcome := event { s with linkUp := true }

end Sys2Proof.Machine
end

