-- ==== Sys2Proof/Machine/Dispatch.lean ====
section
/-! DEFINITION. One arm for each row of the opcode table. -/

namespace Sys2Proof.Machine

def exec (i : Instr) (s : State) : Host.Outcome State Fault Refusal :=
  match i with
  | .addB32 o => Sys2Proof.Machine.execAddB32 o s
  | .subB32 o => Sys2Proof.Machine.execSubB32 o s
  | .mulB32 o => Sys2Proof.Machine.execMulB32 o s
  | .madB32 o => Sys2Proof.Machine.execMadB32 o s
  | .mulhiS32 o => Sys2Proof.Machine.execMulhiS32 o s
  | .mulhiN32 o => Sys2Proof.Machine.execMulhiN32 o s
  | .andB32 o => Sys2Proof.Machine.execAndB32 o s
  | .orB32 o => Sys2Proof.Machine.execOrB32 o s
  | .xorB32 o => Sys2Proof.Machine.execXorB32 o s
  | .andnB32 o => Sys2Proof.Machine.execAndnB32 o s
  | .shlB32 o => Sys2Proof.Machine.execShlB32 o s
  | .shrN32 o => Sys2Proof.Machine.execShrN32 o s
  | .shrS32 o => Sys2Proof.Machine.execShrS32 o s
  | .rotlB32 o => Sys2Proof.Machine.execRotlB32 o s
  | .minS32 o => Sys2Proof.Machine.execMinS32 o s
  | .maxS32 o => Sys2Proof.Machine.execMaxS32 o s
  | .minN32 o => Sys2Proof.Machine.execMinN32 o s
  | .maxN32 o => Sys2Proof.Machine.execMaxN32 o s
  | .addsS32 o => Sys2Proof.Machine.execAddsS32 o s
  | .subsS32 o => Sys2Proof.Machine.execSubsS32 o s
  | .addsN32 o => Sys2Proof.Machine.execAddsN32 o s
  | .subsN32 o => Sys2Proof.Machine.execSubsN32 o s
  | .bfxN32 o => Sys2Proof.Machine.execBfxN32 o s
  | .bfxS32 o => Sys2Proof.Machine.execBfxS32 o s
  | .bfiB32 o => Sys2Proof.Machine.execBfiB32 o s
  | .absdN32 o => Sys2Proof.Machine.execAbsdN32 o s
  | .addN64 o => Sys2Proof.Machine.execAddN64 o s
  | .subN64 o => Sys2Proof.Machine.execSubN64 o s
  | .mulN64 o => Sys2Proof.Machine.execMulN64 o s
  | .mulwN32 o => Sys2Proof.Machine.execMulwN32 o s
  | .mulwS32 o => Sys2Proof.Machine.execMulwS32 o s
  | .addaS64 o => Sys2Proof.Machine.execAddaS64 o s
  | .shlN64 o => Sys2Proof.Machine.execShlN64 o s
  | .shrN64 o => Sys2Proof.Machine.execShrN64 o s
  | .shrS64 o => Sys2Proof.Machine.execShrS64 o s
  | .rotlN64 o => Sys2Proof.Machine.execRotlN64 o s
  | .cmpS32 o => Sys2Proof.Machine.execCmpS32 o s
  | .cmpN32 o => Sys2Proof.Machine.execCmpN32 o s
  | .cmpS64 o => Sys2Proof.Machine.execCmpS64 o s
  | .cmpN64 o => Sys2Proof.Machine.execCmpN64 o s
  | .addB32Imm o => Sys2Proof.Machine.execAddB32Imm o s
  | .shlB32Imm o => Sys2Proof.Machine.execShlB32Imm o s
  | .shrN32Imm o => Sys2Proof.Machine.execShrN32Imm o s
  | .shrS32Imm o => Sys2Proof.Machine.execShrS32Imm o s
  | .addN64Imm o => Sys2Proof.Machine.execAddN64Imm o s
  | .movB32Imm o => Sys2Proof.Machine.execMovB32Imm o s
  | .movB32ImmS o => Sys2Proof.Machine.execMovB32ImmS o s
  | .movB32 o => Sys2Proof.Machine.execMovB32 o s
  | .notB32 o => Sys2Proof.Machine.execNotB32 o s
  | .negS32 o => Sys2Proof.Machine.execNegS32 o s
  | .absS32 o => Sys2Proof.Machine.execAbsS32 o s
  | .popcB32 o => Sys2Proof.Machine.execPopcB32 o s
  | .clzB32 o => Sys2Proof.Machine.execClzB32 o s
  | .ctzB32 o => Sys2Proof.Machine.execCtzB32 o s
  | .brevB32 o => Sys2Proof.Machine.execBrevB32 o s
  | .sxbS32 o => Sys2Proof.Machine.execSxbS32 o s
  | .sxhS32 o => Sys2Proof.Machine.execSxhS32 o s
  | .div3N32 o => Sys2Proof.Machine.execDiv3N32 o s
  | .mod3N32 o => Sys2Proof.Machine.execMod3N32 o s
  | .movN64 o => Sys2Proof.Machine.execMovN64 o s
  | .negS64 o => Sys2Proof.Machine.execNegS64 o s
  | .div3N64 o => Sys2Proof.Machine.execDiv3N64 o s
  | .mod3N64 o => Sys2Proof.Machine.execMod3N64 o s
  | .mset o => Sys2Proof.Machine.execMset o s
  | .mget o => Sys2Proof.Machine.execMget o s
  | .mand o => Sys2Proof.Machine.execMand o s
  | .mor o => Sys2Proof.Machine.execMor o s
  | .mxor o => Sys2Proof.Machine.execMxor o s
  | .mandn o => Sys2Proof.Machine.execMandn o s
  | .br o => Sys2Proof.Machine.execBr o s
  | .call o => Sys2Proof.Machine.execCall o s
  | .jmp o => Sys2Proof.Machine.execJmp o s
  | .ret o => Sys2Proof.Machine.execRet o s
  | .calli o => Sys2Proof.Machine.execCalli o s
  | .exit p => Sys2Proof.Machine.execExit p s
  | .yield p => Sys2Proof.Machine.execYield p s
  | .wbase o => Sys2Proof.Machine.execWbase o s
  | .wbadd o => Sys2Proof.Machine.execWbadd o s
  | .nop p => Sys2Proof.Machine.execNop p s
  | .faddF32 o => Sys2Proof.Machine.execFaddF32 o s
  | .fmulF32 o => Sys2Proof.Machine.execFmulF32 o s
  | .ffmaF32 o => Sys2Proof.Machine.execFfmaF32 o s
  | .fsubF32 o => Sys2Proof.Machine.execFsubF32 o s
  | .fminF32 o => Sys2Proof.Machine.execFminF32 o s
  | .fmaxF32 o => Sys2Proof.Machine.execFmaxF32 o s
  | .faddF16 o => Sys2Proof.Machine.execFaddF16 o s
  | .fmulF16 o => Sys2Proof.Machine.execFmulF16 o s
  | .ffmaF16 o => Sys2Proof.Machine.execFfmaF16 o s
  | .fsubF16 o => Sys2Proof.Machine.execFsubF16 o s
  | .fminF16 o => Sys2Proof.Machine.execFminF16 o s
  | .fmaxF16 o => Sys2Proof.Machine.execFmaxF16 o s
  | .faddBf16 o => Sys2Proof.Machine.execFaddBf16 o s
  | .fmulBf16 o => Sys2Proof.Machine.execFmulBf16 o s
  | .ffmaBf16 o => Sys2Proof.Machine.execFfmaBf16 o s
  | .fsubBf16 o => Sys2Proof.Machine.execFsubBf16 o s
  | .fminBf16 o => Sys2Proof.Machine.execFminBf16 o s
  | .fmaxBf16 o => Sys2Proof.Machine.execFmaxBf16 o s
  | .fcmpF32 o => Sys2Proof.Machine.execFcmpF32 o s
  | .fcmpF16 o => Sys2Proof.Machine.execFcmpF16 o s
  | .faddF32Rm o => Sys2Proof.Machine.execFaddF32Rm o s
  | .fsubF32Rm o => Sys2Proof.Machine.execFsubF32Rm o s
  | .fmulF32Rm o => Sys2Proof.Machine.execFmulF32Rm o s
  | .fdivF32 o => Sys2Proof.Machine.execFdivF32 o s
  | .fsqrtF32 o => Sys2Proof.Machine.execFsqrtF32 o s
  | .frndF32 o => Sys2Proof.Machine.execFrndF32 o s
  | .frcp o => Sys2Proof.Machine.execFrcp o s
  | .frsq o => Sys2Proof.Machine.execFrsq o s
  | .fex2 o => Sys2Proof.Machine.execFex2 o s
  | .flg2 o => Sys2Proof.Machine.execFlg2 o s
  | .fsin o => Sys2Proof.Machine.execFsin o s
  | .fcos o => Sys2Proof.Machine.execFcos o s
  | .fabsF32 o => Sys2Proof.Machine.execFabsF32 o s
  | .fnegF32 o => Sys2Proof.Machine.execFnegF32 o s
  | .fsgnF32 o => Sys2Proof.Machine.execFsgnF32 o s
  | .faddF16Rm o => Sys2Proof.Machine.execFaddF16Rm o s
  | .fsubF16Rm o => Sys2Proof.Machine.execFsubF16Rm o s
  | .fmulF16Rm o => Sys2Proof.Machine.execFmulF16Rm o s
  | .fdivF16 o => Sys2Proof.Machine.execFdivF16 o s
  | .fsqrtF16 o => Sys2Proof.Machine.execFsqrtF16 o s
  | .frndF16 o => Sys2Proof.Machine.execFrndF16 o s
  | .fabsF16 o => Sys2Proof.Machine.execFabsF16 o s
  | .fnegF16 o => Sys2Proof.Machine.execFnegF16 o s
  | .fsgnF16 o => Sys2Proof.Machine.execFsgnF16 o s
  | .faddBf16Rm o => Sys2Proof.Machine.execFaddBf16Rm o s
  | .fsubBf16Rm o => Sys2Proof.Machine.execFsubBf16Rm o s
  | .fmulBf16Rm o => Sys2Proof.Machine.execFmulBf16Rm o s
  | .fdivBf16 o => Sys2Proof.Machine.execFdivBf16 o s
  | .fsqrtBf16 o => Sys2Proof.Machine.execFsqrtBf16 o s
  | .frndBf16 o => Sys2Proof.Machine.execFrndBf16 o s
  | .fabsBf16 o => Sys2Proof.Machine.execFabsBf16 o s
  | .fnegBf16 o => Sys2Proof.Machine.execFnegBf16 o s
  | .fsgnBf16 o => Sys2Proof.Machine.execFsgnBf16 o s
  | .cvtF16F32 o => Sys2Proof.Machine.execCvtF16F32 o s
  | .cvtBf16F32 o => Sys2Proof.Machine.execCvtBf16F32 o s
  | .cvtE4m3F32 o => Sys2Proof.Machine.execCvtE4m3F32 o s
  | .cvtE5m2F32 o => Sys2Proof.Machine.execCvtE5m2F32 o s
  | .cvtF32F16 o => Sys2Proof.Machine.execCvtF32F16 o s
  | .cvtF32Bf16 o => Sys2Proof.Machine.execCvtF32Bf16 o s
  | .cvtF32E4m3 o => Sys2Proof.Machine.execCvtF32E4m3 o s
  | .cvtF32E5m2 o => Sys2Proof.Machine.execCvtF32E5m2 o s
  | .cvtS32F32 o => Sys2Proof.Machine.execCvtS32F32 o s
  | .cvtN32F32 o => Sys2Proof.Machine.execCvtN32F32 o s
  | .cvtF32S32 o => Sys2Proof.Machine.execCvtF32S32 o s
  | .cvtF32N32 o => Sys2Proof.Machine.execCvtF32N32 o s
  | .cvtS64F32 o => Sys2Proof.Machine.execCvtS64F32 o s
  | .cvtF32S64 o => Sys2Proof.Machine.execCvtF32S64 o s
  | .cvtS8S32 o => Sys2Proof.Machine.execCvtS8S32 o s
  | .cvtS16S32 o => Sys2Proof.Machine.execCvtS16S32 o s
  | .qntQn4 o => Sys2Proof.Machine.execQntQn4 o s
  | .dqnQn4 o => Sys2Proof.Machine.execDqnQn4 o s
  | .shflB32 o => Sys2Proof.Machine.execShflB32 o s
  | .shflxB32 o => Sys2Proof.Machine.execShflxB32 o s
  | .voteAny o => Sys2Proof.Machine.execVoteAny o s
  | .voteAll o => Sys2Proof.Machine.execVoteAll o s
  | .ballot o => Sys2Proof.Machine.execBallot o s
  | .scanAddS32 o => Sys2Proof.Machine.execScanAddS32 o s
  | .scanxAddS32 o => Sys2Proof.Machine.execScanxAddS32 o s
  | .wredAddS32 o => Sys2Proof.Machine.execWredAddS32 o s
  | .wredMinS32 o => Sys2Proof.Machine.execWredMinS32 o s
  | .wredMaxS32 o => Sys2Proof.Machine.execWredMaxS32 o s
  | .wredMinN32 o => Sys2Proof.Machine.execWredMinN32 o s
  | .wredMaxN32 o => Sys2Proof.Machine.execWredMaxN32 o s
  | .wredAndB32 o => Sys2Proof.Machine.execWredAndB32 o s
  | .wredOrB32 o => Sys2Proof.Machine.execWredOrB32 o s
  | .wredXorB32 o => Sys2Proof.Machine.execWredXorB32 o s
  | .firstB32 o => Sys2Proof.Machine.execFirstB32 o s
  | .ldg o => Sys2Proof.Machine.execLdg o s
  | .stg o => Sys2Proof.Machine.execStg o s
  | .ldl o => Sys2Proof.Machine.execLdl o s
  | .stl o => Sys2Proof.Machine.execStl o s
  | .ldgTry o => Sys2Proof.Machine.execLdgTry o s
  | .stgTry o => Sys2Proof.Machine.execStgTry o s
  | .atom o => Sys2Proof.Machine.execAtom o s
  | .atom2 o => Sys2Proof.Machine.execAtom2 o s
  | .redF32 o => Sys2Proof.Machine.execRedF32 o s
  | .redF16 o => Sys2Proof.Machine.execRedF16 o s
  | .redBf16 o => Sys2Proof.Machine.execRedBf16 o s
  | .redS32 o => Sys2Proof.Machine.execRedS32 o s
  | .redS64 o => Sys2Proof.Machine.execRedS64 o s
  | .red2F16 o => Sys2Proof.Machine.execRed2F16 o s
  | .red2Bf16 o => Sys2Proof.Machine.execRed2Bf16 o s
  | .rfinF32 o => Sys2Proof.Machine.execRfinF32 o s
  | .rfinF16 o => Sys2Proof.Machine.execRfinF16 o s
  | .rfinBf16 o => Sys2Proof.Machine.execRfinBf16 o s
  | .rfinS32 o => Sys2Proof.Machine.execRfinS32 o s
  | .rfinS64 o => Sys2Proof.Machine.execRfinS64 o s
  | .tcopyGl o => Sys2Proof.Machine.execTcopyGl o s
  | .tcopyLg o => Sys2Proof.Machine.execTcopyLg o s
  | .tcopyLl o => Sys2Proof.Machine.execTcopyLl o s
  | .collRed o => Sys2Proof.Machine.execCollRed o s
  | .collBcast o => Sys2Proof.Machine.execCollBcast o s
  | .collAgat o => Sys2Proof.Machine.execCollAgat o s
  | .bwait o => Sys2Proof.Machine.execBwait o s
  | .waitc o => Sys2Proof.Machine.execWaitc o s
  | .monw o => Sys2Proof.Machine.execMonw o s
  | .qsend o => Sys2Proof.Machine.execQsend o s
  | .qrecv o => Sys2Proof.Machine.execQrecv o s
  | .fence o => Sys2Proof.Machine.execFence o s
  | .fbar o => Sys2Proof.Machine.execFbar o s
  | .bexp o => Sys2Proof.Machine.execBexp o s
  | .barr o => Sys2Proof.Machine.execBarr o s
  | .procEnter o => Sys2Proof.Machine.execProcEnter o s
  | .procLeave o => Sys2Proof.Machine.execProcLeave o s
  | .gbar o => Sys2Proof.Machine.execGbar o s
  | .mmaS8 o => Sys2Proof.Machine.execMmaS8 o s
  | .mmaE4m3 o => Sys2Proof.Machine.execMmaE4m3 o s
  | .mmaE5m2 o => Sys2Proof.Machine.execMmaE5m2 o s
  | .mmaQn4 o => Sys2Proof.Machine.execMmaQn4 o s
  | .mmaF16 o => Sys2Proof.Machine.execMmaF16 o s
  | .mmaBf16 o => Sys2Proof.Machine.execMmaBf16 o s
  | .msacc o => Sys2Proof.Machine.execMsacc o s
  | .mdrain o => Sys2Proof.Machine.execMdrain o s
  | .mdrainAdd o => Sys2Proof.Machine.execMdrainAdd o s
  | .mclear o => Sys2Proof.Machine.execMclear o s
  | .cover o => Sys2Proof.Machine.execCover o s
  | .flins o => Sys2Proof.Machine.execFlins o s
  | .flrep o => Sys2Proof.Machine.execFlrep o s
  | .flget o => Sys2Proof.Machine.execFlget o s
  | .flclr o => Sys2Proof.Machine.execFlclr o s
  | .trace o => Sys2Proof.Machine.execTrace o s
  | .boxu o => Sys2Proof.Machine.execBoxu o s
  | .sah o => Sys2Proof.Machine.execSah o s
  | .npack o => Sys2Proof.Machine.execNpack o s
  | .sampleD o => Sys2Proof.Machine.execSampleD o s
  | .sampleC o => Sys2Proof.Machine.execSampleC o s
  | .sampleL o => Sys2Proof.Machine.execSampleL o s
  | .rmapinv o => Sys2Proof.Machine.execRmapinv o s
  | .trap n => Sys2Proof.Machine.execTrap n s
  | .tret => Sys2Proof.Machine.execTret s
  | .srd o => Sys2Proof.Machine.execSrd o s
  | .swr o => Sys2Proof.Machine.execSwr o s
  | .halt => Sys2Proof.Machine.execHalt s
  | .brk n => Sys2Proof.Machine.execBrk n s
  | .prog n => Sys2Proof.Machine.execProg n s
  | .ckmark n => Sys2Proof.Machine.execCkmark n s
  | .dictionaryParcel k => Sys2Proof.Machine.execDictionaryParcel k s
  | .scoutEnd w f => Sys2Proof.Machine.execScoutEnd w f s
  | .heldRecordPost origin => Sys2Proof.Machine.execHeldRecordPost origin s
  | .urgent w f => Sys2Proof.Machine.execUrgent w f s
  | .waitEnd w f => Sys2Proof.Machine.execWaitEnd w f s
  | .waitDeadline w f => Sys2Proof.Machine.execWaitDeadline w f s
  | .idesPoint w f => Sys2Proof.Machine.execIdesPoint w f s
  | .monitorPoll w f => Sys2Proof.Machine.execMonitorPoll w f s
  | .processionAdmit w f => Sys2Proof.Machine.execProcessionAdmit w f s
  | .lentHoldExpiry w f => Sys2Proof.Machine.execLentHoldExpiry w f s
  | .engineUnitRead op k => Sys2Proof.Machine.execEngineUnitRead op k s
  | .copyCompletion op => Sys2Proof.Machine.execCopyCompletion op s
  | .matrixCompletion op => Sys2Proof.Machine.execMatrixCompletion op s
  | .drainCompletion op => Sys2Proof.Machine.execDrainCompletion op s
  | .traceCompletion op => Sys2Proof.Machine.execTraceCompletion op s
  | .coverResult w r => Sys2Proof.Machine.execCoverResult w r s
  | .sampleResult w r => Sys2Proof.Machine.execSampleResult w r s
  | .fleResult w r => Sys2Proof.Machine.execFleResult w r s
  | .rmapinvComplete w f => Sys2Proof.Machine.execRmapinvComplete w f s
  | .mapCopyExpiry core unit => Sys2Proof.Machine.execMapCopyExpiry core unit s
  | .collectiveDecision handle => Sys2Proof.Machine.execCollectiveDecision handle s
  | .collectiveDeadline op => Sys2Proof.Machine.execCollectiveDeadline op s
  | .collectiveDecisionTimeout op => Sys2Proof.Machine.execCollectiveDecisionTimeout op s
  | .qmDoorbell q tail => Sys2Proof.Machine.execQmDoorbell q tail s
  | .nopEntry q => Sys2Proof.Machine.execNopEntry q s
  | .launch q => Sys2Proof.Machine.execLaunch q s
  | .fenceEntry q => Sys2Proof.Machine.execFenceEntry q s
  | .queueEnable q => Sys2Proof.Machine.execQueueEnable q s
  | .queueDisable q => Sys2Proof.Machine.execQueueDisable q s
  | .queueClearError q => Sys2Proof.Machine.execQueueClearError q s
  | .qmEnable on => Sys2Proof.Machine.execQmEnable on s
  | .deviceHalt on => Sys2Proof.Machine.execDeviceHalt on s
  | .launchReady l => Sys2Proof.Machine.execLaunchReady l s
  | .dependencePoll l second => Sys2Proof.Machine.execDependencePoll l second s
  | .priorityAging l => Sys2Proof.Machine.execPriorityAging l s
  | .reserving g => Sys2Proof.Machine.execReserving g s
  | .swapEligible g => Sys2Proof.Machine.execSwapEligible g s
  | .gangPlacement first => Sys2Proof.Machine.execGangPlacement first s
  | .stopComplete g => Sys2Proof.Machine.execStopComplete g s
  | .saveBankWrite b => Sys2Proof.Machine.execSaveBankWrite b s
  | .gangHaltComplete g => Sys2Proof.Machine.execGangHaltComplete g s
  | .install t => Sys2Proof.Machine.execInstall t s
  | .update t => Sys2Proof.Machine.execUpdate t s
  | .ctxEnd t => Sys2Proof.Machine.execCtxEnd t s
  | .rightsinv t => Sys2Proof.Machine.execRightsinv t s
  | .replay t => Sys2Proof.Machine.execReplay t s
  | .replayall t => Sys2Proof.Machine.execReplayall t s
  | .stop t => Sys2Proof.Machine.execStop t s
  | .dbgsave t => Sys2Proof.Machine.execDbgsave t s
  | .dbgload t => Sys2Proof.Machine.execDbgload t s
  | .suspend t => Sys2Proof.Machine.execSuspend t s
  | .resume t => Sys2Proof.Machine.execResume t s
  | .resumegang t => Sys2Proof.Machine.execResumegang t s
  | .invalidateRange wb discard => Sys2Proof.Machine.execInvalidateRange wb discard s
  | .completeMigration => Sys2Proof.Machine.execCompleteMigration s
  | .fbEnable v => Sys2Proof.Machine.execFbEnable v s
  | .fbRd v => Sys2Proof.Machine.execFbRd v s
  | .interruptStatusClear vector v => Sys2Proof.Machine.execInterruptStatusClear vector v s
  | .msixUnmask vector => Sys2Proof.Machine.execMsixUnmask vector s
  | .registerWrite off bytes v => Sys2Proof.Machine.execRegisterWrite off bytes v s
  | .physicalWindowRead x bytes => Sys2Proof.Machine.execPhysicalWindowRead x bytes s
  | .physicalWindowWrite x units => Sys2Proof.Machine.execPhysicalWindowWrite x units s
  | .hostAtomicop bar x => Sys2Proof.Machine.execHostAtomicop bar x s
  | .hostSnoop line => Sys2Proof.Machine.execHostSnoop line s
  | .atsInvalidation start bytes => Sys2Proof.Machine.execAtsInvalidation start bytes s
  | .functionLevelReset linkDown => Sys2Proof.Machine.execFunctionLevelReset linkDown s
  | .mrstN => Sys2Proof.Machine.execMrstN s
  | .pwrenRise => Sys2Proof.Machine.execPwrenRise s
  | .pwrenFall => Sys2Proof.Machine.execPwrenFall s
  | .railOutOfTolerance => Sys2Proof.Machine.execRailOutOfTolerance s
  | .idle port flit => Sys2Proof.Machine.execIdle port flit s
  | .read port flit => Sys2Proof.Machine.execRead port flit s
  | .write port flit units => Sys2Proof.Machine.execWrite port flit units s
  | .atomic port flit => Sys2Proof.Machine.execAtomic port flit s
  | .contrib port flit => Sys2Proof.Machine.execContrib port flit s
  | .cellmerge port flit units => Sys2Proof.Machine.execCellmerge port flit units s
  | .monarm port flit => Sys2Proof.Machine.execMonarm port flit s
  | .moncancel port flit => Sys2Proof.Machine.execMoncancel port flit s
  | .sliceop port flit => Sys2Proof.Machine.execSliceop port flit s
  | .unitop port flit units => Sys2Proof.Machine.execUnitop port flit units s
  | .rsp port flit => Sys2Proof.Machine.execRsp port flit s
  | .nackResend req => Sys2Proof.Machine.execNackResend req s
  | .data port flit => Sys2Proof.Machine.execData port flit s
  | .credit port flit => Sys2Proof.Machine.execCredit port flit s
  | .retry port flit => Sys2Proof.Machine.execRetry port flit s
  | .down port flit => Sys2Proof.Machine.execDown port flit s
  | .probe port flit => Sys2Proof.Machine.execProbe port flit s
  | .probeans port flit => Sys2Proof.Machine.execProbeans port flit s
  | .flitDrop port flit => Sys2Proof.Machine.execFlitDrop port flit s
  | .collContributionData port flit units => Sys2Proof.Machine.execCollContributionData port flit units s
  | .collReadsDone port flit => Sys2Proof.Machine.execCollReadsDone port flit s
  | .collCommit port flit units => Sys2Proof.Machine.execCollCommit port flit units s
  | .collCancel port flit => Sys2Proof.Machine.execCollCancel port flit s
  | .portDown port => Sys2Proof.Machine.execPortDown port s
  | .portUp port peer => Sys2Proof.Machine.execPortUp port peer s
  | .requestTimeout req => Sys2Proof.Machine.execRequestTimeout req s
  | .rejoin d => Sys2Proof.Machine.execRejoin d s
  | .markDown d => Sys2Proof.Machine.execMarkDown d s
  | .probeTimeout d => Sys2Proof.Machine.execProbeTimeout d s
  | .calStep ns => Sys2Proof.Machine.execCalStep ns s
  | .ptpEventMessage headers message => Sys2Proof.Machine.execPtpEventMessage headers message s
  | .locked => Sys2Proof.Machine.execLocked s
  | .sensorSample sample => Sys2Proof.Machine.execSensorSample sample s
  | .sensors => Sys2Proof.Machine.execSensors s
  | .log => Sys2Proof.Machine.execLog s
  | .fwstage => Sys2Proof.Machine.execFwstage s
  | .fwcommit => Sys2Proof.Machine.execFwcommit s
  | .fwconfirm => Sys2Proof.Machine.execFwconfirm s
  | .attest => Sys2Proof.Machine.execAttest s
  | .setcap => Sys2Proof.Machine.execSetcap s
  | .idcert => Sys2Proof.Machine.execIdcert s
  | .timecfg => Sys2Proof.Machine.execTimecfg s
  | .vendorDefinedMessage headers body => Sys2Proof.Machine.execVendorDefinedMessage headers body s
  | .setEndpointId headers control data => Sys2Proof.Machine.execSetEndpointId headers control data s
  | .getEndpointId packet => Sys2Proof.Machine.execGetEndpointId packet s
  | .getMctpVersionSupport headers body => Sys2Proof.Machine.execGetMctpVersionSupport headers body s
  | .getMessageTypeSupport packet => Sys2Proof.Machine.execGetMessageTypeSupport packet s
  | .getVendorDefinedMessageSupport headers body => Sys2Proof.Machine.execGetVendorDefinedMessageSupport headers body s
  | .illegalInstruction w => Sys2Proof.Machine.execIllegalInstruction w s
  | .badentry q => Sys2Proof.Machine.execBadentry q s
  | .mrstNDrivenLow => Sys2Proof.Machine.execMrstNDrivenLow s
  | .hostLinkUp => Sys2Proof.Machine.execHostLinkUp s
  | .hostRequestCompletion req answer => Sys2Proof.Machine.execHostRequestCompletion req answer s
  | .ptmResponse offset => Sys2Proof.Machine.execPtmResponse offset s

end Sys2Proof.Machine
end

