-- ==== Sys2Proof/Machine/Sched.lean ====
section
/-! DEFINITION. Who moves next: the turns of a clk, which are the steps that have fallen due and one issue for each quarter (R22,
R23), their order among what the outside world brings in the same clk, and the end of a turn. -/

namespace Sys2Proof.Machine

/-! ## Who can issue (R22, R23, R301, R304, R352) -/

/-- Records that fill a core's hold queue: none of its fibres issues then (R352). -/
def holdsFull (s : State) (cluster core : Nat) : Bool := decide (16 ≤ (s.held.filter fun h => h.1 == .core cluster core).length)
/-- Whether a Vigil record of a fibre is still to be written (R301). -/
def vigilPending (s : State) (w k : Nat) : Bool :=
  s.notes.any fun n => match n with
    | .vigil _ w' k' _ => w' == w && k' == k
    | .writing _ _ who _ => who == some (w, k)
    | .harvest .. => false
/-- Whether a wave's holder can issue: its gang runs, or stops and it has an instruction to finish, and nothing holds it back. A
gang that is asked to halt runs while `halting`. -/
def mayIssue (s : State) (w : Nat) (halting : Bool) : Bool :=
  match get? s.waves w with
  | none => false
  | some x =>
    match get? s.gangs x.gang, x.holder with
    | some g, some k =>
      let f := x.fibres.getD k Fibre.blank
      let moves := f.state == .holding || f.state == .trap || f.state == .scout
      let free := (g.state == .running && (halting || !(asksHalt s x.gang g))) || ((g.state == .running || g.state == .stopping) && f.answered)
      let scouts := f.retry.isSome || !(f.scout.any (·.ended))
      moves && free && f.wait.isNone && scouts && !(holdsFull s g.cluster (g.core + x.member)) && !(vigilPending s w k)
    | _, _ => false
/-- Whether a wave can issue in a clk that begins. -/
def canIssue (s : State) (w : Nat) : Bool := mayIssue s w false
/-- Cluster, core and quarter of a wave. -/
def quarterOf (s : State) (x : Wave) : Nat × Nat × Nat :=
  match get? s.gangs x.gang with
  | some g => (g.cluster, g.core + x.member, x.index % 4)
  | none => (0, 0, 0)
/-- Whether one wave goes before another in its quarter: urgent holders first, then the oldest wave, then the lower slot (R23). -/
def goesFirst (a b : Wave) : Bool :=
  let urgent (x : Wave) : Bool := x.holder.any fun k =>
    let f := x.fibres.getD k Fibre.blank; f.urgent || decide (256 ≤ f.urgency)
  if urgent a != urgent b then urgent a
  else if a.created != b.created then decide (a.created.toNat < b.created.toNat)
  else decide (a.slot < b.slot)
/-- The wave that each quarter issues from, among those that can issue (R22, R23). -/
def arbitrate (s : State) : List (Nat × Wave) → List (Nat × Wave)
  | [] => []
  | p :: t =>
    let rest := arbitrate s t
    let q := quarterOf s p.2
    match rest.find? fun r => quarterOf s r.2 == q with
    | none => p :: rest
    | some r => if goesFirst p.2 r.2 then p :: rest.filter fun x => x.1 != r.1 else rest
/-- Whether the throttle skips this clk (R386). -/
def skipped (s : State) : Bool := decide (s.clk % 16 < s.mgc.throttle)
/-- The issues of a clk. -/
def issues (s : State) : List Turn :=
  if skipped s then []
  else (arbitrate s (s.waves.filter fun p => canIssue s p.1)).map fun p => .issue p.1
/-- The other holders of the quarter that could have issued have waited one issue cycle longer (R23). -/
def raiseUrgency (s : State) (w : Nat) : State :=
  match get? s.waves w with
  | none => s
  | some x =>
    { s with waves := s.waves.map fun p =>
        if p.1 != w && quarterOf s p.2 == quarterOf s x && canIssue s p.1 then
          (p.1, { p.2 with fibres := match p.2.holder with
            | some k => modAt p.2.fibres k fun (f : Fibre) => { f with urgency := f.urgency + 1 }
            | none => p.2.fibres })
        else p }

/-! ## What has fallen due -/

/-- Steps of a fibre. -/
def fibreDues (s : State) (w k : Nat) : List Due :=
  (if scoutDue s w k then [.scoutEnd w k] else []) ++ (if lentDue s w k then [.lentHoldExpiry w k] else [])
    ++ (if admitDue s w k then [.processionAdmit w k] else []) ++ (if canEnd s w k then [.waitEnd w k] else [])
    ++ (if rmapinvDue s w k then [.rmapinvComplete w k] else []) ++ (if pollDue s w k then [.monitorPoll w k] else [])
    ++ (if deadlineDue s w k then [.waitDeadline w k] else []) ++ (if idesDue s w k then [.idesPoint w k] else [])
    ++ (let f := fibreAt s w k; if 256 ≤ f.urgency && !f.urgent then [.urgent w k] else [])
/-- Results of units (R224, R230, R239); the throttle skips theirs (R386). -/
def resultDues (s : State) (p : Nat × Wave) : List Due :=
  if skipped s then [] else p.2.pending.map fun r => match r.2.kind with
    | .cover => .coverResult p.1 r.1
    | .list => .fleResult p.1 r.1
    | .sample => .sampleResult p.1 r.1
/-- The completion of an operation. -/
def completion (id cls : Nat) : List Due :=
  match cls with
  | 0 => [.copyCompletion id]
  | 1 => [.matrixCompletion id]
  | 2 => [.traceCompletion id]
  | 4 => [.drainCompletion id]
  | _ => []
/-- Steps of an operation: a unit read and the completion, each in a clk that a free value chooses, at the latest 6,144 clk
after the issue (R102, R201, R222). The throttle skips clks of all units but the COE (R386). -/
def opDues (s : State) (id : Nat) (o : Op) : State × List Due :=
  let c := s.takeFree
  let late := decide (o.issued + 6144 ≤ s.clk)
  let n := o.kind.units.length
  let unread := (List.range n).filter fun k => (o.kind.units[k]?).any fun u => (o.read? u).isNone
  let reads := if o.cls = 3 && late then unread else if c.2.getLsbD 0 && n != 0 then [(c.2 >>> 8).toNat % n] else []
  let ends := if c.2.getLsbD 1 || late then completion id o.cls else []
  let works := if skipped s && o.cls != 3 then [] else reads.map (fun k => Due.engineUnitRead id k) ++ ends
  (c.1, works
    ++ (if collDeadlineDue s id then [.collectiveDeadline id] else []) ++ (if decisionLate s id then [.collectiveDecisionTimeout id] else []))
/-- Steps of every operation. -/
def allOpDues (s : State) : State × List Due :=
  s.ops.foldl (fun r p => let x := opDues r.1 p.1 p.2; (x.1, r.2 ++ x.2)) (s, [])
/-- The entry of a queue that is to be read (R332). -/
def queueDues (s : State) (q : Nat) : List Due :=
  let n := BitVec.ofNat 10 q
  if s.waiting.any fun d => d == .nopEntry n || d == .launch n || d == .fenceEntry n || d == .badentry n then []
  else match (readEntry s q).2 with
    | .none => []
    | .bad _ => [.badentry n]
    | .nop => [.nopEntry n]
    | .fence => [.fenceEntry n]
    | _ => [.launch n]
/-- Steps of a launch. -/
def launchDues (s : State) (l : Nat) : List Due :=
  (if readyDue s l then [.launchReady l] else []) ++ (if agingDue s l then [.priorityAging l] else [])
    ++ [false, true].filterMap fun b => if depDue s l b && !(s.waiting.contains (.dependencePoll l b)) then some (.dependencePoll l b) else none
/-- Steps of a gang. -/
def gangDues (s : State) (g : Nat) : List Due :=
  (if stopDone s g then [.stopComplete g] else []) ++ (if haltDue s g then [.gangHaltComplete g] else []) ++ (if swapDue s g then [.swapEligible g] else [])
/-- The placer's turn, in every fourth clk, with the saved state that must leave first (R334, R356); a placement that waits for an
answer has it until it is made. -/
def placerDues (s : State) : State × List Due :=
  if s.clk % 4 != 0 then (s, [])
  else
    let s0 := placerReady s
    let woken := decide (s0.gangs != s.gangs)
    let held := s.waiting.findSome? Due.placing
    if (bids s0).isEmpty && !woken && held.isNone then (s, [])
    else
      let c := match held with | some n => (s, n) | none => let c := s.takeFree; (c.1, c.2.toNat % 64)
      match placerAct s0 c.2 with
      | some (.place b cl core) =>
        (c.1, (inTheWay s0 b.hdr cl core (savedOf b.cand)).map (fun y => Due.saveBankWrite y.1 y.2) ++ [.gangPlacement c.2])
      | some _ => (c.1, [.gangPlacement c.2])
      | none => (c.1, if woken || held.isSome then [.gangPlacement c.2] else [])
/-- Steps of the fabric, of collectives, of held records, of map copies and of the Calends. -/
def otherDues (s : State) : List Due :=
  (keysWhere s.requests fun _ => true).flatMap (fun r =>
      (if nackDue s r then [.nackResend r] else []) ++ (if timeoutDue s r then [.requestTimeout r] else []))
    ++ s.probes.filterMap (fun p => if probeDue s p.1 then some (.probeTimeout (BitVec.ofNat 7 p.1)) else none)
    ++ (s.collIssues.map (·.handle)).eraseDups.filterMap (fun h => if decisionDue s h then some (.collectiveDecision h) else none)
    ++ (s.held.map (·.1)).eraseDups.filterMap (fun o => if heldDue s o then some (.heldRecordPost o) else none)
    ++ s.maps.filterMap (fun m => if mapDue s m then some (.mapCopyExpiry m.txu m.unit) else none)
    ++ (if lockedDue s then [.locked] else [])
/-- Whether a dirty sector may leave L2 of its own accord: a system-shared one waits for a fence or for its launch, since the host
may not see its bytes earlier (R118). -/
def mayLeave (s : State) (k : Nat) : Bool := (get? s.l2 k).any fun d => !d.sys
/-- A sector leaves L2 of its own accord, if it may. -/
def leaveL2 (s : State) (k : Nat) : State := if mayLeave s k then (writeBack s k).1 else s
/-- A dirty sector that L2 writes back of its own accord, when a free value says so (R118). -/
def spontaneous (s : State) : State × List Turn :=
  let ks := (s.l2.map (·.1)).filter (mayLeave s)
  if ks.isEmpty then (s, [])
  else
    let c := s.takeFree
    if c.2.getLsbD 0 then (c.1, ((ks[(c.2 >>> 8).toNat % ks.length]?).map Turn.writeBack).toList) else (c.1, [])

/-- A command of the mailbox, when a free value says so, and at the latest as R382 says. -/
def mailboxDues (s : State) : State × List Due :=
  if s.mgc.jobs.isEmpty || !(busUp s) then (s, [])
  else
    let c := s.takeFree
    (c.1, if c.2.getLsbD 0 || mailboxLate s then [.mailbox] else [])
/-- Whether nothing of the device's own waits for an answer, so that no answer is still wanted. -/
def deviceIdle (s : State) : Bool :=
  s.waiting.isEmpty && s.posting.isEmpty && s.notes.isEmpty && s.tablesDirty.isEmpty && s.launches.all fun p => p.2.phase == 0
/-- The turns that a clk brings by itself: what has fallen due, and one issue for each quarter. -/
def plan (s : State) : State × List Turn :=
  let d := mailboxDues s
  let logs := s.correctedErrors.filterMap fun x => if correctedDue s x.1 then some (Turn.correctedLog x.1) else none
  if !s.live then (d.1, d.2.map Turn.due ++ logs)
  else
    let s0 := if deviceIdle s then { d.1 with deviceAnswers := [] } else d.1
    let a := allOpDues s0
    let b := placerDues a.1
    let c := spontaneous b.1
    let fibres := s.waves.flatMap fun p => (List.range p.2.fibres.length).flatMap fun k => fibreDues s p.1 k
    let dues := fibres ++ s.waves.flatMap (resultDues s) ++ a.2 ++ (s.queues.map (·.1)).flatMap (queueDues s)
      ++ (s.launches.map (·.1)).flatMap (launchDues s) ++ (s.gangs.map (·.1)).flatMap (gangDues s)
      ++ (bids s).filterMap (fun x => if reservingDue s x.cand then some (.reserving x.cand) else none)
      ++ b.2 ++ otherDues s ++ d.2
    (c.1, dues.map Turn.due ++ c.2 ++ logs ++ issues s)

/-! ## The order within a clk -/

/-- The place of a step within its clk: results of units land after the accesses of the clk (R64); what a deadline of a
collective or of a request brings comes after every other event (R46, R204), then the deadlines and Ides points of waits, whose
condition goes first (R30, R33); gangs are placed with what has become free by then. -/
def Due.rank : Due → Nat
  | .coverResult .. => 2
  | .sampleResult .. => 2
  | .fleResult .. => 2
  | .collectiveDeadline _ => 3
  | .collectiveDecisionTimeout _ => 3
  | .requestTimeout _ => 3
  | .probeTimeout _ => 3
  | .waitDeadline .. => 4
  | .idesPoint .. => 4
  | .saveBankWrite .. => 5
  | .gangPlacement _ => 5
  | _ => 0
/-- The queue whose doorbell an event writes (R332). -/
def doorbellOf : Instr → Option Nat
  | .qmDoorbell q _ => some q.toNat
  | .registerWrite off bytes _ =>
    if decide (0x10000 ≤ off) && decide (off < 0x12000) && off % 8 == 0 && bytes == 4 then some ((off - 0x10000) / 8) else none
  | _ => none
/-- The queue that an event disables. -/
def disableOf : Instr → Option Nat
  | .queueDisable q => some q.toNat
  | .registerWrite off bytes v => if off == 0x10 && bytes == 4 && bitsOf v.toNat 13 12 == 2 then some (bitsOf v.toNat 9 0) else none
  | _ => none
/-- Whether an event comes over the management bus. -/
def isBus : Instr → Bool
  | .vendorDefinedMessage _ _ => true
  | .setEndpointId _ _ _ => true
  | .getEndpointId _ => true
  | .getMctpVersionSupport _ _ => true
  | .getMessageTypeSupport _ => true
  | .getVendorDefinedMessageSupport _ _ => true
  | _ => false
/-- Whether an event comes over the fabric. -/
def isFabric : Instr → Bool
  | .idle .. => true
  | .read .. => true
  | .write .. => true
  | .atomic .. => true
  | .contrib .. => true
  | .cellmerge .. => true
  | .monarm .. => true
  | .moncancel .. => true
  | .sliceop .. => true
  | .unitop .. => true
  | .rsp .. => true
  | .data .. => true
  | .credit .. => true
  | .retry .. => true
  | .down .. => true
  | .probe .. => true
  | .probeans .. => true
  | .flitDrop .. => true
  | .collContributionData .. => true
  | .collReadsDone .. => true
  | .collCommit .. => true
  | .collCancel .. => true
  | .portDown _ => true
  | .portUp .. => true
  | _ => false
/-- The place of a turn within its clk: what the device, the fabric and the host's answers bring, the issues, the results of
units, what has come too late, the host's commands (R341) in the order of their arrival (R363), and the management bus (R382). -/
def Turn.rank : Turn → Nat
  | .due d => d.rank
  | .issue _ => 1
  | .event (.hostRequestCompletion ..) => 0
  | .event i => if isFabric i then 0 else if isBus i then 7 else 6
  | _ => 0
/-- Whether an instruction may store to the register aperture (R63). -/
def storesLocal : Instr → Bool
  | .stl _ => true
  | .flins _ => true
  | .flrep _ => true
  | .flget _ => true
  | .flclr _ => true
  | _ => false
/-- Whether the instruction that a wave is about to issue may store to the register aperture. -/
def issuesStore (s : State) (w : Nat) : Bool :=
  match (beginIssue s w).2 with
  | some (.instr (.dictionaryParcel k)) =>
    let t := (beginIssue s w).1
    ((hereOf t).bind fun h => (h.dictionary[k.toNat]?).bind fun v => decodeWord v h.i.lit).any storesLocal
  | some (.instr i) => storesLocal i
  | _ => false
/-- Whether a turn of the same rank goes before one that stands earlier: a disable before a doorbell write of its queue (R332), and
an issue that may write another strand's register before one that writes its own (R64). -/
def goesBefore (s : State) : Turn → Turn → Bool
  | .event i, .event j => match doorbellOf i, disableOf j with | some q, some r => q == r | _, _ => false
  | .issue w, .issue v => issuesStore s v && !(issuesStore s w)
  | _, _ => false
/-- The turns of the current clk, and what follows. -/
def splitClk : List Turn → List Turn × List Turn
  | [] => ([], [])
  | .elapse n :: t => ([], .elapse n :: t)
  | x :: t => (x :: (splitClk t).1, (splitClk t).2)
/-- The first turn of the least rank, and the others. -/
def takeLeast : List Turn → Option (Turn × List Turn)
  | [] => none
  | x :: t =>
    match takeLeast t with
    | none => some (x, t)
    | some (y, rest) => if x.rank ≤ y.rank then some (x, t) else some (y, x :: rest)
/-- A turn that has been taken, or the first of the others that goes before it. -/
def yieldTo (s : State) (t : Turn) (rest : List Turn) : Turn × List Turn :=
  match rest.find? (goesBefore s t) with
  | some u => (u, t :: rest.erase u)
  | none => (t, rest)
/-- The clk's own turns put into the agenda, once. -/
def planned (s : State) : State :=
  if s.planned = some s.clk then s
  else
    let p := plan s
    { p.1 with planned := some s.clk, agenda := p.2 ++ s.agenda }
/-- The next turn: the clk passes when nothing of it is left. -/
def nextTurn (s : State) : State × Turn :=
  let a := splitClk s.agenda
  match takeLeast a.1, a.2 with
  | some (t, rest), later => let r := yieldTo s t rest; ({ s with agenda := r.2 ++ later }, r.1)
  | none, .elapse n :: later => ({ s with agenda := if n ≤ 1 then later else .elapse (n - 1) :: later }, .elapse (min n 1))
  | none, _ => ({ s with agenda := [] }, .elapse 1)

/-! ## A turn of a wave -/

/-- A wave's turn begins: its quarter's other holders wait longer, and its holder fetches (R22 to R25). -/
def beginTurn (s : State) (w : Nat) : State × Option Fetched := beginIssue (raiseUrgency s w) w

/-! ## The end of a turn -/

/-- Dirty sectors of an L2 slice. -/
def dirtyOf (s : State) (slice : Nat) : List Nat := (s.l2.filter fun p => sliceOf (secStart s p.1) == slice).map (·.1)
/-- The first of some dirty sectors that can be written back is. -/
def writeBackFirst (s : State) : List Nat → State
  | [] => s
  | k :: t => let x := writeBack s k; match x.2 with | none => x.1 | some _ => writeBackFirst x.1 t
/-- A slice holds 768 KiB, 16,384 sectors (R2): a slice with more dirty ones writes one back, the first that can be from one on that
a free value chooses. While none can, it holds more: the spec says what stays dirty (R347, R354), and not where (DESIGN CHOICE, log
48). -/
def makeRoom (s : State) (slice : Nat) : State :=
  if (dirtyOf s slice).length ≤ 16384 then s
  else
    let ks := (dirtyOf s slice).filter (mayLeave s)
    let c := s.takeFree
    let n := c.2.toNat % (ks.length + 1)
    writeBackFirst c.1 (ks.drop n ++ ks.take n)
/-- The slices that hold too much write back as many sectors as they must. -/
def boundL2 (s : State) : State :=
  if s.l2.length ≤ 16384 then s
  else (List.range 128).foldl (fun s n => (List.range ((dirtyOf s n).length - 16384)).foldl (fun s _ => makeRoom s n) s) s
/-- A turn is over: no instruction is being issued, what waited for an operation's writes goes on (R102), peers learn which of their
monitors have woken (R113, R370), and L2 holds no more than it can. -/
def endTurn (s : State) : State := boundL2 (sendWakes (releaseWays { s with issue := none }))

end Sys2Proof.Machine
end

