-- ==== Sys2Proof/Machine/Step.lean ====
section
/-! DEFINITION. One step of the device, and an instruction word placed where the next step fetches it. -/

namespace Sys2Proof.Machine

/-- An outcome with its next state changed. -/
def thenDo (f : State → State) : Host.Outcome State Fault Refusal → Host.Outcome State Fault Refusal
  | .next t => .next (f t)
  | .fault x => .fault x
  | .refused x => .refused x

/-- One turn of a wave: its holder's next instruction, fetched and performed (R22 to R25); another quarter's stop in the same clk
does not take it away (R305). -/
def stepIssue (s : State) (w : Nat) : Host.Outcome State Fault Refusal :=
  if !(mayIssue s w true) then .next s
  else
    let b := beginTurn s w
    match b.2 with
    | none => .next b.1
    | some (.instr i) => exec i b.1
    | some (.unassigned v) => execIllegalInstruction v b.1

/-- A step that has fallen due: the meaning of its row. -/
def stepDue (s : State) : Due → Host.Outcome State Fault Refusal
  | .scoutEnd w f => execScoutEnd w f s
  | .heldRecordPost o => execHeldRecordPost o s
  | .urgent w f => execUrgent w f s
  | .waitEnd w f => execWaitEnd w f s
  | .waitDeadline w f => execWaitDeadline w f s
  | .idesPoint w f => execIdesPoint w f s
  | .monitorPoll w f => execMonitorPoll w f s
  | .processionAdmit w f => execProcessionAdmit w f s
  | .lentHoldExpiry w f => execLentHoldExpiry w f s
  | .engineUnitRead op k => execEngineUnitRead op k s
  | .copyCompletion op => execCopyCompletion op s
  | .matrixCompletion op => execMatrixCompletion op s
  | .drainCompletion op => execDrainCompletion op s
  | .traceCompletion op => execTraceCompletion op s
  | .coverResult w r => execCoverResult w r s
  | .sampleResult w r => execSampleResult w r s
  | .fleResult w r => execFleResult w r s
  | .rmapinvComplete w f => execRmapinvComplete w f s
  | .mapCopyExpiry core unit => execMapCopyExpiry core unit s
  | .collectiveDecision h => execCollectiveDecision h s
  | .collectiveDeadline op => execCollectiveDeadline op s
  | .collectiveDecisionTimeout op => execCollectiveDecisionTimeout op s
  | .nopEntry q => execNopEntry q s
  | .launch q => execLaunch q s
  | .fenceEntry q => execFenceEntry q s
  | .badentry q => execBadentry q s
  | .queueEnable q => execQueueEnable q s
  | .queueClearError q => execQueueClearError q s
  | .launchReady l => execLaunchReady l s
  | .dependencePoll l b => execDependencePoll l b s
  | .priorityAging l => execPriorityAging l s
  | .reserving g => execReserving g s
  | .swapEligible g => execSwapEligible g s
  | .gangPlacement n => execGangPlacement n s
  | .stopComplete g => execStopComplete g s
  | .saveBankWrite g b => execSaveBankWrite (g, b) s
  | .gangHaltComplete g => execGangHaltComplete g s
  | .install t => execInstall t s
  | .update t => execUpdate t s
  | .rightsinv t => execRightsinv t s
  | .nackResend r => execNackResend r s
  | .requestTimeout r => execRequestTimeout r s
  | .probeTimeout d => execProbeTimeout d s
  | .locked => execLocked s
  | .mailbox => event (serveJob s fun _ => true)

/-- An uncorrectable error arises: a DRAM or L2 sector is poisoned when the error is found, the rest at once (R392). -/
def bitError (s : State) : ErrorAt → State
  | .dram p => { s with latent := insertNew s.latent p }
  | .l2 k => { s with l2 := upd s.l2 k fun d => { d with latent := true } }
  | .store g u => modGang s g fun x => { x with badMem := insertNew x.badMem u }
  | .register w r q => modWave s w fun x => { x with bad := put x.bad r (((get? x.bad r).getD 0) ||| (15#32 <<< (4 * q.val))) }
  | .acc g u => modGang s g fun x => { x with badAcc := insertNew x.badAcc u }

/-- One turn. When a clk passes, slots without a holder go to fibres that became ready in it (R28). -/
def stepTurn (s : State) : Turn → Host.Outcome State Fault Refusal
  | .elapse n => .next ((grantAll s).elapse n)
  | .issue w => thenDo endTurn (stepIssue s w)
  | .due d => thenDo endTurn (stepDue s d)
  | .event i => thenDo endTurn (exec i s)
  | .bitError e => .next (bitError s e)
  | .corrected n => .next (countCorrected s n)
  | .correctedLog n => .next (logCorrected s n)
  | .writeBack k => .next (leaveL2 s k)

/-- One step: the next turn of the clk, which has been planned. -/
def step (s : State) : Host.Outcome State Fault Refusal :=
  let t := nextTurn (planned s)
  stepTurn t.1 t.2

/-- The kernel of one wave of one fibre that `withFetchWord` places: no scratch beyond one granule, its code at byte 192. -/
def probeHeader (base : Quad) : Header where
  addr := base
  regs := 128
  fibres := 1
  members := 1
  scratch := 32768
  acc := 16
  stages := [0]
  waves := [1]
  win := [(0, 128), (0, 0), (0, 0), (0, 0)]
  shared := []
  entry := [0]
  coff := 192
  clen := 64
  dict := []

/-- `s` with an instruction placed where the next step fetches: a context, a page table of one 192 MiB page, and a placed
gang of one wave whose strands stand at the instruction (log 15). -/
def State.withFetchWord (s : State) (nbits w : Nat) : State :=
  let base : Quad := BitVec.ofNat 64 (s.devId.toNat * 2 ^ 57)
  let hdr := probeHeader base
  let pc := base + 192
  let code := (if nbits ≤ 16 then bytesOf [BitVec.ofNat 16 w] else bytesOf (splitWord (BitVec.ofNat 32 w))) ++ List.replicate 8 0
  let ctx : Context := {
    dbg := false, ides := 2 ^ 62, handlerAddr := pc, handler := hdr, harvest := 0, vigil := 0, pool := base, poolPages := 1
    rightsAt := base, rcount := 1, rights := [{ start := base.toNat, pages := 4096, bits := 7 }], malformed := false }
  let launch : Launch := {
    desc := base, queue := 0, tag := 0, hdr := hdr, prio := 0, replay := false, digest := false, gx := 1, gy := 1, gz := 1
    args := [], start := 0, signalVa := 0, signalValue := 0, deps := [], digestVa := 0, outs := [], lentLo := 0, lentHi := 0
    lentDelay := 0, entryIdx := 0, nextGang := 1 }
  let gang : Gang := { launch := 0, tag := 0, index := 0, cluster := 0, core := 0, placed := s.clk, hdr := hdr }
  let fibre : Fibre := {
    pcs := rowOf fun _ => pc, s := List.replicate 64 0, m := BitVec.allOnes 32 :: List.replicate 7 0, wbase := 0, state := .holding }
  let wave : Wave := {
    gang := 0, member := 0, index := 0, slot := 0, created := s.calends, alloc := List.replicate 128 (rowOf fun _ => 0)
    fibres := [fibre], holder := some 0, supV := List.replicate 32 (rowOf fun _ => 0), supS := List.replicate 16 0
    supM := List.replicate 8 0 }
  { s with
    agenda := [.issue 0]
    planned := some s.clk
    contexts := put s.contexts 0 ctx
    launches := put s.launches 0 launch
    gangs := put s.gangs 0 gang
    waves := put s.waves 0 wave
    dram := (s.dram.writeN (49152 * 4096) (toBytes 8 7)).writeN 192 code
    l2 := s.l2.filter fun p => decide (8 < p.1)
    tlb := []
    ptFrame := 4096
    ptLen := 1 }

end Sys2Proof.Machine
end

