-- ==== Sys2Proof/Safety.lean ====
section
/-! DEFINITION. What counts as a safe run, and the words in which the statements speak of an issue: which fields it can
read and write, what they hold, and the state in which nothing but named registers and the program counters has changed. -/

namespace Sys2Proof.Machine

/-- A step that answers a next state. -/
def GoesOn (o : Host.Outcome State Fault Refusal) : Prop := ∃ t, o = .next t

/-- A property of states that a step keeps wherever it answers a next state. -/
def Kept (P : State → Prop) : Prop := ∀ s t, P s → step s = .next t → P t

/-! ## An issue -/

/-- A group of a live fibre issues in `s`, outside scout mode; `h` is what it sees. -/
structure Issuing (s : State) (h : Here) : Prop where
  here    : hereOf s = some h
  noScout : h.f.scout = none

/-- The register that a window number names: of the allocation (R53), or of the supervisor file (R244). -/
def Here.regOf (h : Here) (c : Nat) : Nat := if h.i.sup then c else h.f.wbase + c
/-- A window number inside the declared range (R54), or below 32 in supervisor mode, whose register owes nothing to a unit
(R29). -/
def Here.ready (h : Here) (c : Nat) : Prop :=
  (if h.i.sup then c < 32 else h.f.wbase + c < (h.g.hdr.winOf h.i.fibre).2) ∧
  ∀ p ∈ h.w.pending, ∀ x ∈ p.2.writes, ¬(x.sup = h.i.sup ∧ x.reg = h.regOf c)

/-- A register with no error of the unified store in a lane of the group (R392). -/
def Here.sound (h : Here) (c : Nat) : Prop := h.poisoned (h.regOf c) = false

/-- A field that names no register: a coordinate, zero, or the literal after the word (R57, R58). -/
def FieldOk (c : BitVec 7) (lit : Option Word) : Prop := (c.toNat ≤ 125 ∧ lit = none) ∨ (c = 126 ∧ lit.isSome)

/-- A 32-bit source field that can be read at this issue (R57 to R59). -/
def Here.canRead (h : Here) (c : BitVec 7) (u : Bool) (lit : Option Word) : Prop :=
  if u then c.toNat < (if h.i.sup then 16 else 64)
  else FieldOk c lit ∧ (c.toNat < 120 → h.ready c.toNat ∧ h.sound c.toNat)
/-- A 64-bit source field that can be read at this issue (R52, R151). -/
def Here.canRead64 (h : Here) (c : BitVec 7) (u : Bool) (lit : Option Word) : Prop :=
  if u then c.toNat % 2 = 0 ∧ c.toNat < (if h.i.sup then 16 else 64)
  else FieldOk c lit ∧ (c.toNat < 120 → c.toNat % 2 = 0 ∧ h.ready c.toNat ∧ h.ready (c.toNat + 1) ∧ h.sound c.toNat ∧ h.sound (c.toNat + 1))
/-- A destination field that can be written at this issue; code 120 discards (R57). -/
def Here.canWrite (h : Here) (c : BitVec 7) : Prop := c.toNat ≤ 120 ∧ (c.toNat < 120 → h.ready c.toNat)
/-- The registers from a field on hold no error of the unified store in a lane of the group (R392). -/
def Here.soundN (h : Here) (c : BitVec 7) (n : Nat) : Prop := c.toNat < 120 → ∀ j < n, h.sound (c.toNat + j)
/-- A destination field that can be read and written at this issue (R152). -/
def Here.canUpdate (h : Here) (c : BitVec 7) : Prop := h.canWrite c ∧ (c.toNat < 120 → h.sound c.toNat)
/-- A 64-bit destination field that can be written at this issue. -/
def Here.canWrite64 (h : Here) (c : BitVec 7) : Prop :=
  c.toNat ≤ 120 ∧ (c.toNat < 120 → c.toNat % 2 = 0 ∧ h.ready c.toNat ∧ h.ready (c.toNat + 1))

/-- A destination field that names `n` registers, each of which can be written at this issue. -/
def Here.canWriteN (h : Here) (c : BitVec 7) (n : Nat) : Prop :=
  c.toNat ≤ 120 ∧ (c.toNat < 120 → ∀ j < n, h.ready (c.toNat + j))

/-- The value of a 32-bit source field in a lane (R57 to R59). -/
def Here.word (h : Here) (c : BitVec 7) (u : Bool) (lit : Option Word) (lane : Nat) : Word :=
  if u then h.sreg c.toNat
  else if c.toNat < 120 then h.reg (h.regOf c.toNat) lane
  else match lit with
    | some x => x
    | none => BitVec.ofNat 32 (h.special c.toNat lane)
/-- The value of a 64-bit source field in a lane: an even pair, low word first, or the literal sign-extended (R151). -/
def Here.quad (h : Here) (c : BitVec 7) (u : Bool) (lit : Option Word) (lane : Nat) : Quad :=
  if u then h.sreg (c.toNat + 1) ++ h.sreg c.toNat
  else if c.toNat < 120 then h.reg (h.regOf (c.toNat + 1)) lane ++ h.reg (h.regOf c.toNat) lane
  else match lit with
    | some x => x.signExtend 64
    | none => BitVec.ofNat 64 (h.special c.toNat lane)

/-! ## What an instruction leaves -/

/-- A register write: its number in the file that the group uses, the lanes, and the value of each lane. -/
structure RegWrite where
  reg   : Nat
  lanes : Lanes
  val   : Nat → Word

/-- The write of a 32-bit result; code 120 discards it (R57). -/
def Here.into (h : Here) (c : BitVec 7) (lanes : Lanes) (val : Nat → Word) : List RegWrite :=
  if c.toNat < 120 then [{ reg := h.regOf c.toNat, lanes, val }] else []
/-- The writes of a 64-bit result, the low word to the even register (R52). -/
def Here.into64 (h : Here) (c : BitVec 7) (lanes : Lanes) (val : Nat → Quad) : List RegWrite :=
  if c.toNat < 120 then
    [{ reg := h.regOf c.toNat, lanes, val := fun i => (val i).setWidth 32 },
     { reg := h.regOf (c.toNat + 1), lanes, val := fun i => (val i >>> 32).setWidth 32 }]
  else []

/-- The writes of a result of `n` words to the registers from a field on. -/
def Here.intoN (h : Here) (c : BitVec 7) (n : Nat) (lanes : Lanes) (val : Nat → Nat → Word) : List RegWrite :=
  if c.toNat < 120 then (List.range n).map fun j => { reg := h.regOf (c.toNat + j), lanes, val := val j } else []

/-- A wave with one register written; an error of the unified store in a lane that is written is gone (R392). -/
def Here.written (h : Here) (w : Wave) (x : RegWrite) : Wave :=
  let new (old : Row) : Row := rowOf fun i => if x.lanes.getLsbD i then x.val i else old.getD i 0
  if h.i.sup then { w with supV := modAt w.supV x.reg new } else { w with alloc := modAt w.alloc x.reg new, bad := cleared w.bad x.reg x.lanes }
/-- A fibre some of whose strands stand at an address, the others where they were. -/
def Fibre.standsAt (f : Fibre) (lanes : Lanes) (at_ : Nat → Quad) : Fibre :=
  { f with pcs := rowOf fun i => if lanes.getLsbD i then at_ i else f.pcs.getD i 0 }
/-- The issuing wave and its issuing fibre changed, and nothing else of the state. -/
def Here.changed (h : Here) (s : State) (w : Wave → Wave) (f : Fibre → Fibre) : State :=
  { s with waves := upd s.waves h.i.wave fun x => { w x with fibres := modAt (w x).fibres h.i.fibre f } }
/-- The state in which the group has gone on to its next address, the fibre has been changed by `f`, some registers have
been written, and nothing else has changed. -/
def Here.doneWith (h : Here) (s : State) (f : Fibre → Fibre) (xs : List RegWrite) : State :=
  h.changed s (fun w => xs.foldl h.written w) fun x => f (x.standsAt h.i.lanes fun _ => h.i.next)
/-- The state in which the group has gone on, some registers have been written, and nothing else has changed. -/
def Here.done (h : Here) (s : State) (xs : List RegWrite) : State := h.doneWith s (fun x => x) xs

/-- A mask with the bits of some lanes replaced, the others as they were. -/
def mixMask (lanes : Lanes) (new : Nat → Bool) (old : Lanes) : Lanes :=
  maskOf fun i => if lanes.getLsbD i then new i else old.getLsbD i
/-- The state in which the group has gone on, bits of one mask of its mode have been written in some lanes, and nothing else
has changed. -/
def Here.doneMask (h : Here) (s : State) (m : Nat) (lanes : Lanes) (new : Nat → Bool) : State :=
  if h.i.sup then
    h.changed s (fun w => { w with supM := modAt w.supM m (mixMask lanes new) }) fun f => f.standsAt h.i.lanes fun _ => h.i.next
  else h.doneWith s (fun f => { f with m := modAt f.m m (mixMask lanes new) }) []
/-- The state in which the group has gone on, one `s` register of its mode has been written, and nothing else has changed. -/
def Here.doneS (h : Here) (s : State) (n : Nat) (x : Word) : State :=
  if h.i.sup then
    h.changed s (fun w => { w with supS := setAt w.supS n x }) fun f => f.standsAt h.i.lanes fun _ => h.i.next
  else h.doneWith s (fun f => { f with s := setAt f.s n x }) []

/-! ## Memory -/

/-- Bytes and data registers of a SZ code (R133, R187). -/
def memBytes (sz : BitVec 3) : Nat :=
  match sz with
  | 0 | 1 => 1
  | 2 | 3 => 2
  | 4 => 4
  | 5 => 8
  | _ => 16
def memWords (sz : BitVec 3) : Nat :=
  match sz with
  | 5 => 2
  | 6 => 4
  | _ => 1
/-- Register `j` of what a load of a SZ code makes of the number it has read (R188): a byte or half extended, or a word of it. -/
def extended (sz : BitVec 3) (x j : Nat) : Word :=
  match sz with
  | 1 => (BitVec.ofNat 8 x).signExtend 32
  | 3 => (BitVec.ofNat 16 x).signExtend 32
  | _ => BitVec.ofNat 32 (x / 2 ^ (32 * j))
/-- The number that a store of a SZ code takes from its data field (R187). -/
def Here.datum (h : Here) (d : BitVec 7) (sz : BitVec 3) (lane : Nat) : Nat :=
  (if d.toNat < 120 then ((List.range (memWords sz)).map fun j => (h.reg (h.regOf (d.toNat + j)) lane).toNat * 2 ^ (32 * j)).sum
   else h.special d.toNat lane) % 2 ^ (8 * memBytes sz)
/-- The accesses of the performing strands, in lane order. -/
def accessesOf (lanes : Lanes) (addr : Nat → Nat) : List Access := (lanesIn lanes).map fun i => { lane := i, unit := 0, addr := addr i }
/-- Every access passes the checks of R186 at this device, which leave `t`: a translation kept, a line pulled, an error found. -/
def Here.granted (h : Here) (s : State) (k : Kind) (us : List Access) (t : State) : Prop :=
  checkUnits h s k us = (t, us.map fun u => (u, .ok))

/-- The rounding mode of an RM code (R78); the seed of stochastic rounding is `s63`, or `s15` in supervisor mode (R170). -/
def Here.mode (h : Here) (rm : BitVec 3) : Rm :=
  match rm with
  | 0 => .rn
  | 1 => .rz
  | 2 => .rd
  | 3 => .ru
  | _ => .rs (h.sreg (if h.i.sup then 15 else 63))

/-- A function of the bits of a 32-bit register, or of each half of a packed one on its own (R170). -/
def halves (t : Fmt) (f : Nat → Nat → Nat → Nat) (a b c : Word) : Word :=
  if t = .f32 then BitVec.ofNat 32 (f a.toNat b.toNat c.toNat)
  else
    BitVec.ofNat 16 (f (a.extractLsb' 16 16).toNat (b.extractLsb' 16 16).toNat (c.extractLsb' 16 16).toNat)
      ++ BitVec.ofNat 16 (f (a.extractLsb' 0 16).toNat (b.extractLsb' 0 16).toNat (c.extractLsb' 0 16).toNat)

/-- The state after an access or a wait that completes: the fibre's next accesses come after every write before it in memory
order (R99), and an instruction that had been issued before is done with. -/
def Here.ends (h : Here) (old t : State) : State :=
  settle h (h.changed t (fun w => w) fun f => { f with
    time := t.logical, mapTime := if old.logical < t.logical then t.logical else f.mapTime })

/-- A fibre some of whose strands have transferred control (R160, R161), with the kind and the address of the instruction kept
for stop reports (R306). -/
def Fibre.went (f : Fibre) (lanes : Lanes) (dest : Nat → Quad) (kind : Nat) (from_ : Quad) : Fibre :=
  { f.standsAt lanes dest with last := (lanesIn lanes).foldl (fun t i => put t i (kind, from_)) f.last }

/-! ## Asynchronous commands -/

/-- Whether a byte of some local runs lies in the register aperture (R63). -/
def reachesAperture (rs : List (Nat × Nat)) : Bool := rs.any fun r => (List.range r.2).any fun i => isAperture ((r.1 + i) % 2 ^ 32)
/-- A barrier operand that is accepted: none with 0xF in bits 31:28, else a multiple of 16 (R200). -/
def BarrierOk (x : Word) : Prop := x.toNat / 2 ^ 28 = 15 ∨ x.toNat % 16 = 0
/-- The barrier object that an operand names. -/
def barrierNamed (x : Word) : Option Word := if x.toNat / 2 ^ 28 = 15 then none else some x
/-- Room for one more command of a class (0 copy, 1 matrix, 2 trace, 3 collective, 4 drain): its counter and its queue (R106). -/
def Here.room (h : Here) (s : State) (cls : Nat) : Prop :=
  h.f.counts.getD cls 0 < 255 ∧ (cls = 0 → aceUsed s h.g.cluster h.coreOf < 96) ∧ (cls = 1 ∨ cls = 4 → mxeUsed s h.g.cluster < 32)
/-- The state in which the group has gone on and a command of it is in flight: its counter and the wave's command sequence have
risen by 1 (R106, R298), and nothing else has changed. -/
def Here.issued (h : Here) (s : State) (kind : OpKind) (cls : Nat) (bar : Option Word) (status : Nat) : State :=
  let op : Op := { kind, gang := h.w.gang, launch := h.g.launch, tag := h.g.tag, wave := h.i.wave, fibre := h.i.fibre, pc := h.i.pc
                   lanes := h.i.lanes, seq := h.w.seq, cls, bar, issued := s.clk, safe := h.f.safe, cluster := h.g.cluster, core := h.coreOf, status }
  { h.changed s (fun w => { w with seq := w.seq + 1 }) fun f => { f.standsAt h.i.lanes fun _ => h.i.next with
      counts := (List.range 5).map fun c => f.counts.getD c 0 + if c = cls then 1 else 0 } with
    nextUid := s.nextUid + 1
    ops := put s.ops s.nextUid op }

/-! ## Waits -/

/-- What a step finds when a group issues: its fibre holds the slot and runs, waits for nothing, and has asked no peer to watch a
word for it. -/
structure Here.seated (h : Here) (s : State) : Prop where
  holder  : h.w.holder = some h.i.fibre
  runs    : h.f.state = if h.f.inTrap then .trap else .holding
  noWait  : h.f.wait = none
  noWatch : ∀ r ∈ s.requests, r.2.who ≠ .monitor h.i.wave h.i.fibre
/-- A launch of which no Vigil record is made (R299). -/
def Here.unlogged (h : Here) : Prop := h.l.replay = false ∨ h.c.vigil = 0
/-- The state in which the group has gone on, some `s` registers of its mode have been written in order, and nothing else has
changed. -/
def Here.doneSs (h : Here) (s : State) (xs : List (Nat × Word)) : State :=
  let new (t : List Word) : List Word := xs.foldl (fun t x => setAt t x.1 x.2) t
  if h.i.sup then h.changed s (fun w => { w with supS := new w.supS }) fun f => f.standsAt h.i.lanes fun _ => h.i.next
  else h.doneWith s (fun f => { f with s := new f.s }) []
/-- A status register and a deadline pair that the mode has (R31, R33, R244). -/
def Here.canWait (h : Here) (st : BitVec 6) (dl : BitVec 5) : Prop :=
  st.toNat < (if h.i.sup then 16 else 64) ∧ 2 * dl.toNat + 1 < (if h.i.sup then 16 else 64)
/-- The deadline that a pair holds, as R31 reads it. -/
def Here.until (h : Here) (dl : BitVec 5) : Deadline := readDeadline (h.sreg (2 * dl.toNat + 1) ++ h.sreg (2 * dl.toNat))
/-- Whether a deadline is at or behind its clock at this issue (R31). -/
def Here.late (h : Here) (s : State) : Deadline → Bool
  | .poll => true
  | .never => false
  | .wall t => decide (t ≤ s.calends.toNat)
  | .context t => decide (t ≤ h.c.time)
/-- A wait that begins at this issue (R33): its Ides point lies one Ides interval ahead in context time. -/
def Here.newWait (h : Here) (s : State) (kind : WaitKind) (st : BitVec 6) (dl : BitVec 5) : Wait :=
  { kind, pc := h.i.pc, next := h.i.next, lanes := h.i.lanes, st := st.toNat, sup := h.i.sup, deadline := h.until dl
    ides := h.c.time + h.c.ides, gen := 0, last := 0, since := s.clk, monitor := none, polled := s.clk }
/-- The state in which the fibre waits: STALLED in its slot, or with the prefix WAITING with its slot passed (R28, R29). -/
def Here.waits (h : Here) (s : State) (x : Wait) : State :=
  let t := h.changed s (fun w => w) fun f => { f with wait := some x, state := if h.i.swp then .waiting else .stalled }
  if h.i.swp then passSlot t h.i.wave h.i.hint else t

/-- A state with one more monitor entry. -/
def State.watching (s : State) (m : Monitor) : State := { s with nextUid := s.nextUid + 1, monitors := put s.monitors s.nextUid m }

/-! ## Results that units owe -/

/-- The state in which the group has gone on and a unit owes it the rows of some registers (R56), each with the lanes it writes,
and nothing else has changed. -/
def Here.owing (h : Here) (s : State) (kind : UnitKind) (rows : List (Nat × Lanes × (Nat → Word))) (maps : List Nat) : State :=
  let writes := rows.map fun x => { sup := h.i.sup, reg := h.regOf x.1, lanes := x.2.1, row := rowOf x.2.2 : PendingWrite }
  { h.changed s (fun w => { w with pending := put w.pending s.nextUid { kind, writes, fibre := h.i.fibre, maps } })
      fun f => f.standsAt h.i.lanes fun _ => h.i.next with nextUid := s.nextUid + 1 }

/-! ## Exceptions -/

/-- The state in which the group has taken a trap (R248): the trap registers written, the fibre in TRAP with its slot kept, the group
in supervisor mode at the handler, and nothing else changed. -/
def Here.entered (h : Here) (s : State) (cause : Nat) (info ret : Quad) : State :=
  h.changed s (fun w => w) fun f => { f.standsAt h.i.lanes fun _ => h.c.handlerAddr with
    trap := { cause, pc := h.i.pc, ret, lanes := h.i.lanes, info, seq := h.w.seq }
    state := .trap
    sup := f.sup ||| h.i.lanes
    escalate := none }
/-- The record that the device posts about the group's instruction (R350). -/
def Here.report (h : Here) (s : State) (code : Nat) (info : Quad) : Record :=
  { code, tag := h.g.tag, addr := h.i.pc, gang := h.g.index, wmf := h.w.index + 32 * h.w.member + 128 * h.i.fibre, lanes := h.i.lanes
    seq := h.w.seq, time := s.calends, info, launch := h.l.desc }

/-! ## A device that owes nothing -/

/-- No step of the device and no fibre waits for an answer of a peer or of the host. -/
structure Quiet (s : State) : Prop where
  posting  : s.posting = []
  notes    : s.notes = []
  tables   : s.tablesDirty = []
  steps    : s.waiting = []
  launches : ∀ l ∈ s.launches, l.2.phase = 0
  fibres   : ∀ v ∈ s.waves, ∀ f ∈ v.2.fibres, ∀ x, f.wait = some x → x.kind ≠ .answers

end Sys2Proof.Machine
end

