-- ==== Sys2Proof/WellFormed.lean ====
section
/-! DEFINITION. Which terms of `Instr` are instructions that an encoding can hold: the literal is there exactly when its
field calls for one (R58), `call` does not carry the link code of `br` (R160), `atom` does not carry the width that
R138 writes `atom2`, and the steps of the fabric and the host carry whole flits and existing ports. -/

namespace Sys2Proof

/-- The literal is present exactly when its field holds 126 and the uniform bit is 0 (R58). -/
def literalOk (field : BitVec 7) (u : Bool) (lit : Option Word) : Bool := lit.isSome == (field == 126#7 && !u)

/-- A flit on an existing port has 64 bytes (R367, R369). -/
def flitOk (port : Nat) (f : Flit) : Bool := decide (port < 16) && f.length == 64

/-- The well-formed instructions. -/
def Instr.wf : Instr → Bool
  | .addB32 o => literalOk o.b o.u o.lit
  | .subB32 o => literalOk o.b o.u o.lit
  | .mulB32 o => literalOk o.b o.u o.lit
  | .madB32 o => literalOk o.b o.u o.lit
  | .mulhiS32 o => literalOk o.b o.u o.lit
  | .mulhiN32 o => literalOk o.b o.u o.lit
  | .andB32 o => literalOk o.b o.u o.lit
  | .orB32 o => literalOk o.b o.u o.lit
  | .xorB32 o => literalOk o.b o.u o.lit
  | .andnB32 o => literalOk o.b o.u o.lit
  | .shlB32 o => literalOk o.b o.u o.lit
  | .shrN32 o => literalOk o.b o.u o.lit
  | .shrS32 o => literalOk o.b o.u o.lit
  | .rotlB32 o => literalOk o.b o.u o.lit
  | .minS32 o => literalOk o.b o.u o.lit
  | .maxS32 o => literalOk o.b o.u o.lit
  | .minN32 o => literalOk o.b o.u o.lit
  | .maxN32 o => literalOk o.b o.u o.lit
  | .addsS32 o => literalOk o.b o.u o.lit
  | .subsS32 o => literalOk o.b o.u o.lit
  | .addsN32 o => literalOk o.b o.u o.lit
  | .subsN32 o => literalOk o.b o.u o.lit
  | .bfxN32 o => literalOk o.b o.u o.lit
  | .bfxS32 o => literalOk o.b o.u o.lit
  | .bfiB32 o => literalOk o.b o.u o.lit
  | .absdN32 o => literalOk o.b o.u o.lit
  | .addN64 o => literalOk o.b o.u o.lit
  | .subN64 o => literalOk o.b o.u o.lit
  | .mulN64 o => literalOk o.b o.u o.lit
  | .mulwN32 o => literalOk o.b o.u o.lit
  | .mulwS32 o => literalOk o.b o.u o.lit
  | .addaS64 o => literalOk o.b o.u o.lit
  | .shlN64 o => literalOk o.b o.u o.lit
  | .shrN64 o => literalOk o.b o.u o.lit
  | .shrS64 o => literalOk o.b o.u o.lit
  | .rotlN64 o => literalOk o.b o.u o.lit
  | .cmpS32 o => literalOk o.b o.u o.lit
  | .cmpN32 o => literalOk o.b o.u o.lit
  | .cmpS64 o => literalOk o.b o.u o.lit
  | .cmpN64 o => literalOk o.b o.u o.lit
  | .addB32Imm _ => true
  | .shlB32Imm _ => true
  | .shrN32Imm _ => true
  | .shrS32Imm _ => true
  | .addN64Imm _ => true
  | .movB32Imm _ => true
  | .movB32ImmS _ => true
  | .movB32 o => literalOk o.a o.u o.lit
  | .notB32 o => literalOk o.a o.u o.lit
  | .negS32 o => literalOk o.a o.u o.lit
  | .absS32 o => literalOk o.a o.u o.lit
  | .popcB32 o => literalOk o.a o.u o.lit
  | .clzB32 o => literalOk o.a o.u o.lit
  | .ctzB32 o => literalOk o.a o.u o.lit
  | .brevB32 o => literalOk o.a o.u o.lit
  | .sxbS32 o => literalOk o.a o.u o.lit
  | .sxhS32 o => literalOk o.a o.u o.lit
  | .div3N32 o => literalOk o.a o.u o.lit
  | .mod3N32 o => literalOk o.a o.u o.lit
  | .movN64 o => literalOk o.a o.u o.lit
  | .negS64 o => literalOk o.a o.u o.lit
  | .div3N64 o => literalOk o.a o.u o.lit
  | .mod3N64 o => literalOk o.a o.u o.lit
  | .mset o => literalOk o.a o.u o.lit
  | .mget _ => true
  | .mand _ => true
  | .mor _ => true
  | .mxor _ => true
  | .mandn _ => true
  | .br _ => true
  | .call o => o.l != 120#7
  | .jmp o => literalOk o.a o.u o.lit
  | .ret o => literalOk o.a o.u o.lit
  | .calli o => literalOk o.a o.u o.lit
  | .exit _ => true
  | .yield _ => true
  | .wbase o => literalOk o.a o.u o.lit
  | .wbadd o => literalOk o.a o.u o.lit
  | .nop _ => true
  | .faddF32 o => literalOk o.b o.u o.lit
  | .fmulF32 o => literalOk o.b o.u o.lit
  | .ffmaF32 o => literalOk o.b o.u o.lit
  | .fsubF32 o => literalOk o.b o.u o.lit
  | .fminF32 o => literalOk o.b o.u o.lit
  | .fmaxF32 o => literalOk o.b o.u o.lit
  | .faddF16 o => literalOk o.b o.u o.lit
  | .fmulF16 o => literalOk o.b o.u o.lit
  | .ffmaF16 o => literalOk o.b o.u o.lit
  | .fsubF16 o => literalOk o.b o.u o.lit
  | .fminF16 o => literalOk o.b o.u o.lit
  | .fmaxF16 o => literalOk o.b o.u o.lit
  | .faddBf16 o => literalOk o.b o.u o.lit
  | .fmulBf16 o => literalOk o.b o.u o.lit
  | .ffmaBf16 o => literalOk o.b o.u o.lit
  | .fsubBf16 o => literalOk o.b o.u o.lit
  | .fminBf16 o => literalOk o.b o.u o.lit
  | .fmaxBf16 o => literalOk o.b o.u o.lit
  | .fcmpF32 o => literalOk o.b o.u o.lit
  | .fcmpF16 o => literalOk o.b o.u o.lit
  | .faddF32Rm o => literalOk o.a o.u o.lit
  | .fsubF32Rm o => literalOk o.a o.u o.lit
  | .fmulF32Rm o => literalOk o.a o.u o.lit
  | .fdivF32 o => literalOk o.a o.u o.lit
  | .fsqrtF32 o => literalOk o.a o.u o.lit
  | .frndF32 o => literalOk o.a o.u o.lit
  | .frcp o => literalOk o.a o.u o.lit
  | .frsq o => literalOk o.a o.u o.lit
  | .fex2 o => literalOk o.a o.u o.lit
  | .flg2 o => literalOk o.a o.u o.lit
  | .fsin o => literalOk o.a o.u o.lit
  | .fcos o => literalOk o.a o.u o.lit
  | .fabsF32 o => literalOk o.a o.u o.lit
  | .fnegF32 o => literalOk o.a o.u o.lit
  | .fsgnF32 o => literalOk o.a o.u o.lit
  | .faddF16Rm o => literalOk o.a o.u o.lit
  | .fsubF16Rm o => literalOk o.a o.u o.lit
  | .fmulF16Rm o => literalOk o.a o.u o.lit
  | .fdivF16 o => literalOk o.a o.u o.lit
  | .fsqrtF16 o => literalOk o.a o.u o.lit
  | .frndF16 o => literalOk o.a o.u o.lit
  | .fabsF16 o => literalOk o.a o.u o.lit
  | .fnegF16 o => literalOk o.a o.u o.lit
  | .fsgnF16 o => literalOk o.a o.u o.lit
  | .faddBf16Rm o => literalOk o.a o.u o.lit
  | .fsubBf16Rm o => literalOk o.a o.u o.lit
  | .fmulBf16Rm o => literalOk o.a o.u o.lit
  | .fdivBf16 o => literalOk o.a o.u o.lit
  | .fsqrtBf16 o => literalOk o.a o.u o.lit
  | .frndBf16 o => literalOk o.a o.u o.lit
  | .fabsBf16 o => literalOk o.a o.u o.lit
  | .fnegBf16 o => literalOk o.a o.u o.lit
  | .fsgnBf16 o => literalOk o.a o.u o.lit
  | .cvtF16F32 o => literalOk o.a o.u o.lit
  | .cvtBf16F32 o => literalOk o.a o.u o.lit
  | .cvtE4m3F32 o => literalOk o.a o.u o.lit
  | .cvtE5m2F32 o => literalOk o.a o.u o.lit
  | .cvtF32F16 o => literalOk o.a o.u o.lit
  | .cvtF32Bf16 o => literalOk o.a o.u o.lit
  | .cvtF32E4m3 o => literalOk o.a o.u o.lit
  | .cvtF32E5m2 o => literalOk o.a o.u o.lit
  | .cvtS32F32 o => literalOk o.a o.u o.lit
  | .cvtN32F32 o => literalOk o.a o.u o.lit
  | .cvtF32S32 o => literalOk o.a o.u o.lit
  | .cvtF32N32 o => literalOk o.a o.u o.lit
  | .cvtS64F32 o => literalOk o.a o.u o.lit
  | .cvtF32S64 o => literalOk o.a o.u o.lit
  | .cvtS8S32 o => literalOk o.a o.u o.lit
  | .cvtS16S32 o => literalOk o.a o.u o.lit
  | .qntQn4 _ => true
  | .dqnQn4 o => literalOk o.a o.u o.lit
  | .shflB32 o => literalOk o.b o.u o.lit
  | .shflxB32 o => literalOk o.b o.u o.lit
  | .voteAny o => literalOk o.a o.u o.lit
  | .voteAll o => literalOk o.a o.u o.lit
  | .ballot o => literalOk o.a o.u o.lit
  | .scanAddS32 o => literalOk o.a o.u o.lit
  | .scanxAddS32 o => literalOk o.a o.u o.lit
  | .wredAddS32 o => literalOk o.a o.u o.lit
  | .wredMinS32 o => literalOk o.a o.u o.lit
  | .wredMaxS32 o => literalOk o.a o.u o.lit
  | .wredMinN32 o => literalOk o.a o.u o.lit
  | .wredMaxN32 o => literalOk o.a o.u o.lit
  | .wredAndB32 o => literalOk o.a o.u o.lit
  | .wredOrB32 o => literalOk o.a o.u o.lit
  | .wredXorB32 o => literalOk o.a o.u o.lit
  | .firstB32 o => literalOk o.a o.u o.lit
  | .ldg _ => true
  | .stg _ => true
  | .ldl _ => true
  | .stl _ => true
  | .ldgTry _ => true
  | .stgTry _ => true
  | .atom o => o.width != 2#2
  | .atom2 _ => true
  | .redF32 o => literalOk o.a o.u o.lit
  | .redF16 o => literalOk o.a o.u o.lit
  | .redBf16 o => literalOk o.a o.u o.lit
  | .redS32 o => literalOk o.a o.u o.lit
  | .redS64 o => literalOk o.a o.u o.lit
  | .red2F16 o => literalOk o.a o.u o.lit
  | .red2Bf16 o => literalOk o.a o.u o.lit
  | .rfinF32 o => literalOk o.a o.u o.lit
  | .rfinF16 o => literalOk o.a o.u o.lit
  | .rfinBf16 o => literalOk o.a o.u o.lit
  | .rfinS32 o => literalOk o.a o.u o.lit
  | .rfinS64 o => literalOk o.a o.u o.lit
  | .tcopyGl _ => true
  | .tcopyLg _ => true
  | .tcopyLl _ => true
  | .collRed _ => true
  | .collBcast _ => true
  | .collAgat _ => true
  | .bwait _ => true
  | .waitc _ => true
  | .monw _ => true
  | .qsend _ => true
  | .qrecv _ => true
  | .fence _ => true
  | .fbar _ => true
  | .bexp _ => true
  | .barr _ => true
  | .procEnter _ => true
  | .procLeave _ => true
  | .gbar _ => true
  | .mmaS8 _ => true
  | .mmaE4m3 _ => true
  | .mmaE5m2 _ => true
  | .mmaQn4 _ => true
  | .mmaF16 _ => true
  | .mmaBf16 _ => true
  | .msacc _ => true
  | .mdrain _ => true
  | .mdrainAdd _ => true
  | .mclear _ => true
  | .cover _ => true
  | .flins _ => true
  | .flrep _ => true
  | .flget _ => true
  | .flclr _ => true
  | .trace _ => true
  | .boxu _ => true
  | .sah _ => true
  | .npack _ => true
  | .sampleD _ => true
  | .sampleC _ => true
  | .sampleL _ => true
  | .rmapinv _ => true
  | .trap _ => true
  | .tret => true
  | .srd _ => true
  | .swr _ => true
  | .halt => true
  | .brk _ => true
  | .prog _ => true
  | .ckmark _ => true
  | .dictionaryParcel _ => true
  | .scoutEnd _ _ => true
  | .heldRecordPost _ => true
  | .urgent _ _ => true
  | .waitEnd _ _ => true
  | .waitDeadline _ _ => true
  | .idesPoint _ _ => true
  | .monitorPoll _ _ => true
  | .processionAdmit _ _ => true
  | .lentHoldExpiry _ _ => true
  | .engineUnitRead _ _ => true
  | .copyCompletion _ => true
  | .matrixCompletion _ => true
  | .drainCompletion _ => true
  | .traceCompletion _ => true
  | .coverResult _ _ => true
  | .sampleResult _ _ => true
  | .fleResult _ _ => true
  | .rmapinvComplete _ _ => true
  | .mapCopyExpiry _ _ => true
  | .collectiveDecision _ => true
  | .collectiveDeadline _ => true
  | .collectiveDecisionTimeout _ => true
  | .qmDoorbell _ _ => true
  | .nopEntry _ => true
  | .launch _ => true
  | .fenceEntry _ => true
  | .queueEnable _ => true
  | .queueDisable _ => true
  | .queueClearError _ => true
  | .qmEnable _ => true
  | .deviceHalt _ => true
  | .launchReady _ => true
  | .dependencePoll _ _ => true
  | .priorityAging _ => true
  | .reserving _ => true
  | .swapEligible _ => true
  | .gangPlacement _ => true
  | .stopComplete _ => true
  | .saveBankWrite _ => true
  | .gangHaltComplete _ => true
  | .install _ => true
  | .update _ => true
  | .ctxEnd _ => true
  | .rightsinv _ => true
  | .replay _ => true
  | .replayall _ => true
  | .stop _ => true
  | .dbgsave _ => true
  | .dbgload _ => true
  | .suspend _ => true
  | .resume _ => true
  | .resumegang _ => true
  | .invalidateRange _ _ => true
  | .completeMigration => true
  | .fbEnable _ => true
  | .fbRd _ => true
  | .interruptStatusClear _ _ => true
  | .msixUnmask _ => true
  | .registerWrite _ _ _ => true
  | .physicalWindowRead _ _ => true
  | .physicalWindowWrite _ _ => true
  | .hostAtomicop _ _ => true
  | .hostSnoop _ => true
  | .atsInvalidation _ _ => true
  | .functionLevelReset _ => true
  | .mrstN => true
  | .pwrenRise => true
  | .pwrenFall => true
  | .railOutOfTolerance => true
  | .idle port flit => flitOk port flit
  | .read port flit => flitOk port flit
  | .write port flit units => flitOk port flit && units.all (flitOk port)
  | .atomic port flit => flitOk port flit
  | .contrib port flit => flitOk port flit
  | .cellmerge port flit units => flitOk port flit && units.all (flitOk port)
  | .monarm port flit => flitOk port flit
  | .moncancel port flit => flitOk port flit
  | .sliceop port flit => flitOk port flit
  | .unitop port flit units => flitOk port flit && units.all (flitOk port)
  | .rsp port flit => flitOk port flit
  | .nackResend _ => true
  | .data port flit => flitOk port flit
  | .credit port flit => flitOk port flit
  | .retry port flit => flitOk port flit
  | .down port flit => flitOk port flit
  | .probe port flit => flitOk port flit
  | .probeans port flit => flitOk port flit
  | .flitDrop port flit => flitOk port flit
  | .collContributionData port flit units => flitOk port flit && units.all (flitOk port)
  | .collReadsDone port flit => flitOk port flit
  | .collCommit port flit units => flitOk port flit && units.all (flitOk port)
  | .collCancel port flit => flitOk port flit
  | .portDown port => decide (port < 16)
  | .portUp port _ => decide (port < 16)
  | .requestTimeout _ => true
  | .rejoin _ => true
  | .markDown _ => true
  | .probeTimeout _ => true
  | .calStep _ => true
  | .ptpEventMessage _ _ => true
  | .locked => true
  | .sensorSample _ => true
  | .sensors => true
  | .log => true
  | .fwstage => true
  | .fwcommit => true
  | .fwconfirm => true
  | .attest => true
  | .setcap => true
  | .idcert => true
  | .timecfg => true
  | .vendorDefinedMessage _ _ => true
  | .setEndpointId _ _ _ => true
  | .getEndpointId _ => true
  | .getMctpVersionSupport _ _ => true
  | .getMessageTypeSupport _ => true
  | .getVendorDefinedMessageSupport _ _ => true
  | .illegalInstruction _ => true
  | .badentry _ => true
  | .mrstNDrivenLow => true
  | .hostLinkUp => true
  | .hostRequestCompletion _ _ => true
  | .ptmResponse _ => true

end Sys2Proof
end

