-- ==== Sys2Proof/Certificates/Slice0/Obligations.lean ====
section
/-! DEFINITION. The statements about the machine: per family of the opcode table what its instructions and steps do and leave
as it was, then statements about the whole machine. A statement of several clauses is the conjunction of the `Clause` definitions
that stand with their families. -/

namespace Sys2Proof.Machine

/-! ## Integer instructions (R150 to R159) -/

/-- The mask of the bits of the field that a field control names (R153). -/
def controlMask (b : Word) : Word :=
  let pos := b.toNat % 32
  let e := min 32 (pos + min 32 (b.toNat / 256 % 64))
  maskOf fun i => decide (pos ≤ i ∧ i < e)
/-- The field of `a` moved to bit 0, with its width (R153). -/
def controlField (a b : Word) (f : Word → Nat → Word) : Word :=
  let pos := b.toNat % 32
  let e := min 32 (pos + min 32 (b.toNat / 256 % 64))
  f ((a &&& controlMask b) >>> pos) (e - pos)
/-- R152 and R153: the result of each TRI instruction on 32-bit values a and b. -/
def integerTable : List ((Tri → Instr) × (Word → Word → Word)) := [
  (.addB32, fun a b => a + b),
  (.subB32, fun a b => a - b),
  (.mulB32, fun a b => a * b),
  (.mulhiS32, fun a b => (a.signExtend 64 * b.signExtend 64).extractLsb' 32 32),
  (.mulhiN32, fun a b => (a.setWidth 64 * b.setWidth 64).extractLsb' 32 32),
  (.andB32, fun a b => a &&& b),
  (.orB32, fun a b => a ||| b),
  (.xorB32, fun a b => a ^^^ b),
  (.andnB32, fun a b => a &&& ~~~b),
  (.shlB32, fun a b => if b.toNat < 32 then a <<< b.toNat else 0),
  (.shrN32, fun a b => if b.toNat < 32 then a >>> b.toNat else 0),
  (.shrS32, fun a b => a.sshiftRight (min b.toNat 31)),
  (.rotlB32, fun a b => a <<< (b &&& 31) ||| a >>> (32 - (b &&& 31))),
  (.minS32, fun a b => if a.slt b then a else b),
  (.maxS32, fun a b => if a.slt b then b else a),
  (.minN32, fun a b => if a < b then a else b),
  (.maxN32, fun a b => if a < b then b else a),
  (.addsS32, fun a b => BitVec.ofInt 32 (max (-(2 ^ 31)) (min (2 ^ 31 - 1) (a.toInt + b.toInt)))),
  (.subsS32, fun a b => BitVec.ofInt 32 (max (-(2 ^ 31)) (min (2 ^ 31 - 1) (a.toInt - b.toInt)))),
  (.addsN32, fun a b => if a.toNat + b.toNat < 2 ^ 32 then a + b else 0xFFFFFFFF),
  (.subsN32, fun a b => if a < b then 0 else a - b),
  (.absdN32, fun a b => if a < b then b - a else a - b),
  (.bfxN32, fun a b => controlField a b fun x _ => x),
  (.bfxS32, fun a b => controlField a b fun x n => if n = 0 then 0 else (x <<< (32 - n)).sshiftRight (32 - n))]
/-- R152 and R153: the TRI instructions whose destination is a source d as well. -/
def accTable : List ((Tri → Instr) × (Word → Word → Word → Word)) := [
  (.madB32, fun a b d => a * b + d),
  (.bfiB32, fun a b d =>
    let m := controlMask b
    (d &&& ~~~m) ||| (a <<< (b.toNat % 32) &&& m))]

/-- R154: TRI with 64-bit a and b. -/
def quadTable : List ((Tri → Instr) × (Quad → Quad → Quad)) := [
  (.addN64, fun a b => a + b),
  (.subN64, fun a b => a - b),
  (.mulN64, fun a b => a * b)]
/-- R154: TRI with 32-bit a and b and a 64-bit result. -/
def wideTable : List ((Tri → Instr) × (Word → Word → Quad)) := [
  (.mulwN32, fun a b => a.setWidth 64 * b.setWidth 64),
  (.mulwS32, fun a b => a.signExtend 64 * b.signExtend 64)]
/-- R154: TRI with a 64-bit a and a 32-bit b. -/
def quadWordTable : List ((Tri → Instr) × (Quad → Word → Quad)) := [
  (.addaS64, fun a b => a + b.signExtend 64),
  (.shlN64, fun a b => if b.toNat < 64 then a <<< b.toNat else 0),
  (.shrN64, fun a b => if b.toNat < 64 then a >>> b.toNat else 0),
  (.shrS64, fun a b => a.sshiftRight (min b.toNat 63)),
  (.rotlN64, fun a b => a <<< (b &&& 63) ||| a >>> (64 - (b &&& 63)))]

/-- R158: the immediate forms with a 32-bit register source. -/
def immediateTable : List ((BitVec 7 → BitVec 7 → BitVec 3 → BitVec 9 → Instr) × (Word → BitVec 9 → Word)) := [
  (fun d a p n => .addB32Imm ⟨d, a, p, n⟩, fun a n => a + n.signExtend 32),
  (fun d a p n => .shlB32Imm ⟨d, a, p, n.setWidth 5⟩, fun a n => a <<< n.setWidth 5),
  (fun d a p n => .shrN32Imm ⟨d, a, p, n.setWidth 5⟩, fun a n => a >>> n.setWidth 5),
  (fun d a p n => .shrS32Imm ⟨d, a, p, n.setWidth 5⟩, fun a n => a.sshiftRight (n.setWidth 5).toNat)]

/-- R159: DUO with a 32-bit source. -/
def duoTable : List ((Duo → Instr) × (Word → Word)) := [
  (.movB32, fun a => a),
  (.notB32, fun a => ~~~a),
  (.negS32, fun a => 0 - a),
  (.absS32, fun a => if a.msb then 0 - a else a),
  (.popcB32, fun a => BitVec.ofNat 32 ((List.range 32).countP fun i => a.getLsbD i)),
  (.clzB32, fun a => BitVec.ofNat 32 (((List.range 32).find? fun k => a.getLsbD (31 - k)).getD 32)),
  (.ctzB32, fun a => BitVec.ofNat 32 (((List.range 32).find? fun k => a.getLsbD k).getD 32)),
  (.brevB32, fun a => a.reverse),
  (.sxbS32, fun a => (a <<< 24).sshiftRight 24),
  (.sxhS32, fun a => (a <<< 16).sshiftRight 16),
  (.div3N32, fun a => BitVec.ofNat 32 (a.toNat / 3)),
  (.mod3N32, fun a => BitVec.ofNat 32 (a.toNat % 3))]
/-- R159: DUO with a 64-bit source. -/
def duoQuadTable : List ((Duo → Instr) × (Quad → Quad)) := [
  (.movN64, fun a => a),
  (.negS64, fun a => 0 - a),
  (.div3N64, fun a => BitVec.ofNat 64 (a.toNat / 3)),
  (.mod3N64, fun a => BitVec.ofNat 64 (a.toNat % 3))]

/-- R155: the truth of a comparison, `signed` giving the value of a pattern. -/
def compares {w : Nat} (sgn : Bool) (cond : BitVec 3) (a b : BitVec w) : Bool :=
  match cond with
  | 0 => a == b
  | 1 => a != b
  | 2 => if sgn then a.slt b else a.ult b
  | 3 => if sgn then a.sle b else a.ule b
  | 4 => if sgn then b.slt a else b.ult a
  | 5 => if sgn then b.sle a else b.ule a
  | _ => a &&& b != 0
/-- R155: the compares. -/
def compareTable : List ((Cmp → Instr) × Bool) := [(.cmpS32, true), (.cmpN32, false)]
/-- R155: the 64-bit compares. -/
def compare64Table : List ((Cmp → Instr) × Bool) := [(.cmpS64, true), (.cmpN64, false)]
/-- R156: mask logic. -/
def maskTable : List ((MaskTri → Instr) × (Bool → Bool → Bool)) := [
  (.mand, and), (.mor, or), (.mxor, xor), (.mandn, fun a b => a && !b)]

end Sys2Proof.Machine

section

open Sys2Proof Sys2Proof.Machine

/-- R152, R153: in each performing strand the destination register takes the table's result, of its old value too where it is a
source as well; the group goes on at the next address, and nothing else of the state changes. -/
def Sys2Proof.Clause.IntegerResults : Prop :=
  (∀ e ∈ integerTable, ∀ (s : State) (h : Here) (o : Tri), Issuing s h →
    h.canRead o.a false none → h.canRead o.b o.u o.lit → h.canWrite o.dst →
    exec (e.1 o) s = .next (settle h (h.done s (h.into o.dst (h.perf o.p) fun i =>
      e.2 (h.word o.a false none i) (h.word o.b o.u o.lit i))))) ∧
  (∀ e ∈ accTable, ∀ (s : State) (h : Here) (o : Tri), Issuing s h →
    h.canRead o.a false none → h.canRead o.b o.u o.lit → h.canUpdate o.dst →
    exec (e.1 o) s = .next (settle h (h.done s (h.into o.dst (h.perf o.p) fun i =>
      e.2 (h.word o.a false none i) (h.word o.b o.u o.lit i) (h.reg (h.regOf o.dst.toNat) i)))))

/-- R154: in each performing strand the destination pair takes the table's result, the group goes on, and nothing else changes. -/
def Sys2Proof.Clause.WideIntegerResults : Prop :=
  (∀ e ∈ quadTable, ∀ (s : State) (h : Here) (o : Tri), Issuing s h →
    h.canRead64 o.a false none → h.canRead64 o.b o.u o.lit → h.canWrite64 o.dst →
    exec (e.1 o) s = .next (settle h (h.done s (h.into64 o.dst (h.perf o.p) fun i =>
      e.2 (h.quad o.a false none i) (h.quad o.b o.u o.lit i))))) ∧
  (∀ e ∈ wideTable, ∀ (s : State) (h : Here) (o : Tri), Issuing s h →
    h.canRead o.a false none → h.canRead o.b o.u o.lit → h.canWrite64 o.dst →
    exec (e.1 o) s = .next (settle h (h.done s (h.into64 o.dst (h.perf o.p) fun i =>
      e.2 (h.word o.a false none i) (h.word o.b o.u o.lit i))))) ∧
  (∀ e ∈ quadWordTable, ∀ (s : State) (h : Here) (o : Tri), Issuing s h →
    h.canRead64 o.a false none → h.canRead o.b o.u o.lit → h.canWrite64 o.dst →
    exec (e.1 o) s = .next (settle h (h.done s (h.into64 o.dst (h.perf o.p) fun i =>
      e.2 (h.quad o.a false none i) (h.word o.b o.u o.lit i)))))

/-- R158: the immediate forms, each with its result, the group going on and nothing else changed; `mov.b32 sD` writes its
`s` register once, when a strand performs. -/
def Sys2Proof.Clause.ImmediateResults : Prop :=
  (∀ e ∈ immediateTable, ∀ (s : State) (h : Here) (d a : BitVec 7) (p : BitVec 3) (n : BitVec 9), Issuing s h →
    h.canRead a false none → h.canWrite d →
    exec (e.1 d a p n) s = .next (settle h (h.done s (h.into d (h.perf p) fun i => e.2 (h.word a false none i) n)))) ∧
  (∀ (s : State) (h : Here) (o : Rri), Issuing s h → h.canRead64 o.a false none → h.canWrite64 o.dst →
    exec (.addN64Imm o) s = .next (settle h (h.done s (h.into64 o.dst (h.perf o.p) fun i =>
      h.quad o.a false none i + o.imm.signExtend 64)))) ∧
  (∀ (s : State) (h : Here) (o : Ri), Issuing s h → h.canWrite o.dst →
    exec (.movB32Imm o) s = .next (settle h (h.done s (h.into o.dst (h.perf o.p) fun _ => o.imm.signExtend 32)))) ∧
  (∀ (s : State) (h : Here) (o : Ri), Issuing s h → o.dst.toNat < (if h.i.sup then 16 else 64) →
    exec (.movB32ImmS o) s = .next (settle h (if h.perf o.p = 0 then h.done s [] else h.doneS s o.dst.toNat (o.imm.signExtend 32))))

/-- R159: one-source results, 32-bit and 64-bit, the group going on and nothing else changed. -/
def Sys2Proof.Clause.OneSourceResults : Prop :=
  (∀ e ∈ duoTable, ∀ (s : State) (h : Here) (o : Duo), Issuing s h → h.canRead o.a o.u o.lit → h.canWrite o.dst →
    exec (e.1 o) s = .next (settle h (h.done s (h.into o.dst (h.perf o.p) fun i => e.2 (h.word o.a o.u o.lit i))))) ∧
  (∀ e ∈ duoQuadTable, ∀ (s : State) (h : Here) (o : Duo), Issuing s h → h.canRead64 o.a o.u o.lit → h.canWrite64 o.dst →
    exec (e.1 o) s = .next (settle h (h.done s (h.into64 o.dst (h.perf o.p) fun i => e.2 (h.quad o.a o.u o.lit i)))))

/-- R155: each performing strand's truth goes to its bit of the mask, ANDed with the old bit when ACC is 1; other bits, every
register and the rest of the state are unchanged. -/
def Sys2Proof.Clause.CompareResults : Prop :=
  (∀ e ∈ compareTable, ∀ (s : State) (h : Here) (o : Cmp), Issuing s h → o.cond ≠ 7 →
    h.canRead o.a false none → h.canRead o.b o.u o.lit →
    exec (e.1 o) s = .next (settle h (h.doneMask s o.mask.toNat (h.perf o.p) fun i =>
      compares e.2 o.cond (h.word o.a false none i) (h.word o.b o.u o.lit i)
        && (!o.acc || (h.mask o.mask.toNat).getLsbD i)))) ∧
  (∀ e ∈ compare64Table, ∀ (s : State) (h : Here) (o : Cmp), Issuing s h → o.cond ≠ 7 →
    h.canRead64 o.a false none → h.canRead64 o.b o.u o.lit →
    exec (e.1 o) s = .next (settle h (h.doneMask s o.mask.toNat (h.perf o.p) fun i =>
      compares e.2 o.cond (h.quad o.a false none i) (h.quad o.b o.u o.lit i)
        && (!o.acc || (h.mask o.mask.toNat).getLsbD i))))

/-- R156, R157: mask logic, `mset` and `mget`: bits of lanes without a performing strand are unchanged, and so is all else. -/
def Sys2Proof.Clause.MaskResults : Prop :=
  (∀ e ∈ maskTable, ∀ (s : State) (h : Here) (o : MaskTri), Issuing s h →
    o.dst.toNat < 8 → o.a.toNat < 8 → o.b.toNat < 8 →
    exec (e.1 o) s = .next (settle h (h.doneMask s o.dst.toNat (h.perf o.p) fun i =>
      e.2 ((h.mask o.a.toNat).getLsbD i) ((h.mask o.b.toNat).getLsbD i)))) ∧
  (∀ (s : State) (h : Here) (o : Duo), Issuing s h → o.dst.toNat < 8 → h.canRead o.a o.u o.lit →
    exec (.mset o) s = .next (settle h (h.doneMask s o.dst.toNat (h.perf o.p) fun i => h.word o.a o.u o.lit i != 0))) ∧
  (∀ (s : State) (h : Here) (o : DuoPlain), Issuing s h → o.a.toNat < 8 → h.canWrite o.dst →
    exec (.mget o) s = .next (settle h (h.done s (h.into o.dst (h.perf o.p) fun i =>
      if (h.mask o.a.toNat).getLsbD i then 1 else 0))))


/-- R160, R161: a transfer of control whose performing strands all have even targets: they go there, the other strands of the
group go to the next address, a call's link pair takes the next address, and nothing else changes but the record of the
last transfer (R306). -/
def Sys2Proof.Clause.TransferResults : Prop :=
  (∀ (s : State) (h : Here) (o : Br), Issuing s h →
    let t : Quad := h.i.opc + 2 * o.off.signExtend 64
    (h.perf o.p ≠ 0 → t.getLsbD 0 = false) →
    exec (.br o) s = .next (settle h (h.doneWith s (·.went (h.perf o.p) (fun _ => t) 1 h.i.pc) []))) ∧
  (∀ (s : State) (h : Here) (o : Call), Issuing s h →
    let t : Quad := h.i.opc + 2 * o.off.signExtend 64
    o.l ≠ 120 → h.canWrite64 o.l → (h.perf o.p ≠ 0 → t.getLsbD 0 = false) →
    exec (.call o) s = .next (settle h (h.doneWith s (·.went (h.perf o.p) (fun _ => t) 2 h.i.pc)
      (h.into64 o.l (h.perf o.p) fun _ => h.i.next)))) ∧
  (∀ (s : State) (h : Here) (o : Jump), Issuing s h → h.canRead64 o.a o.u o.lit →
    (∀ i, i < 32 → (h.perf o.p).getLsbD i → (h.quad o.a o.u o.lit i).getLsbD 0 = false) →
    exec (.jmp o) s = .next (settle h (h.doneWith s (·.went (h.perf o.p) (h.quad o.a o.u o.lit) 3 h.i.pc) [])) ∧
    exec (.ret o) s = .next (settle h (h.doneWith s (·.went (h.perf o.p) (h.quad o.a o.u o.lit) 4 h.i.pc) []))) ∧
  (∀ (s : State) (h : Here) (o : Duo), Issuing s h → h.canRead64 o.a o.u o.lit → h.canWrite64 o.dst →
    (∀ i, i < 32 → (h.perf o.p).getLsbD i → (h.quad o.a o.u o.lit i).getLsbD 0 = false) →
    exec (.calli o) s = .next (settle h (h.doneWith s (·.went (h.perf o.p) (h.quad o.a o.u o.lit) 5 h.i.pc)
      (h.into64 o.dst (h.perf o.p) fun _ => h.i.next))))

/-- R128, R160, R161: an odd target of a performing strand traps with cause misaligned (3) before any effect; `trap.info` is
the target of the lowest such strand. -/
def Sys2Proof.Clause.OddTargetTraps : Prop :=
  (∀ (s : State) (h : Here) (o : Br), Issuing s h →
    let t : Quad := h.i.opc + 2 * o.off.signExtend 64
    h.perf o.p ≠ 0 → t.getLsbD 0 = true →
    exec (.br o) s = .next (settle h (takeTrap h s 3 t h.i.pc))) ∧
  (∀ (s : State) (h : Here) (o : Jump) (k : Nat), Issuing s h → h.canRead64 o.a o.u o.lit →
    k < 32 → (h.perf o.p).getLsbD k = true → (h.quad o.a o.u o.lit k).getLsbD 0 = true →
    (∀ i, i < k → (h.perf o.p).getLsbD i → (h.quad o.a o.u o.lit i).getLsbD 0 = false) →
    exec (.jmp o) s = .next (settle h (takeTrap h s 3 (h.quad o.a o.u o.lit k) h.i.pc)) ∧
    exec (.ret o) s = .next (settle h (takeTrap h s 3 (h.quad o.a o.u o.lit k) h.i.pc))) ∧
  (∀ (s : State) (h : Here) (o : Call), Issuing s h →
    let t : Quad := h.i.opc + 2 * o.off.signExtend 64
    o.l ≠ 120 → h.canWrite64 o.l → h.perf o.p ≠ 0 → t.getLsbD 0 = true →
    exec (.call o) s = .next (settle h (takeTrap h s 3 t h.i.pc))) ∧
  (∀ (s : State) (h : Here) (o : Duo) (k : Nat), Issuing s h → h.canRead64 o.a o.u o.lit → h.canWrite64 o.dst →
    k < 32 → (h.perf o.p).getLsbD k = true → (h.quad o.a o.u o.lit k).getLsbD 0 = true →
    (∀ i, i < k → (h.perf o.p).getLsbD i → (h.quad o.a o.u o.lit i).getLsbD 0 = false) →
    exec (.calli o) s = .next (settle h (takeTrap h s 3 (h.quad o.a o.u o.lit k) h.i.pc)))

/-- R162 to R165, R249: `exit` of a part of the fibre's live strands marks them EXITED and unbinds their procession floors (R225);
`nop` changes nothing; `yield` makes the fibre READY and passes the slot with the prefix's hint, when a strand performs; a
window move whose value lies in the declared range sets `wbase`. In each the group goes on and nothing else changes. A window move
whose value lies outside traps with cause window, and `trap.info` holds the rejected value; that it is the exact sum in 64-bit two's
complement where `wbadd` goes below 0 is the model's choice (DESIGN CHOICE, log 34). -/
def Sys2Proof.Clause.StrandControlResults : Prop :=
  (∀ (s : State) (h : Here) (p : BitVec 3), Issuing s h →
    exec (.nop p) s = .next (settle h (h.done s []))) ∧
  (∀ (s : State) (h : Here) (p : BitVec 3), Issuing s h → (h.f.exited ||| h.perf p) ≠ BitVec.allOnes 32 →
    exec (.exit p) s = .next (settle h (h.doneWith s (·.exitLanes (h.perf p)) []))) ∧
  (∀ (s : State) (h : Here) (p : BitVec 3), Issuing s h → (h.f.exited ||| h.perf p) = BitVec.allOnes 32 →
    exec (.exit p) s = .next (settle h (fibreDone (h.doneWith s (·.exitLanes (h.perf p)) []) h.i.wave h.i.fibre h.i.hint))) ∧
  (∀ (s : State) (h : Here) (p : BitVec 3), Issuing s h → h.i.sup = false →
    exec (.yield p) s = .next (settle h (if h.perf p = 0 then h.done s []
      else passSlot (h.doneWith s (fun f => { f with state := .ready }) []) h.i.wave h.i.hint))) ∧
  (∀ (s : State) (h : Here) (o : WindowMove), Issuing s h → h.i.sup = false →
    (if o.u then o.a.toNat < 64 else (o.a = 120 ∧ o.lit = none) ∨ (o.a = 126 ∧ o.lit.isSome)) →
    let x : Word := if o.u then h.sreg o.a.toNat else o.lit.getD 0
    let win := h.g.hdr.winOf h.i.fibre
    ((win.1 ≤ x.toNat ∧ x.toNat < win.2) →
      exec (.wbase o) s = .next (settle h (h.doneWith s (fun f => { f with wbase := x.toNat }) []))) ∧
    (((win.1 : Int) ≤ h.f.wbase + x.toInt ∧ h.f.wbase + x.toInt < win.2) →
      exec (.wbadd o) s = .next (settle h (h.doneWith s (fun f => { f with wbase := (h.f.wbase + x.toInt).toNat }) []))) ∧
    (¬(win.1 ≤ x.toNat ∧ x.toNat < win.2) →
      exec (.wbase o) s = .next (settle h (takeTrap h s 2 (BitVec.ofInt 64 x.toNat) h.i.pc))) ∧
    (¬((win.1 : Int) ≤ h.f.wbase + x.toInt ∧ h.f.wbase + x.toInt < win.2) →
      exec (.wbadd o) s = .next (settle h (takeTrap h s 2 (BitVec.ofInt 64 (h.f.wbase + x.toInt)) h.i.pc))))

end

namespace Sys2Proof.Machine

/-! ## Floating-point instructions (R170 to R176) -/

/-- R171: the exact result of each TRI instruction of a and b, before its one rounding. -/
def floatTable : List ((Tri → Instr) × Fmt × (Exact → Exact → Exact)) := [
  (.faddF32, .f32, fun a b => a.add false b), (.fmulF32, .f32, fun a b => a.mul b), (.fsubF32, .f32, fun a b => a.add false b.negate),
  (.faddF16, .f16, fun a b => a.add false b), (.fmulF16, .f16, fun a b => a.mul b), (.fsubF16, .f16, fun a b => a.add false b.negate),
  (.faddBf16, .bf16, fun a b => a.add false b), (.fmulBf16, .bf16, fun a b => a.mul b),
  (.fsubBf16, .bf16, fun a b => a.add false b.negate)]
/-- R171: the fused forms, whose old destination is the addend. -/
def fusedTable : List ((Tri → Instr) × Fmt) := [(.ffmaF32, .f32), (.ffmaF16, .f16), (.ffmaBf16, .bf16)]
/-- a × b + d, or the NaN of the least payload among the three (R75). -/
def fused (a b d : Exact) : Exact := (nanOf [a, b, d]).getD ((a.mul b).add false d)

/-- R172: whether the instruction takes the greater. -/
def minMaxTable : List ((Tri → Instr) × Fmt × Bool) := [
  (.fminF32, .f32, false), (.fmaxF32, .f32, true), (.fminF16, .f16, false), (.fmaxF16, .f16, true),
  (.fminBf16, .bf16, false), (.fmaxBf16, .bf16, true)]
/-- R172: whether a value that is no NaN stands below another, −0 below +0. -/
def below (a b : Exact) : Bool := a.lt b || (a.eq b && a.isZero && a.neg && !b.neg)

/-- R174: FLT that combines the old destination with a: the greatest RM code accepted, and the exact result before its rounding
in a mode. -/
def combineTable : List ((Flt → Instr) × Fmt × Nat × (Rm → Exact → Exact → Exact)) := [
  (.faddF32Rm, .f32, 4, fun m d a => d.add (m == .rd) a), (.fsubF32Rm, .f32, 4, fun m d a => d.add (m == .rd) a.negate),
  (.fmulF32Rm, .f32, 4, fun _ d a => d.mul a), (.fdivF32, .f32, 3, fun _ d a => d.div a),
  (.faddF16Rm, .f16, 4, fun m d a => d.add (m == .rd) a), (.fsubF16Rm, .f16, 4, fun m d a => d.add (m == .rd) a.negate),
  (.fmulF16Rm, .f16, 4, fun _ d a => d.mul a), (.fdivF16, .f16, 3, fun _ d a => d.div a),
  (.faddBf16Rm, .bf16, 4, fun m d a => d.add (m == .rd) a), (.fsubBf16Rm, .bf16, 4, fun m d a => d.add (m == .rd) a.negate),
  (.fmulBf16Rm, .bf16, 4, fun _ d a => d.mul a), (.fdivBf16, .bf16, 3, fun _ d a => d.div a)]
/-- R174: FLT of one operand. -/
def oneTable : List ((Flt → Instr) × Fmt × (Rm → Exact → Exact)) := [
  (.fsqrtF32, .f32, fun _ a => a.sqrt), (.frndF32, .f32, integral), (.fsqrtF16, .f16, fun _ a => a.sqrt),
  (.frndF16, .f16, integral), (.fsqrtBf16, .bf16, fun _ a => a.sqrt), (.frndBf16, .bf16, integral)]
/-- R174: the sign operations, on the 16 bits or 32 bits of an element: the new sign, of the signs of the destination and of a,
and whether the other bits are a's. -/
def signTable : List ((Duo → Instr) × Fmt × (Bool → Bool → Bool) × Bool) := [
  (.fabsF32, .f32, fun _ _ => false, true), (.fnegF32, .f32, fun _ a => !a, true), (.fsgnF32, .f32, fun _ a => a, false),
  (.fabsF16, .f16, fun _ _ => false, true), (.fnegF16, .f16, fun _ a => !a, true), (.fsgnF16, .f16, fun _ a => a, false),
  (.fabsBf16, .bf16, fun _ _ => false, true), (.fnegBf16, .bf16, fun _ a => !a, true), (.fsgnBf16, .bf16, fun _ a => a, false)]

/-- R175: the special values, by the input's bits; `none` where the row leaves the general case. -/
def approxTable : List ((Duo → Instr) × (Word → Nat) × List (Nat × Nat)) := [
  (.frcp, frcpOf, [(0, 0x7F800000), (0x80000000, 0xFF800000), (0x7F800000, 0), (0xFF800000, 0x80000000), (0x7FC00005, 0x7FC00005)]),
  (.frsq, frsqOf, [(0, 0x7F800000), (0x80000000, 0xFF800000), (0x7F800000, 0), (0xFF800000, 0x7FC00000), (0xBF800000, 0x7FC00000)]),
  (.fex2, fex2Of, [(0, 0x3F800000), (0x80000000, 0x3F800000), (0x7F800000, 0x7F800000), (0xFF800000, 0), (0x43000000, 0x7F800000)]),
  (.flg2, flg2Of, [(0, 0xFF800000), (0x80000000, 0xFF800000), (0x7F800000, 0x7F800000), (0xFF800000, 0x7FC00000), (0x3F800000, 0)]),
  (.fsin, ftrigOf 4, [(0, 0), (0x80000000, 0x80000000), (0x7F800000, 0x7FC00000), (0xFF800000, 0x7FC00000)]),
  (.fcos, ftrigOf 5, [(0, 0x3F800000), (0x80000000, 0x3F800000), (0x7F800000, 0x7FC00000), (0xFF800000, 0x7FC00000)])]

/-- R176: narrowing and widening conversions. -/
def narrowTable : List ((CvtSat → Instr) × Fmt) := [(.cvtF16F32, .f16), (.cvtBf16F32, .bf16), (.cvtE4m3F32, .e4m3), (.cvtE5m2F32, .e5m2)]
def widenTable : List ((Duo → Instr) × Fmt) := [(.cvtF32F16, .f16), (.cvtF32Bf16, .bf16), (.cvtF32E4m3, .e4m3), (.cvtF32E5m2, .e5m2)]
/-- R76, R79, R80: the bits of a value of one format in another: a NaN keeps its sign and high payload bits. -/
def converted (src dst : Fmt) (m : Rm) (sat : Bool) (x : Nat) : Nat :=
  match src.value x with
  | .nan p => nanBits dst (x.testBit (src.bits - 1)) (p.getD 0)
  | v => roundTo dst m sat v
/-- R81: the integer nearest in a mode, held in a range. -/
def toRange (m : Rm) (lo hi : Int) (x : Word) : Int :=
  match Fmt.f32.value x.toNat with
  | .nan _ => 0
  | .inf neg => if neg then lo else hi
  | .fin neg n d => max lo (min hi (signedNum neg (roundMagnitude m neg n d)))

end Sys2Proof.Machine

section

open Sys2Proof Sys2Proof.Machine

/-- R171, R79: each element of the destination takes the exact result rounded once, to nearest, the halves of a packed register
on their own; the group goes on and nothing else changes. -/
def Sys2Proof.Clause.FloatResults : Prop :=
  (∀ e ∈ floatTable, ∀ (s : State) (h : Here) (o : Tri), Issuing s h →
    h.canRead o.a false none → h.canRead o.b o.u o.lit → h.canWrite o.dst →
    exec (e.1 o) s = .next (settle h (h.done s (h.into o.dst (h.perf o.p) fun i =>
      halves e.2.1 (fun a b _ => roundTo e.2.1 .rn false (e.2.2 (e.2.1.value a) (e.2.1.value b)))
        (h.word o.a false none i) (h.word o.b o.u o.lit i) 0)))) ∧
  (∀ e ∈ fusedTable, ∀ (s : State) (h : Here) (o : Tri), Issuing s h →
    h.canRead o.a false none → h.canRead o.b o.u o.lit → h.canUpdate o.dst →
    exec (e.1 o) s = .next (settle h (h.done s (h.into o.dst (h.perf o.p) fun i =>
      halves e.2 (fun a b d => roundTo e.2 .rn false (fused (e.2.value a) (e.2.value b) (e.2.value d)))
        (h.word o.a false none i) (h.word o.b o.u o.lit i) (h.reg (h.regOf o.dst.toNat) i)))))

/-- R172: `fmin` and `fmax` return one operand unchanged, −0 below +0 and a when they are equal; with a NaN operand the
result is the quiet NaN of the least payload. -/
def Sys2Proof.Clause.FloatMinMaxResults : Prop :=
  ∀ e ∈ minMaxTable, ∀ (s : State) (h : Here) (o : Tri), Issuing s h →
    h.canRead o.a false none → h.canRead o.b o.u o.lit → h.canWrite o.dst →
    exec (e.1 o) s = .next (settle h (h.done s (h.into o.dst (h.perf o.p) fun i =>
      halves e.2.1 (fun a b _ => match nanOf [e.2.1.value a, e.2.1.value b] with
          | some x => roundTo e.2.1 .rn false x
          | none => if (if e.2.2 then below (e.2.1.value a) (e.2.1.value b) else below (e.2.1.value b) (e.2.1.value a)) then b else a)
        (h.word o.a false none i) (h.word o.b o.u o.lit i) 0)))

/-- R173: the truth of a floating compare goes to the performing strands' bits of the mask, ANDed with the old bit when ACC is 1;
FP16 reads bits 15:0; nothing else changes. -/
def Sys2Proof.Clause.FloatCompareResults : Prop :=
  ∀ e ∈ [(Instr.fcmpF32, Fmt.f32), (Instr.fcmpF16, Fmt.f16)], ∀ (s : State) (h : Here) (o : Cmp), Issuing s h →
    h.canRead o.a false none → h.canRead o.b o.u o.lit →
    exec (e.1 o) s = .next (settle h (h.doneMask s o.mask.toNat (h.perf o.p) fun i =>
      let x := e.2.value ((h.word o.a false none i).toNat % 2 ^ e.2.bits)
      let y := e.2.value ((h.word o.b o.u o.lit i).toNat % 2 ^ e.2.bits)
      let nan := x.isNan || y.isNan
      (match o.cond with
        | 0 => !nan && x.eq y
        | 1 => nan || !(x.eq y)
        | 2 => !nan && x.lt y
        | 3 => !nan && (x.lt y || x.eq y)
        | 4 => !nan && y.lt x
        | 5 => !nan && (y.lt x || x.eq y)
        | 6 => !nan
        | _ => nan) && (!o.acc || (h.mask o.mask.toNat).getLsbD i)))

/-- R174: FLT with a rounding mode: the exact result of the old destination and a, or of a alone, rounded once in the mode. -/
def Sys2Proof.Clause.RoundedFloatResults : Prop :=
  (∀ e ∈ combineTable, ∀ (s : State) (h : Here) (o : Flt), Issuing s h → o.rm.toNat ≤ e.2.2.1 →
    h.canRead o.a o.u o.lit → h.canUpdate o.dst →
    exec (e.1 o) s = .next (settle h (h.done s (h.into o.dst (h.perf o.p) fun i =>
      halves e.2.1 (fun d a _ => roundTo e.2.1 (h.mode o.rm) false (e.2.2.2 (h.mode o.rm) (e.2.1.value d) (e.2.1.value a)))
        (h.reg (h.regOf o.dst.toNat) i) (h.word o.a o.u o.lit i) 0)))) ∧
  (∀ e ∈ oneTable, ∀ (s : State) (h : Here) (o : Flt), Issuing s h → o.rm.toNat ≤ 3 →
    h.canRead o.a o.u o.lit → h.canWrite o.dst →
    exec (e.1 o) s = .next (settle h (h.done s (h.into o.dst (h.perf o.p) fun i =>
      halves e.2.1 (fun a _ _ => roundTo e.2.1 (h.mode o.rm) false (e.2.2 (h.mode o.rm) (e.2.1.value a)))
        (h.word o.a o.u o.lit i) 0 0)))) ∧
  (∀ e ∈ combineTable, ∀ (s : State) (h : Here) (o : Flt), Issuing s h → e.2.2.1 < o.rm.toNat →
    exec (e.1 o) s = .next (refrain h s illegalInstruction)) ∧
  (∀ e ∈ oneTable, ∀ (s : State) (h : Here) (o : Flt), Issuing s h → 3 < o.rm.toNat →
    exec (e.1 o) s = .next (refrain h s illegalInstruction))

/-- R76, R174: `fabs`, `fneg` and `fsgn` change the sign bit of each element alone. -/
def Sys2Proof.Clause.FloatSignResults : Prop :=
  ∀ e ∈ signTable, ∀ (s : State) (h : Here) (o : Duo), Issuing s h → h.canRead o.a o.u o.lit →
    (if e.2.2.2 then h.canWrite o.dst else h.canUpdate o.dst) →
    exec (e.1 o) s = .next (settle h (h.done s (h.into o.dst (h.perf o.p) fun i =>
      halves e.2.1 (fun d a _ =>
          (if e.2.2.2 then a else d) % e.2.1.sign
            + (if e.2.2.1 (d.testBit (e.2.1.bits - 1)) (a.testBit (e.2.1.bits - 1)) then e.2.1.sign else 0))
        (h.reg (h.regOf o.dst.toNat) i) (h.word o.a o.u o.lit i) 0)))

/-- R175: the approximations write one function of the source's bits; its special values are those of the table. Between
them the values are free within the bound (log 16). -/
def Sys2Proof.Clause.ApproximationResults : Prop :=
  (∀ e ∈ approxTable, ∀ (s : State) (h : Here) (o : Duo), Issuing s h → h.canRead o.a o.u o.lit → h.canWrite o.dst →
    exec (e.1 o) s = .next (settle h (h.done s (h.into o.dst (h.perf o.p) fun i =>
      BitVec.ofNat 32 (e.2.1 (h.word o.a o.u o.lit i)))))) ∧
  (∀ e ∈ approxTable, ∀ x ∈ e.2.2, e.2.1 (BitVec.ofNat 32 x.1) = x.2)

/-- R176, R81: conversions between floating formats, to and from integers, and between integers. -/
def Sys2Proof.Clause.ConversionResults : Prop :=
  (∀ e ∈ narrowTable, ∀ (s : State) (h : Here) (o : CvtSat), Issuing s h → o.rm.toNat ≤ 4 → h.canRead o.a o.u o.lit → h.canWrite o.dst →
    exec (e.1 o) s = .next (settle h (h.done s (h.into o.dst (h.perf o.p) fun i =>
      BitVec.ofNat 32 (converted .f32 e.2 (h.mode o.rm) o.sat (h.word o.a o.u o.lit i).toNat))))) ∧
  (∀ e ∈ widenTable, ∀ (s : State) (h : Here) (o : Duo), Issuing s h → h.canRead o.a o.u o.lit → h.canWrite o.dst →
    exec (e.1 o) s = .next (settle h (h.done s (h.into o.dst (h.perf o.p) fun i =>
      BitVec.ofNat 32 (converted e.2 .f32 .rn false ((h.word o.a o.u o.lit i).toNat % 2 ^ e.2.bits)))))) ∧
  (∀ (s : State) (h : Here) (o : Flt), Issuing s h → o.rm.toNat ≤ 3 → h.canRead o.a o.u o.lit → h.canWrite o.dst →
    let x (i : Nat) : Word := h.word o.a o.u o.lit i
    exec (.cvtS32F32 o) s = .next (settle h (h.done s (h.into o.dst (h.perf o.p) fun i =>
      BitVec.ofInt 32 (toRange (h.mode o.rm) (-(2 ^ 31)) (2 ^ 31 - 1) (x i))))) ∧
    exec (.cvtN32F32 o) s = .next (settle h (h.done s (h.into o.dst (h.perf o.p) fun i =>
      BitVec.ofInt 32 (toRange (h.mode o.rm) 0 (2 ^ 32 - 1) (x i))))) ∧
    exec (.cvtF32S32 o) s = .next (settle h (h.done s (h.into o.dst (h.perf o.p) fun i =>
      BitVec.ofNat 32 (roundTo .f32 (h.mode o.rm) false (.fin (decide ((x i).toInt < 0)) (x i).toInt.natAbs 1))))) ∧
    exec (.cvtF32N32 o) s = .next (settle h (h.done s (h.into o.dst (h.perf o.p) fun i =>
      BitVec.ofNat 32 (roundTo .f32 (h.mode o.rm) false (.fin false (x i).toNat 1)))))) ∧
  (∀ (s : State) (h : Here) (o : Flt), Issuing s h → o.rm.toNat ≤ 3 → h.canRead o.a o.u o.lit → h.canWrite64 o.dst →
    exec (.cvtS64F32 o) s = .next (settle h (h.done s (h.into64 o.dst (h.perf o.p) fun i =>
      BitVec.ofInt 64 (toRange (h.mode o.rm) (-(2 ^ 63)) (2 ^ 63 - 1) (h.word o.a o.u o.lit i)))))) ∧
  (∀ (s : State) (h : Here) (o : Flt), Issuing s h → o.rm.toNat ≤ 3 → h.canRead64 o.a o.u o.lit → h.canWrite o.dst →
    exec (.cvtF32S64 o) s = .next (settle h (h.done s (h.into o.dst (h.perf o.p) fun i =>
      let x := (h.quad o.a o.u o.lit i).toInt
      BitVec.ofNat 32 (roundTo .f32 (h.mode o.rm) false (.fin (decide (x < 0)) x.natAbs 1)))))) ∧
  (∀ (s : State) (h : Here) (o : CvtInt), Issuing s h → h.canRead o.a o.u o.lit → h.canWrite o.dst →
    let x (i : Nat) : Word := h.word o.a o.u o.lit i
    exec (.cvtS8S32 o) s = .next (settle h (h.done s (h.into o.dst (h.perf o.p) fun i =>
      if o.sat then BitVec.ofInt 32 (max (-128) (min 127 (x i).toInt)) else ((x i).setWidth 8).signExtend 32))) ∧
    exec (.cvtS16S32 o) s = .next (settle h (h.done s (h.into o.dst (h.perf o.p) fun i =>
      if o.sat then BitVec.ofInt 32 (max (-32768) (min 32767 (x i).toInt)) else ((x i).setWidth 16).signExtend 32))))

end

namespace Sys2Proof.Machine

/-! ## Wave operations and QN4 (R177 to R182) -/

/-- R182: what the value that every performing strand of `c` receives is, of the values `a`. -/
def reduceTable : List ((Duo → Instr) × (Lanes → (Nat → Word) → Word → Prop)) := [
  (.wredAddS32, fun c a v => v = sumOver c a),
  (.wredMinS32, fun c a v => (∃ j < 32, c.getLsbD j ∧ v = a j) ∧ ∀ j < 32, c.getLsbD j → v.toInt ≤ (a j).toInt),
  (.wredMaxS32, fun c a v => (∃ j < 32, c.getLsbD j ∧ v = a j) ∧ ∀ j < 32, c.getLsbD j → (a j).toInt ≤ v.toInt),
  (.wredMinN32, fun c a v => (∃ j < 32, c.getLsbD j ∧ v = a j) ∧ ∀ j < 32, c.getLsbD j → v.toNat ≤ (a j).toNat),
  (.wredMaxN32, fun c a v => (∃ j < 32, c.getLsbD j ∧ v = a j) ∧ ∀ j < 32, c.getLsbD j → (a j).toNat ≤ v.toNat),
  (.wredAndB32, fun c a v => ∀ k < 32, v.getLsbD k = (List.range 32).all fun j => !c.getLsbD j || (a j).getLsbD k),
  (.wredOrB32, fun c a v => ∀ k < 32, v.getLsbD k = (List.range 32).any fun j => c.getLsbD j && (a j).getLsbD k),
  (.wredXorB32, fun c a v => ∀ k < 32, v.getLsbD k = ((List.range 32).countP (fun j => c.getLsbD j && (a j).getLsbD k) % 2 == 1))]
where
  /-- The sum of the values in the lanes of a mask, modulo 2 ^ 32. -/
  sumOver (c : Lanes) (a : Nat → Word) : Word :=
    BitVec.ofNat 32 (((List.range 32).filter fun j => c.getLsbD j).map fun j => (a j).toNat).sum

end Sys2Proof.Machine

section

open Sys2Proof Sys2Proof.Machine

/-- R180: a shuffle takes the source lane's value where that lane performs, and the strand's own elsewhere. -/
def Sys2Proof.Clause.ShuffleResults : Prop :=
  ∀ e ∈ [(Instr.shflB32, fun (_ b : Nat) => b), (Instr.shflxB32, fun (i b : Nat) => i ^^^ b)],
  ∀ (s : State) (h : Here) (o : Tri), Issuing s h →
    h.canRead o.a false none → h.canRead o.b o.u o.lit → h.canWrite o.dst →
    exec (e.1 o) s = .next (settle h (h.done s (h.into o.dst (h.perf o.p) fun i =>
      let j := e.2 i ((h.word o.b o.u o.lit i).toNat % 32)
      if (h.perf o.p).getLsbD j then h.word o.a false none j else h.word o.a false none i)))

/-- R181: votes write the bits of the performing strands alone; `ballot` gives the mask of the strands whose value is not 0;
`first` writes its `s` register once, with the lowest performing strand's value, when one performs. -/
def Sys2Proof.Clause.VoteResults : Prop :=
  (∀ (s : State) (h : Here) (o : Duo), Issuing s h → o.dst.toNat < 8 → h.canRead o.a o.u o.lit →
    let a (i : Nat) : Word := h.word o.a o.u o.lit i
    exec (.voteAny o) s = .next (settle h (h.doneMask s o.dst.toNat (h.perf o.p) fun _ =>
      (List.range 32).any fun i => (h.perf o.p).getLsbD i && a i != 0)) ∧
    exec (.voteAll o) s = .next (settle h (h.doneMask s o.dst.toNat (h.perf o.p) fun _ =>
      (List.range 32).all fun i => !(h.perf o.p).getLsbD i || a i != 0))) ∧
  (∀ (s : State) (h : Here) (o : Duo), Issuing s h → h.canRead o.a o.u o.lit → h.canWrite o.dst →
    ∃ v : Word, (∀ i < 32, v.getLsbD i = ((h.perf o.p).getLsbD i && h.word o.a o.u o.lit i != 0)) ∧
      exec (.ballot o) s = .next (settle h (h.done s (h.into o.dst (h.perf o.p) fun _ => v)))) ∧
  (∀ (s : State) (h : Here) (o : Duo), Issuing s h → o.dst.toNat < (if h.i.sup then 16 else 64) → h.canRead o.a o.u o.lit →
    (h.perf o.p = 0 → exec (.firstB32 o) s = .next (settle h (h.done s []))) ∧
    (∀ k < 32, (h.perf o.p).getLsbD k → (∀ i < k, (h.perf o.p).getLsbD i = false) →
      exec (.firstB32 o) s = .next (settle h (h.doneS s o.dst.toNat (h.word o.a o.u o.lit k)))))

/-- R182: scans and reductions over the performing strands in lane order; every performing strand takes its result and nothing
else changes. -/
def Sys2Proof.Clause.ScanResults : Prop :=
  (∀ (s : State) (h : Here) (o : Duo), Issuing s h → h.canRead o.a o.u o.lit → h.canWrite o.dst →
    let upTo (n : Nat) : Word := reduceTable.sumOver (h.perf o.p &&& BitVec.ofNat 32 (2 ^ n - 1)) fun j => h.word o.a o.u o.lit j
    exec (.scanAddS32 o) s = .next (settle h (h.done s (h.into o.dst (h.perf o.p) fun i => upTo (i + 1)))) ∧
    exec (.scanxAddS32 o) s = .next (settle h (h.done s (h.into o.dst (h.perf o.p) fun i => upTo i)))) ∧
  (∀ e ∈ reduceTable, ∀ (s : State) (h : Here) (o : Duo), Issuing s h → h.canRead o.a o.u o.lit → h.canWrite o.dst →
    ∃ v : Word, (h.perf o.p ≠ 0 → e.2 (h.perf o.p) (fun i => h.word o.a o.u o.lit i) v) ∧
      exec (e.1 o) s = .next (settle h (h.done s (h.into o.dst (h.perf o.p) fun _ => v))))

/-- R177, R178, R86: `qnt` quantises the block that the performing strands hold, +0 in the others, against the super-scale of the
lowest performing strand, and each performing strand takes its code byte under the scale code; `dqn` expands a code byte; the
magnitude index of a code is the nearest one, the smaller on a tie. -/
def Obligations.Qn4Results : Prop :=
  (∀ (s : State) (h : Here) (o : DuoPlain), Issuing s h → o.a.toNat < 120 → h.canRead64 o.a false none →
    o.dst.toNat < 120 → h.canUpdate o.dst → h.perf o.p ≠ 0 →
    let elem (k : Nat) : Nat :=
      if (h.perf o.p).getLsbD (k / 2) then (h.reg (h.regOf (o.a.toNat + k % 2)) (k / 2)).toNat else 0
    let scale := (h.reg (h.regOf o.dst.toNat) (lowest (h.perf o.p))).toNat
    let c := qnScale scale ((List.range 64).map elem)
    exec (.qntQn4 o) s = .next (settle h (h.done s (h.into o.dst (h.perf o.p) fun i =>
      BitVec.ofNat 32 (qnCode (units149 scale) (elem (2 * i)) c + 16 * qnCode (units149 scale) (elem (2 * i + 1)) c + 256 * c))))) ∧
  (∀ (s : State) (h : Here) (o : DuoPlain), Issuing s h → o.a.toNat < 120 → h.canRead64 o.a false none →
    o.dst.toNat < 120 → h.canUpdate o.dst → h.perf o.p = 0 →
    exec (.qntQn4 o) s = .next (settle h (h.done s []))) ∧
  (∀ (s : State) (h : Here) (o : Duo), Issuing s h → h.canRead o.a o.u o.lit → h.canWrite64 o.dst →
    let value (c k : Nat) : Word :=
      if c = 0 then 0
      else BitVec.ofNat 32 (roundTo .f32 .rn false (.fin (k.testBit 3) (c * [5, 16, 28, 40, 53, 69, 91, 128].getD (k % 8) 0) 128))
    exec (.dqnQn4 o) s = .next (settle h (h.done s (h.into64 o.dst (h.perf o.p) fun i =>
      let x := (h.word o.a o.u o.lit i).toNat
      value (x / 256 % 256) (x / 16 % 16) ++ value (x / 256 % 256) (x % 16))))) ∧
  (∀ (u y : Int) (c j : Nat), j < 8 →
    let dist (k : Nat) : Nat := (y.natAbs * 128 - u * c * ([5, 16, 28, 40, 53, 69, 91, 128] : List Nat).getD k 0).natAbs
    let k := qnNearest u y c % 8
    (qnNearest u y c / 8 = if y < 0 then 1 else 0) ∧ dist k ≤ dist j ∧ (dist k = dist j → k ≤ j))

end

namespace Sys2Proof.Machine

/-! ## Loads, stores, atomics (R185 to R193) -/

/-- The address of a global form, and the offset of a local one (R188). -/
def Here.memAddrAt (h : Here) (o : Mem) (lane : Nat) : Nat :=
  (h.quad o.a o.u none lane + BitVec.ofInt 64 (o.off.toInt * memBytes o.sz)).toNat
def Here.memOffsetAt (h : Here) (o : Mem) (lane : Nat) : Nat :=
  (h.word o.a o.u none lane + BitVec.ofInt 32 (o.off.toInt * memBytes o.sz)).toNat
/-- Fields that a load and a store accept (R187). -/
def Here.loads (h : Here) (o : Mem) : Prop :=
  o.sz ≠ 7 ∧ o.d.toNat % memWords o.sz = 0 ∧ h.canWriteN o.d (memWords o.sz)
def Here.stores (h : Here) (o : Mem) : Prop :=
  (o.sz = 0 ∨ o.sz = 2 ∨ o.sz = 4 ∨ o.sz = 5 ∨ o.sz = 6) ∧ o.d.toNat % memWords o.sz = 0 ∧ o.d.toNat ≤ 125 ∧
    (o.d.toNat < 120 → ∀ j < memWords o.sz, h.ready (o.d.toNat + j)) ∧ h.soundN o.d (memWords o.sz)
/-- The local memory and the registers that the performing strands read at their offsets hold no poison (R392). -/
def Here.localSound (h : Here) (s : State) (lanes : Lanes) (n : Nat) (off : Nat → Nat) : Prop :=
  ∀ i < 32, lanes.getLsbD i = true → localPoison s h.w.gang h.g.hdr (off i) n = false
/-- Every performing strand's address is a multiple of the size (R98). -/
def AllAligned (lanes : Lanes) (n : Nat) (addr : Nat → Nat) : Prop :=
  ∀ i < 32, lanes.getLsbD i = true → addr i % n = 0
/-- The stores of the performing strands in lane order (R185). -/
def Here.storeAll (h : Here) (o : Mem) (lanes : Lanes) (addr : Nat → Nat) (t : State) : State :=
  (lanesIn lanes).foldl (fun t i => writeGlobal t (addr i) (toBytes (memBytes o.sz) (h.datum o.d o.sz i)) h.writer) t
/-- How a store travels to a peer, with its data (R370). -/
def Here.carriesStore (h : Here) (o : Mem) : Carry :=
  carryStore h.f.safe fun u => { opc := 2, size := memBytes o.sz, addr := u.addr, data := toBytes (memBytes o.sz) (h.datum o.d o.sz u.lane) }
/-- The stores that this device makes of an issue before peers make theirs. -/
def Here.makesStore (h : Here) (o : Mem) : Made := fun s us =>
  (us.foldl (fun s u => writeGlobal s u.addr (toBytes (memBytes o.sz) (h.datum o.d o.sz u.lane)) h.writer) s, us.map fun _ => [])
/-- What a load leaves, and the value of each lane (R100). -/
def Here.loaded (h : Here) (o : Mem) (t : State) (gs : List (Access × Got)) : State × (Nat → Nat) :=
  let r := loadAll h (memBytes o.sz) t gs
  (r.1, byLane r.2 0)
/-- An address of this device whose sector L2 holds, or whose page's translation is kept. -/
def Reached (s : State) (a : Nat) : Prop :=
  ∀ o, placeOf s a = .own o → (get? s.l2 (secKey s o)).isSome = true ∨ (tlbFind s o).isSome = true
/-- What a lane's access found. -/
def foundIn (gs : List (Access × Got)) (lane : Nat) : Option (Access × Got) := gs.find? fun g => g.1.lane == lane

end Sys2Proof.Machine

section

open Sys2Proof Sys2Proof.Machine

/-- R185, R188: a global load whose accesses are all granted here writes each performing strand's value to its registers; a global
store writes the low bytes of its data at the address of each performing strand, in lane order. The group goes on, and nothing
else changes but what the checks have left and, after a load, the leases that its core holds (`Obligations.LeasedReads`). -/
def Sys2Proof.Clause.GlobalAccessResults : Prop :=
  ∀ (s t : State) (h : Here) (o : Mem), Issuing s h → h.canRead64 o.a o.u none →
    AllAligned (h.perf o.p) (memBytes o.sz) (h.memAddrAt o) →
    let us := accessesOf (h.perf o.p) (h.memAddrAt o)
    let r := h.loaded o t (us.map fun u => (u, .here))
    (h.loads o → h.granted s loadKind us t →
      exec (.ldg o) s = .next (settle h (h.done r.1 (h.intoN o.d (memWords o.sz) (h.perf o.p) fun j i => extended o.sz (r.2 i) j)))) ∧
    (h.stores o → h.granted s storeKind us t →
      exec (.stg o) s = .next (h.ends s (h.done (h.storeAll o (h.perf o.p) (h.memAddrAt o) t) [])))

/-- R99, R100: one access of a load of this device's memory gives the bytes that its home slice holds, or those of a copy that its
core holds under a lease which covers the fibre's logical time; with no such copy it gives the home slice's. Its own time is not
before the fibre's, nor before that of the write whose value it gives, and no byte of memory changes. -/
def Sys2Proof.Clause.LeasedReads : Prop :=
  ∀ (s : State) (h : Here) (o n : Nat),
    let r := readLeased h s o n
    (r.2.1 = ofBytes (readOwn s o n) ∨
      ∃ c : L1Copy, (secKey s o, c) ∈ s.l1 ∧ c.cluster = h.g.cluster ∧ c.core = h.coreOf ∧ h.f.time ≤ c.lease ∧ c.wrote ≤ r.2.2 ∧
        r.2.1 = ofBytes ((c.bytes.drop (secOff s o)).take n)) ∧
    ((∀ c, (secKey s o, c) ∈ s.l1 → ¬(c.cluster = h.g.cluster ∧ c.core = h.coreOf ∧ h.f.time ≤ c.lease)) →
      r.2.1 = ofBytes (readOwn s o n)) ∧
    h.f.time ≤ r.2.2 ∧ ∀ a m, readGlobal r.1 a m = readGlobal s a m

/-- R189: the `.try` forms decide each strand on its own: its status goes to register d + 2; a load whose status is not OK writes
0, a store whose status is not OK writes nothing. `gs` is what the checks of R186 found for each strand; poison that they met is
logged (R393). -/
def Sys2Proof.Clause.TryAccessResults : Prop :=
  ∀ (s t : State) (h : Here) (o : Mem) (gs : List (Access × Got)), Issuing s h → h.canRead64 o.a o.u none →
    o.d.toNat ≤ 117 → o.sz ≠ 6 → h.ready (o.d.toNat + 2) →
    AllAligned (h.perf o.p) (memBytes o.sz) (h.memAddrAt o) →
    let us := accessesOf (h.perf o.p) (h.memAddrAt o)
    let met : State := match gs.find? fun g => g.2.row == 6 with | some g => logPoison t (some h.g.tag) g.1.addr | none => t
    let r := h.loaded o met gs
    let status (i : Nat) : Word := match foundIn gs i with | some (_, .fail _ _ _ x) => BitVec.ofNat 32 x | _ => 0
    let statuses : RegWrite := { reg := h.regOf (o.d.toNat + 2), lanes := h.perf o.p, val := status }
    (h.loads o → examine h s loadKind true (carryLoad (memBytes o.sz)) us = .ok (t, gs) →
      exec (.ldgTry o) s = .next (settle h (h.done r.1 (h.intoN o.d (memWords o.sz) (h.perf o.p) (fun j i => extended o.sz (r.2 i) j)
        ++ [statuses]))) ∧
      ∀ g ∈ gs, g.2.failed = true → r.2 g.1.lane = 0) ∧
    (h.stores o → examine h s storeKind true (h.carriesStore o) us = .ok (t, gs) →
      exec (.stgTry o) s = .next (h.ends s (h.done (gs.foldl (fun t g => match g.2 with
          | .here => writeGlobal t g.1.addr (toBytes (memBytes o.sz) (h.datum o.d o.sz g.1.lane)) h.writer
          | _ => t) met) [statuses])))

/-- R98, R186, R249: an address of a performing strand that is not a multiple of the size traps with cause misaligned (3) before
any effect; the lowest such strand's address is `trap.info`. -/
def Sys2Proof.Clause.MisalignedAccessTraps : Prop :=
  ∀ (s : State) (h : Here) (o : Mem) (k : Nat), Issuing s h → k < 32 → (h.perf o.p).getLsbD k = true →
    (h.canRead64 o.a o.u none → h.memAddrAt o k % memBytes o.sz ≠ 0 →
      (∀ i < k, (h.perf o.p).getLsbD i = true → h.memAddrAt o i % memBytes o.sz = 0) →
      (h.loads o → exec (.ldg o) s = .next (settle h (takeTrap h s 3 (BitVec.ofNat 64 (h.memAddrAt o k)) h.i.pc))) ∧
      (h.stores o → exec (.stg o) s = .next (settle h (takeTrap h s 3 (BitVec.ofNat 64 (h.memAddrAt o k)) h.i.pc)))) ∧
    (h.canRead o.a o.u none → h.memOffsetAt o k % memBytes o.sz ≠ 0 →
      (∀ i < k, (h.perf o.p).getLsbD i = true → h.memOffsetAt o i % memBytes o.sz = 0 ∧ isAperture (h.memOffsetAt o i) = false) →
      (h.loads o → exec (.ldl o) s = .next (settle h (takeTrap h s 3 (BitVec.ofNat 64 (h.memOffsetAt o k)) h.i.pc))) ∧
      (h.stores o → exec (.stl o) s = .next (settle h (takeTrap h s 3 (BitVec.ofNat 64 (h.memOffsetAt o k)) h.i.pc))))

/-- R37, R186: when a performing strand's access meets one of rows 2 to 6, the instruction performs for no strand: row 3 and row 5
park or scout (codes 13 and 14), the others trap (codes 6, 8 and 7), poison with an entry in the
device's log (R393); the first strand with the least row decides. -/
def Sys2Proof.Clause.FailingAccessStops : Prop :=
  ∀ (s t : State) (h : Here) (o : Mem) (gs : List (Access × Got)) (u : Access) (row level : Nat) (ro : Bool), Issuing s h →
    h.canRead64 o.a o.u none → AllAligned (h.perf o.p) (memBytes o.sz) (h.memAddrAt o) → deciding gs = some (u, row, level, ro) →
    let us := accessesOf (h.perf o.p) (h.memAddrAt o)
    let dests : Dests := { regs := if o.d.toNat < 120 then (List.range (memWords o.sz)).map fun j => (h.regOf (o.d.toNat + j), h.perf o.p) else [] }
    let a : Quad := BitVec.ofNat 64 u.addr
    (h.loads o → examine h s loadKind false (carryLoad (memBytes o.sz)) us = .ok (t, gs) →
      exec (.ldg o) s = .next (settle h (
        if row = 3 then takeFault h t 13 a (pattr row level ro false) false dests
        else if row = 5 then takeFault h t 14 a (pattr row level ro false) true dests
        else takeTrap h (if row = 6 then logPoison t (some h.g.tag) u.addr else t) (if row = 4 then 8 else if row = 6 then 7 else 6) a h.i.pc))) ∧
    (h.stores o → examine h s storeKind false (h.carriesStore o) us (h.makesStore o) = .ok (t, gs) →
      exec (.stg o) s = .next (settle h (
        if row = 3 then takeFault h t 13 a (pattr row level ro true) false {}
        else if row = 5 then takeFault h t 14 a (pattr row level ro true) true {}
        else takeTrap h (if row = 6 then logPoison t (some h.g.tag) u.addr else t) (if row = 4 then 8 else if row = 6 then 7 else 6) a h.i.pc)))

/-- R62, R63, R188, R190: local loads and stores complete on every offset that is aligned: a load writes what its offset reads, a
store puts the data of each performing strand, in lane order, and stray accesses are counted with the first one's offset. -/
def Obligations.LocalAccess : Prop :=
  ∀ (s : State) (h : Here) (o : Mem), Issuing s h → h.canRead o.a o.u none →
    AllAligned (h.perf o.p) (memBytes o.sz) (h.memOffsetAt o) →
    (∀ i < 32, (h.perf o.p).getLsbD i = true → isAperture (h.memOffsetAt o i) = true → o.sz = 4 ∨ o.sz = 5) →
    (h.loads o → h.localSound s (h.perf o.p) (memBytes o.sz) (h.memOffsetAt o) →
      let strays := (lanesIn (h.perf o.p)).filter fun i => (localLoad s h.w.gang h.g.hdr (h.memOffsetAt o i) (memBytes o.sz)).2
      exec (.ldl o) s = .next (h.ends s (h.done
        (noteStray s h.w.gang h.i.wave strays.length ((strays.map (h.memOffsetAt o)).headD 0))
        (h.intoN o.d (memWords o.sz) (h.perf o.p) fun j i =>
          extended o.sz (localLoad s h.w.gang h.g.hdr (h.memOffsetAt o i) (memBytes o.sz)).1 j)))) ∧
    (h.stores o →
      ∃ (t : State) (strays : List Nat),
        (lanesIn (h.perf o.p)).foldl (fun r i =>
          let y := localStore r.1 h.w.gang h.g.hdr (h.memOffsetAt o i) (memBytes o.sz) (h.datum o.d o.sz i)
          (y.1, if y.2 then r.2 ++ [h.memOffsetAt o i] else r.2)) (s, []) = (t, strays) ∧
        exec (.stl o) s = .next (h.ends s (h.done (noteStray t h.w.gang h.i.wave strays.length (strays.headD 0)) [])))

/-- R61, R62: one byte of local memory written reads back at every offset that names it, and every other offset reads as before;
a stray offset is not written and reads as zero. -/
def Sys2Proof.Clause.LocalMemoryLaw : Prop :=
  ∀ (s : State) (g : Nat) (x : Gang) (hdr : Header) (o p : Nat) (b : Byte), get? s.gangs g = some x → x.mem.wf = true →
    readLocalByte (writeLocal s g hdr o [b]) g hdr p =
      match localByte hdr (o % 2 ^ 32), localByte hdr (p % 2 ^ 32) with
      | .mem q, .mem r => if q = r then b else x.mem.read r
      | _, .mem r => x.mem.read r
      | _, _ => 0

/-- R96, R117: bytes written within one sector of this device read back; every other byte of global memory, this device's or the
host window's, reads as before. The addresses are such as pass the checks of R186: their sector is held in L2, or their
page's translation is kept. -/
def Sys2Proof.Clause.GlobalMemoryLaw : Prop :=
  ∀ (s : State) (a o c : Nat) (bs : List Byte) (who : Nat × Nat × Nat), a < 2 ^ 64 → c < 2 ^ 64 → placeOf s a = .own o →
    secOff s o + bs.length ≤ 48 → o + bs.length ≤ 2 ^ 56 → Reached s a → Reached s c →
    readGlobal (writeGlobal s a bs who) c 1 = if a ≤ c ∧ c < a + bs.length then [bs.getD (c - a) 0] else readGlobal s c 1

/-- R192: what each OPER makes of the old value and the operand, at 32 and 64 bits; a `cas` that does not match writes nothing. -/
def Sys2Proof.Clause.AtomicOperations : Prop :=
  ∀ (w : Nat) (old b nv : BitVec w), w = 32 ∨ w = 64 →
    let f (oper : Nat) : Option Nat := atomNew oper w old.toNat b.toNat nv.toNat
    f 0 = some (old + b).toNat ∧
    f 1 = some (if old.slt b then old else b).toNat ∧
    f 2 = some (if old < b then old else b).toNat ∧
    f 3 = some (if old.slt b then b else old).toNat ∧
    f 4 = some (if old < b then b else old).toNat ∧
    f 5 = some (old &&& b).toNat ∧
    f 6 = some (old ||| b).toNat ∧
    f 7 = some (old ^^^ b).toNat ∧
    f 8 = some b.toNat ∧
    f 9 = if old = b then some nv.toNat else none

/-- R191 to R193: an atomic whose targets are granted reads and writes the target of each performing strand, in lane order, and
the old values go to its destination; nothing else changes but what the checks, or the count of stray accesses, have left. -/
def Sys2Proof.Clause.AtomicResults : Prop :=
  ∀ (s : State) (h : Here) (dst a : BitVec 7) (p : BitVec 3) (u loc : Bool) (width : BitVec 2) (oper : BitVec 4) (two : Bool), Issuing s h →
    (width = 0 ∨ width = 1) → (two = true → width = 0) → oper.toNat ≤ (if two then 8 else 9) →
    let w := if width = 1 then 64 else 32
    let results := if two || width = 1 then 2 else 1
    let words := if oper = 9 then 2 * results else results
    let size := if two || width = 1 then 8 else 4
    (dst = 120 ∨ (dst.toNat + words ≤ 120 ∧ (width = 1 → dst.toNat % words = 0) ∧ (two = true → dst.toNat % 2 = 0))) → h.canWriteN dst words → h.soundN dst words →
    (u = false → a.toNat < 120) → (if loc then h.canRead a u none else h.canRead64 a u none) →
    let at_ (i : Nat) : Nat := if loc then (h.word a u none i).toNat else (h.quad a u none i).toNat
    AllAligned (h.perf p) size at_ →
    let rs := if dst.toNat < 120 then (List.range words).map fun j => h.regOf (dst.toNat + j) else []
    let parts (i : Nat) : List AtomPart := atomParts two w (h.words rs words i)
    let us := accessesOf (h.perf p) at_
    let i : Instr := if two then .atom2 ⟨dst, a, p, u, loc, oper⟩ else .atom ⟨dst, a, p, u, loc, width, oper⟩
    let olds (r : State × List (Nat × Nat)) : State :=
      h.done r.1 (h.intoN dst results (h.perf p) fun j k => BitVec.ofNat 32 (byLane r.2 0 k / 2 ^ (32 * j)))
    (loc = true → (∀ k < 32, (h.perf p).getLsbD k = true → isAperture (at_ k) = false) →
      h.localSound s (h.perf p) size at_ →
      exec i s = .next (h.ends s (olds (atomLocalForm h s oper.toNat w us parts)))) ∧
    (∀ t, loc = false → h.granted s (atomKind oper.toNat w parts) us t →
      exec i s = .next (h.ends s (olds (atomGlobalForm h t oper.toNat w (us.map fun u => (u, .here)) parts))))

end

namespace Sys2Proof.Machine

/-! ## Exact cells (R90 to R93, R194 to R196) -/

/-- R194: the contributed format of each reduction, and whether it makes two contributions. -/
def contributionTable : List ((Duo → Instr) × CellFmt × Bool) := [
  (.redF32, .float .f32, false), (.redF16, .float .f16, false), (.redBf16, .float .bf16, false), (.redS32, .s32, false),
  (.redS64, .s64, false), (.red2F16, .float .f16, true), (.red2Bf16, .float .bf16, true)]
/-- R196: the greatest RM code, the registers written, and the finalised bits of a cell in a mode. -/
def finalTable : List ((Flt → Instr) × Nat × Nat × (Cell → Rm → Nat)) := [
  (.rfinF32, 4, 1, fun c m => c.finFloat .f32 m), (.rfinF16, 4, 1, fun c m => c.finFloat .f16 m),
  (.rfinBf16, 4, 1, fun c m => c.finFloat .bf16 m), (.rfinS32, 3, 1, fun c m => c.finInt 32 m), (.rfinS64, 3, 2, fun c m => c.finInt 64 m)]
/-- The contributions of a reduction: in each performing strand the value of dst to the cell at a, or its two halves to the cells
at a and a + 48. -/
def Here.contributions (h : Here) (t : CellFmt) (two : Bool) (o : Duo) : List Contribution :=
  (accessesOf (h.perf o.p) fun i => (h.quad o.a o.u none i).toNat).flatMap fun u =>
    let v := if t = .s64 then (h.quad o.dst false none u.lane).toNat else (h.word o.dst false none u.lane).toNat
    if two then [{ access := u, bits := v % 2 ^ 16 }, { access := { u with unit := 1, addr := (u.addr + 48) % 2 ^ 64 }, bits := v / 2 ^ 16 }]
    else [{ access := u, bits := v }]

end Sys2Proof.Machine

section

open Sys2Proof Sys2Proof.Machine

/-- R91, R92: contributions to a cell leave the same image in every order. -/
def Obligations.CellOrderIndependent : Prop :=
  ∀ (c : Cell) (xs ys : List Exact), xs.Perm ys → xs.foldl Cell.add c = ys.foldl Cell.add c

/-- R194, R195: a reduction whose targets are granted merges the contributions of its performing strands into each target sector as
one update; it writes no register. A literal is no address: it is illegal (R57). -/
def Sys2Proof.Clause.ReductionResults : Prop :=
  (∀ e ∈ contributionTable, ∀ (s t : State) (h : Here) (o : Duo), Issuing s h →
    (if e.2.1 = .s64 then o.dst.toNat % 2 = 0 ∧ h.canRead64 o.dst false none else h.canRead o.dst false none) → h.canRead64 o.a o.u none →
    AllAligned (h.perf o.p) 48 (fun i => (h.quad o.a o.u none i).toNat) →
    let cs := h.contributions e.2.1 e.2.2 o
    h.granted s redKind (cs.map (·.access)) t →
    exec (e.1 o) s = .next (h.ends s (h.done
      ((sectorsOf (cs.map (·.access))).foldl (fun t a => putCell t a
        (((cs.filter fun c => c.access.addr = a).map fun c => e.2.1.value c.bits).foldl Cell.add (Cell.read (rawSector t a))) h.writer) t) []))) ∧
  ∀ e ∈ contributionTable, ∀ (s : State) (h : Here) (o : Duo), Issuing s h → o.a = 126 →
    exec (e.1 o) s = .next (refrain h s illegalInstruction)

/-- R196: a finalisation whose sectors are granted writes the value of each performing strand's cell in its mode, and changes neither
the sector nor its tag. A literal is no address: it is illegal (R57). -/
def Sys2Proof.Clause.FinalisationResults : Prop :=
  (∀ e ∈ finalTable, ∀ (s t : State) (h : Here) (o : Flt), Issuing s h → o.rm.toNat ≤ e.2.1 → h.canRead64 o.a o.u none →
    (if e.2.2.1 = 2 then h.canWrite64 o.dst else h.canWrite o.dst) →
    let addr (i : Nat) : Nat := (h.quad o.a o.u none i).toNat
    AllAligned (h.perf o.p) 48 addr → h.granted s rfinKind (accessesOf (h.perf o.p) addr) t →
    exec (e.1 o) s = .next (h.ends s (h.done t (h.intoN o.dst e.2.2.1 (h.perf o.p) fun j i =>
      BitVec.ofNat 32 (e.2.2.2 (Cell.read (rawSector t (addr i))) (h.mode o.rm) / 2 ^ (32 * j)))))) ∧
  ∀ e ∈ finalTable, ∀ (s : State) (h : Here) (o : Flt), Issuing s h → o.a = 126 →
    exec (e.1 o) s = .next (refrain h s illegalInstruction)

end

namespace Sys2Proof.Machine

/-! ## Asynchronous commands (R102 to R107, R197 to R222, R233) -/

/-- The descriptor that the `s` registers of a copy hold (R198): element size 2 ^ e, d + 1 dimensions, linear or tile. -/
def Here.describes (h : Here) (o : Asy) (form : Nat) (c : CopyDesc) : Prop :=
  let a := o.sa.toNat
  ∃ e d : Nat, ∃ tile : Bool, e ≤ 4 ∧ d ≤ 4 ∧ (h.sreg (a + 2)).toNat = e + 8 * d + (if tile then 64 else 0) ∧
    c = { form, base := if form = 2 then (h.sreg a).setWidth 64 else h.sreg (a + 1) ++ h.sreg a, esz := 2 ^ e, dims := d, tile
          n := (List.range (d + 1)).map fun k => (h.sreg (a + 3 + k)).toNat
          st := (List.range d).map fun k => (h.sreg (a + 8 + k)).toInt
          dense := h.sreg o.sc.toNat }
/-- The conditions of R200 on a descriptor. -/
def CopyDesc.Valid (c : CopyDesc) : Prop :=
  (∀ n ∈ c.n, n ≠ 0) ∧ c.esz * c.n.foldl (· * ·) 1 ≤ 2 ^ 21 ∧ c.base.toNat % c.esz = 0 ∧ (∀ x ∈ c.st, x % c.esz = 0) ∧
  c.dense.toNat % 16 = 0 ∧
  (c.tile = true → 1 ≤ c.dims ∧ c.n.getD 0 0 % 32 = 0 ∧ c.n.getD 1 0 % 32 = 0 ∧ c.esz ≤ 4)
/-- The three copies, with their forms: global to local, local to global, local to local. -/
def copyTable : List ((Asy → Instr) × Nat) := [(.tcopyGl, 0), (.tcopyLg, 1), (.tcopyLl, 2)]
/-- A shape of the MAT format (R140), in kernel mode (R251). -/
def Here.shaped (h : Here) (m n : BitVec 2) (sa : BitVec 6) : Prop := h.i.sup = false ∧ m ≠ 3 ∧ n ≠ 3 ∧ sa.toNat ≤ 60
/-- The last subtile of an accumulator (R65, R66). -/
def lastSubtile (t : Nat) (m n : BitVec 2) : Nat := t + (32 * 2 ^ m.toNat) * (32 * 2 ^ n.toNat) / 1024 - 1
/-- A multiply of `k` columns whose operands are accepted (R140, R216, R217): A, B and the block map by their local offsets, the
accumulator by its subtile, and whether it begins from zero. -/
def Here.multiplies (h : Here) (fmt : Nat) (m n : BitVec 2) (k : Nat) (sp : Bool) (sa : BitVec 6) (kind : OpKind) : Prop :=
  let a := sa.toNat
  h.shaped m n sa ∧ (h.sreg (a + 2)).toNat < 256 ∧ (h.sreg a).toNat % 16 = 0 ∧ (h.sreg (a + 1)).toNat % 16 = 0 ∧
  (sp = true → (h.sreg (a + 3)).toNat % 16 = 0) ∧
  kind = .mma fmt (32 * 2 ^ m.toNat) (32 * 2 ^ n.toNat) k sp (h.sreg a) (h.sreg (a + 1)) ((h.sreg (a + 2)).toNat % 128)
    ((h.sreg (a + 2)).getLsbD 7) (h.sreg (a + 3))
/-- An `msacc` whose operands are accepted (R219). -/
def Here.scales (h : Here) (o : Macc) (u t : Nat) (kind : OpKind) : Prop :=
  let a := o.sa.toNat
  let m := 32 * 2 ^ o.m.toNat
  let n := 32 * 2 ^ o.n.toNat
  let vector (x : Word) : Prop := x.toNat / 2 ^ 28 = 15 ∨ x.toNat % 16 = 0
  let named (x : Word) : Option Word := if x.toNat / 2 ^ 28 = 15 then none else some x
  h.shaped o.m o.n o.sa ∧ (h.sreg a).toNat < 256 ∧ u = (h.sreg a).toNat % 128 ∧ t = (h.sreg (a + 2)).toNat ∧ t < 128 ∧
  (u = t ∨ u + m * n / 1024 ≤ t ∨ t + m * n / 1024 ≤ u) ∧ vector (h.sreg (a + 1)) ∧ vector (h.sreg (a + 3)) ∧
  kind = .msacc m n u t ((h.sreg a).getLsbD 7) (named (h.sreg (a + 1))) (named (h.sreg (a + 3)))
/-- A drain whose operands are accepted (R220). -/
def Here.drains (h : Here) (add : Bool) (o : Mdrain) (kind : OpKind) : Prop :=
  let a := o.sa.toNat
  let m := 32 * 2 ^ o.m.toNat
  let n := 32 * 2 ^ o.n.toNat
  let src := h.sreg a
  let out := h.sreg (a + 1)
  let rm := (out.extractLsb' 2 3).toNat
  let size := ([4, 2, 2, 1, 1, 4, 1] : List Nat).getD o.fmt.toNat 1
  let stride := (out.extractLsb' 8 24).toNat
  let dest : Quad := if o.sp then h.sreg (a + 3) ++ h.sreg (a + 2) else (h.sreg (a + 2)).setWidth 64
  h.shaped o.m o.n o.sa ∧ o.fmt.toNat ≤ 6 ∧ (o.sp = true → a % 2 = 0) ∧ src.toNat < 256 ∧ out.extractLsb' 6 2 = 0 ∧
  (if o.fmt = 0 then rm = 0 else if o.fmt.toNat ≤ 4 then rm ≤ 4 else rm ≤ 3) ∧
  (if out.getLsbD 0 then stride % size = 0 ∧ n * size ≤ stride else stride = 0) ∧
  (add = true → if o.sp then out.getLsbD 0 = true ∧ stride % 48 = 0 ∧ o.fmt = (if src.getLsbD 7 then 5 else 0)
    else out.getLsbD 0 = false ∧ (o.fmt = 0 ∨ o.fmt = 1 ∨ o.fmt = 2 ∨ o.fmt = 5)) ∧
  (if o.sp then add = true → dest.toNat % 48 = 0 else dest.toNat % 16 = 0) ∧
  kind = .drain add m n (src.toNat % 128) (src.getLsbD 7) o.fmt.toNat o.sp (out.getLsbD 0) (out.getLsbD 1) rm (out.getLsbD 5)
    stride dest (h.sreg 63)
/-- A trace whose operands are accepted (R233): the ray record and the hit record of each strand of the group, the trees' addresses,
and the list context of its appends; `status` is FAULT where that context lies in the register aperture (R63). -/
def Here.traces (h : Here) (o : GfxDAS) (kind : OpKind) (status : Nat) : Prop :=
  let a := o.s.toNat
  let ctl := h.sreg (a + 5)
  let words := (List.range 5).map fun k => h.sreg (a + 6 + k)
  let record (i : Nat) : Quad := h.quad o.a false none i
  let hit (i : Nat) : Quad := h.quad o.d false none i
  h.i.sup = false ∧ a % 2 = 0 ∧ a ≤ 52 ∧ o.a.toNat ≤ 118 ∧ o.a.toNat % 2 = 0 ∧ o.d.toNat ≤ 118 ∧ o.d.toNat % 2 = 0 ∧
  h.canRead64 o.a false none ∧ h.canRead64 o.d false none ∧ ctl.toNat < 8 ∧
  (∀ i, i < 32 → h.i.lanes.getLsbD i → (record i).toNat % 16 = 0 ∧ (hit i).toNat % 16 = 0) ∧
  (if ctl.getLsbD 1 then ∃ c, listCtx words = some c ∧ c.head % 4 = 0 ∧ c.pool % 16 = 0 ∧
    status = (if c.imm = false ∧ (isAperture c.head ∨ isAperture c.pool) then 14 else 0) else status = 0) ∧
  kind = .trace ((lanesIn h.i.lanes).map fun i => (i, record i, hit i)) (h.sreg (a + 1) ++ h.sreg a)
    (h.sreg (a + 3) ++ h.sreg (a + 2)) (h.sreg (a + 4)) (ctl.getLsbD 0) (ctl.getLsbD 1) (ctl.getLsbD 2) words

/-- An asynchronous command whose operands are accepted: what it starts, its class, the operand that names its barrier object, the
last subtiles of the accumulators that it names, and the status with which it starts. -/
structure Command where
  instr  : Instr
  kind   : OpKind
  cls    : Nat
  bar    : Word
  lasts  : List Nat := []
  status : Nat := if reachesAperture kind.runs then 14 else 0
/-- The commands that this issue's registers make, but for collectives. -/
inductive Accepts (h : Here) : Command → Prop where
  | copy (e : (Asy → Instr) × Nat) (o : Asy) (c : CopyDesc) : e ∈ copyTable → h.i.sup = false → o.sa.toNat % 4 = 0 → o.sa.toNat ≤ 52 →
      h.describes o e.2 c → c.Valid →
      Accepts h { instr := e.1 o, kind := .copy e.2 c.base c.esz c.dims c.tile c.n c.st c.dense, cls := 0, bar := h.sreg o.sb.toNat,
                  status := if reachesAperture c.localRuns then 14 else 0 }
  | multiplyByte (e : (MmaByte → Instr) × Nat) (o : MmaByte) (kind : OpKind) : e ∈ [(.mmaS8, 0), (.mmaE4m3, 1), (.mmaE5m2, 2)] →
      h.multiplies e.2 o.m o.n (32 * (o.k.toNat + 1)) o.sp o.sa kind →
      Accepts h { instr := e.1 o, kind, cls := 1, bar := h.sreg o.sb.toNat, lasts := [lastSubtile ((h.sreg (o.sa.toNat + 2)).toNat % 128) o.m o.n] }
  | multiplyQn (o : MmaQn) (kind : OpKind) : h.multiplies 3 o.m o.n 64 o.sp o.sa kind →
      Accepts h { instr := .mmaQn4 o, kind, cls := 1, bar := h.sreg o.sb.toNat, lasts := [lastSubtile ((h.sreg (o.sa.toNat + 2)).toNat % 128) o.m o.n] }
  | multiplyHalf (e : (MmaHalf → Instr) × Nat) (o : MmaHalf) (kind : OpKind) : e ∈ [(.mmaF16, 4), (.mmaBf16, 5)] →
      h.multiplies e.2 o.m o.n (16 * (o.k.toNat + 1)) o.sp o.sa kind →
      Accepts h { instr := e.1 o, kind, cls := 1, bar := h.sreg o.sb.toNat, lasts := [lastSubtile ((h.sreg (o.sa.toNat + 2)).toNat % 128) o.m o.n] }
  | scale (o : Macc) (u t : Nat) (kind : OpKind) : h.scales o u t kind →
      Accepts h { instr := .msacc o, kind, cls := 1, bar := h.sreg o.sb.toNat, lasts := [lastSubtile u o.m o.n, lastSubtile t o.m o.n] }
  | clear (o : Macc) : h.shaped o.m o.n o.sa → (h.sreg o.sa.toNat).toNat < 128 →
      Accepts h { instr := .mclear o, kind := .mclear (32 * 2 ^ o.m.toNat) (32 * 2 ^ o.n.toNat) (h.sreg o.sa.toNat).toNat, cls := 1,
                  bar := h.sreg o.sb.toNat, lasts := [lastSubtile (h.sreg o.sa.toNat).toNat o.m o.n], status := 0 }
  | drain (e : (Mdrain → Instr) × Bool) (o : Mdrain) (kind : OpKind) : e ∈ [(.mdrain, false), (.mdrainAdd, true)] → h.drains e.2 o kind →
      Accepts h { instr := e.1 o, kind, cls := 4, bar := h.sreg o.sb.toNat, lasts := [lastSubtile ((h.sreg o.sa.toNat).toNat % 128) o.m o.n] }
  | trace (o : GfxDAS) (kind : OpKind) (status : Nat) : h.traces o kind status →
      Accepts h { instr := .trace o, kind, cls := 2, bar := h.sreg (o.s.toNat + 11), status }

/-- The three collectives, with the codes under which they travel (R370). -/
def collTable : List ((Asy → Instr) × Nat) := [(.collRed, 8), (.collBcast, 9), (.collAgat, 10)]
/-- A collective whose operands are accepted (R202, R203), by its key but for EPOCH and count. -/
def Here.collects (h : Here) (op : Nat) (o : Asy) (k : CollKey) : Prop :=
  let a := o.sa.toNat
  let b := o.sc.toNat
  h.i.sup = false ∧ a % 2 = 0 ∧ a ≤ 58 ∧ b % 2 = 0 ∧ b ≤ 60 ∧
  k.op = op ∧ (h.sreg (a + 2)).toNat = k.c ∧ (h.sreg (a + 3)).toNat % 8 = k.fmt ∧ (h.sreg (a + 3)).toNat / 256 = k.root ∧
  (h.sreg (b + 2)).toNat = k.handle ∧ k.epoch = 0 ∧ k.count = 0 ∧
  k.fmt ≤ 4 ∧ k.root < 256 ∧ k.handle < 2 ^ 16 ∧ (op ≠ 9 → k.root = 0) ∧ k.c ≠ 0 ∧ k.c * k.size ≤ 2 ^ 21 ∧
  (h.sreg (a + 1) ++ h.sreg a).toNat % k.size = 0 ∧ (h.sreg (b + 1) ++ h.sreg b).toNat % (if op = 8 then 48 else 16) = 0
/-- The asynchronous commands, all of which are illegal in supervisor mode (R251). -/
inductive AsyncCommand : Instr → Prop where
  | copy (e : (Asy → Instr) × Nat) (o : Asy) : e ∈ copyTable → AsyncCommand (e.1 o)
  | coll (e : (Asy → Instr) × Nat) (o : Asy) : e ∈ collTable → AsyncCommand (e.1 o)
  | multiplyByte (e : MmaByte → Instr) (o : MmaByte) : e ∈ [Instr.mmaS8, .mmaE4m3, .mmaE5m2] → AsyncCommand (e o)
  | multiplyQn (o : MmaQn) : AsyncCommand (.mmaQn4 o)
  | multiplyHalf (e : MmaHalf → Instr) (o : MmaHalf) : e ∈ [Instr.mmaF16, .mmaBf16] → AsyncCommand (e o)
  | scale (o : Macc) : AsyncCommand (.msacc o)
  | clear (o : Macc) : AsyncCommand (.mclear o)
  | drain (e : Mdrain → Instr) (o : Mdrain) : e ∈ [Instr.mdrain, .mdrainAdd] → AsyncCommand (e o)
  | trace (o : GfxDAS) : AsyncCommand (.trace o)

/-- A command of some classes whose operands are accepted (`Accepts`), whose barrier object is one, whose accumulators lie in the
gang's claim of 8 subtiles per unit, and for which there is room, issues: the operation that its registers describe is in flight
under the barrier object named, and nothing else changes. -/
def CommandsIssue (classes : List Nat) : Prop :=
  ∀ (s : State) (h : Here) (c : Command), c.cls ∈ classes → Issuing s h → Accepts h c → BarrierOk c.bar →
    (∀ t ∈ c.lasts, t < 8 * h.g.hdr.acc) → h.room s c.cls →
    exec c.instr s = .next (settle h (h.issued s c.kind c.cls (barrierNamed c.bar) c.status))

end Sys2Proof.Machine

section

open Sys2Proof Sys2Proof.Machine

/-- R106, R197 to R201: a copy whose descriptor is valid issues: the copy that its `s` registers describe is in flight under the
barrier object named, already FAULT when its local side reaches the aperture (R63), and nothing else changes. -/
def Obligations.CopyIssues : Prop := CommandsIssue [0]

/-- R106, R216 to R221: every multiply, `msacc`, `mclear` and drain whose operands are accepted and whose accumulators lie in the
gang's claim issues with what its `s` registers name. -/
def Obligations.MatrixIssues : Prop := CommandsIssue [1, 4]

/-- R106, R233: a trace issues with the ray record and the hit record of each strand of the group, the trees' addresses, and the
list context of its appends. -/
def Sys2Proof.Clause.TraceIssues : Prop := CommandsIssue [2]

/-- R106, R202 to R204, R374, R375: a collective whose operands are accepted issues. With a valid group entry it takes the EPOCH and
the next count of its handle, and reports at once if it has nothing to read; with a root, a source or a destination that the group
or this device's space does not hold it reports a failed source; with a rank 0 that is not reached it is on its own (R376).
Without a valid entry it completes at once with FAULT, and every device that is reached hears that this one has left. (That a source or
a destination outside the device's space is a failed source unit with status 14, and the cancellation of rank 0xFF that the reached
devices get, are the model's choices, DESIGN CHOICE, log 19.) -/
def Sys2Proof.Clause.CollectiveIssues : Prop :=
  ∀ e ∈ collTable, ∀ (s t : State) (h : Here) (o : Asy) (k : CollKey), Issuing s h → h.collects e.2 o k →
    BarrierOk (h.sreg o.sb.toNat) → h.f.counts.getD 3 0 < 255 →
    let a := o.sa.toNat
    let b := o.sc.toNat
    let src : Quad := h.sreg (a + 1) ++ h.sreg a
    let dst : Quad := h.sreg (b + 1) ++ h.sreg b
    let bar := barrierNamed (h.sreg o.sb.toNat)
    let deadline := readDeadline (h.sreg (a + 5) ++ h.sreg (a + 4))
    let kind (epoch count rank : Nat) (devs : List Nat) : OpKind := .coll e.2 src dst k.c k.fmt k.root k.handle epoch count rank devs deadline
    (readGroup s k.handle = (t, none) →
      exec (e.1 o) s = .next (h.ends s (completeColls (t.reach.foldl (fun t d => sendColl t d 3 k 0xFF 12 [])
        (modOp (h.issued t (kind 0 0 0 []) 3 bar 0) t.nextUid fun op => { op with sent := true, decided := some 14 }))))) ∧
    (∀ (x : Group), readGroup s k.handle = (t, some x) →
      let base := if (collGroup t k.handle).epoch = x.epoch then (collGroup t k.handle).count else 0
      let count := (base + ((openColls t k.handle).filter fun y => y.2.2.key.epoch = x.epoch).length) % 2 ^ 32
      let issued := h.issued { t with collGroups := put t.collGroups k.handle { collGroup t k.handle with epoch := x.epoch, count := base } }
        (kind x.epoch count x.rank x.devs) 3 bar 0
      let root := x.devs.headD 0
      let started := if root = t.devId.toNat ∨ reachable t root = true then issued else orphanCollectives issued root
      let bytes := k.c * k.size
      if k.root < x.count ∧ ownRange t src.toNat bytes = true ∧
          ownRange t dst.toNat (if e.2 = 8 then 48 * k.c else if e.2 = 9 then bytes else x.count * bytes) = true then
        exec (e.1 o) s = .next (h.ends s (reportColl started t.nextUid))
      else
        exec (e.1 o) s = .next (h.ends s (toRoot (modOp started t.nextUid fun op => { op with sent := true })
          { key := { k with epoch := x.epoch, count }, src, dst, rank := x.rank, devs := x.devs, deadline } 3 14 [])))

/-- R29, R106: a command whose counter already stands at 255, a copy whose core has 96 in flight, or a matrix operation whose
cluster has 32, issues no operation: its fibre stalls until the counter or the queue has room, and the same instruction then
issues again. -/
def Sys2Proof.Clause.FullCounterStalls : Prop :=
  (∀ (s : State) (h : Here) (c : Command), Issuing s h → Accepts h c → BarrierOk c.bar → (∀ t ∈ c.lasts, t < 8 * h.g.hdr.acc) →
    (255 ≤ h.f.counts.getD c.cls 0 → exec c.instr s = .next (stallOn h s (.resource (.counter c.cls)))) ∧
    (h.f.counts.getD c.cls 0 < 255 → c.cls = 0 → 96 ≤ aceUsed s h.g.cluster h.coreOf →
      exec c.instr s = .next (stallOn h s (.resource .ace))) ∧
    (h.f.counts.getD c.cls 0 < 255 → c.cls = 1 ∨ c.cls = 4 → 32 ≤ mxeUsed s h.g.cluster →
      exec c.instr s = .next (stallOn h s (.resource .mxe)))) ∧
  (∀ e ∈ collTable, ∀ (s : State) (h : Here) (o : Asy) (k : CollKey), Issuing s h → h.collects e.2 o k → BarrierOk (h.sreg o.sb.toNat) →
    255 ≤ h.f.counts.getD 3 0 → exec (e.1 o) s = .next (stallOn h s (.resource (.counter 3))))

/-- R66, R200, R202, R216, R251: in supervisor mode every asynchronous command is illegal. A barrier operand that names no object and is
off its boundary takes the misaligned trap (cause 3) with the operand in INFO; an accumulator beyond the claim the accumulator
trap (cause 5), with the last subtile of the first such accumulator in INFO; a copy with an invalid descriptor, and an `mclear`
of an accumulator number from 128 on, the descriptor trap (cause 4); an operand of a multiply off its boundary the misaligned
trap with the operand. -/
def Sys2Proof.Clause.AsyncCommandTraps : Prop :=
  (∀ (s : State) (h : Here) (i : Instr), Issuing s h → AsyncCommand i → h.i.sup = true → exec i s = .next (refrain h s illegalInstruction)) ∧
  (∀ (s : State) (h : Here) (c : Command), Issuing s h → Accepts h c →
    (¬BarrierOk c.bar → exec c.instr s = .next (settle h (takeTrap h s 3 (c.bar.setWidth 64) h.i.pc))) ∧
    (∀ t, BarrierOk c.bar → c.lasts.find? (fun t => decide (8 * h.g.hdr.acc ≤ t)) = some t →
      exec c.instr s = .next (settle h (takeTrap h s 5 (BitVec.ofNat 64 t) h.i.pc)))) ∧
  (∀ e ∈ collTable, ∀ (s : State) (h : Here) (o : Asy) (k : CollKey), Issuing s h → h.collects e.2 o k → ¬BarrierOk (h.sreg o.sb.toNat) →
    exec (e.1 o) s = .next (settle h (takeTrap h s 3 ((h.sreg o.sb.toNat).setWidth 64) h.i.pc))) ∧
  (∀ e ∈ copyTable, ∀ (s : State) (h : Here) (o : Asy), Issuing s h → h.i.sup = false → o.sa.toNat % 4 = 0 → o.sa.toNat ≤ 52 →
    (∀ c, h.describes o e.2 c → ¬c.Valid) → exec (e.1 o) s = .next (settle h (takeTrap h s 4 0 h.i.pc))) ∧
  (∀ (s : State) (h : Here) (o : Macc), Issuing s h → h.shaped o.m o.n o.sa → 128 ≤ (h.sreg o.sa.toNat).toNat →
    exec (.mclear o) s = .next (settle h (takeTrap h s 4 0 h.i.pc))) ∧
  (∀ (s : State) (h : Here) (o : MmaByte), Issuing s h → h.shaped o.m o.n o.sa → (h.sreg (o.sa.toNat + 2)).toNat < 256 →
    (h.sreg o.sa.toNat).toNat % 16 ≠ 0 →
    exec (.mmaS8 o) s = .next (settle h (takeTrap h s 3 ((h.sreg o.sa.toNat).setWidth 64) h.i.pc)) ∧
    exec (.mmaE4m3 o) s = .next (settle h (takeTrap h s 3 ((h.sreg o.sa.toNat).setWidth 64) h.i.pc)) ∧
    exec (.mmaE5m2 o) s = .next (settle h (takeTrap h s 3 ((h.sreg o.sa.toNat).setWidth 64) h.i.pc)))

end

namespace Sys2Proof.Machine

/-! ## Waits (R31 to R36, R106 to R115, R119, R205 to R212) -/

/-- The classes of a fence's mask that have completed (R119): counters at 0, and for class 5 the write-back, at peers as well. -/
def Here.drained (h : Here) (t : State) (mask : BitVec 6) : Word :=
  BitVec.ofNat 32 ((List.range 6).map fun k =>
    if mask.getLsbD k = true ∧ (if k = 5 then farOf t h.i.wave h.i.fibre = [] else h.f.counts.getD k 0 = 0) then 2 ^ k else 0).sum
/-- The barrier object after an event (R109): its counts, then the completion check, as one access. -/
def Barrier.completed (b : Barrier) : Barrier :=
  if b.penda = 0 ∧ b.pendb = 0 then
    { b with phase := !b.phase, gen := (b.gen + 1) % 2 ^ 15, last := b.status, status := 0, penda := b.expa, wdr := 0 }
  else b
/-- A local offset that is neither stray nor in the aperture, of a gang whose local memory is on the device's cores, where an object
of 16 bytes holds no poison. -/
def Here.plainLocal (h : Here) (s : State) (o : Nat) : Prop :=
  (∃ q, localByte h.g.hdr o = .mem q) ∧ awayAt s h.w.gang = none ∧ localPoison s h.w.gang h.g.hdr o 16 = false
/-- The object at an offset changed by an event (R109), in one access. With the phase that it completes, every fibre of the gang
that waits for it there is ready with its LAST (R111). -/
def Here.objectAfter (h : Here) (s : State) (o : Nat) (new : Barrier) : State :=
  phaseOver (writeLocal s h.w.gang h.g.hdr o new.bytes) h.w.gang h.g.hdr o (barrierAt s h.w.gang h.g.hdr o) new

end Sys2Proof.Machine

section

open Sys2Proof Sys2Proof.Machine

/-- R107, R119: `waitc` and `fence` end at once with OK when what they wait for has come, a fence with the set of its completed
classes beside the status; a deadline that is already reached ends them with TIMEOUT, a fence with PARTIAL if some class has
completed; else the fibre waits, and no register changes. A fence of class 5 first writes back every dirty
system-shared line (R118). -/
def Sys2Proof.Clause.CounterWaitResults : Prop :=
  (∀ (s : State) (h : Here) (o : Waitc), Issuing s h → h.seated s → o.cls.toNat ≤ 4 → h.canWait o.st o.dl →
    let ended := h.f.counts.getD o.cls.toNat 0 ≤ o.n.toNat
    (ended → exec (.waitc o) s = .next (h.ends s (h.doneS s o.st.toNat 0))) ∧
    (¬ended → h.late s (h.until o.dl) = true → exec (.waitc o) s = .next (h.ends s (h.doneS s o.st.toNat 1))) ∧
    (¬ended → h.late s (h.until o.dl) = false →
      exec (.waitc o) s = .next (h.ends s (h.waits s (h.newWait s (.waitc o.cls.toNat o.n.toNat) o.st o.dl))))) ∧
  (∀ (s t : State) (h : Here) (o : Fence), Issuing s h → h.seated t → hereOf t = some h → h.canWait o.st o.dl →
    o.st.toNat + 1 < (if h.i.sup then 16 else 64) →
    (if o.mask.getLsbD 5 then fenceWriteBack s = (t, none) else t = s) →
    let b := h.drained t o.mask
    let wait := h.newWait t (.fence o.mask) o.st o.dl
    (b.toNat = o.mask.toNat → exec (.fence o) s = .next (h.ends s (h.doneSs t [(o.st.toNat + 1, b), (o.st.toNat, 0)]))) ∧
    (b.toNat ≠ o.mask.toNat → h.late t (h.until o.dl) = true →
      exec (.fence o) s = .next (h.ends s (h.doneSs t [(o.st.toNat + 1, b), (o.st.toNat, if b = 0 then 1 else 3)]))) ∧
    (b.toNat ≠ o.mask.toNat → h.late t (h.until o.dl) = false → exec (.fence o) s = .next (h.ends s (h.waits t wait))))

/-- R108 to R110, R205, R206: `bexp` raises the pending bytes of a barrier object, `barr` and an arriving `bwait` lower its pending
arrivals, each with the completion check in the same access; `bwait` ends with the last status when the phase differs from its
parity, else with TIMEOUT when its deadline is already reached, or WITHDRAWN after withdrawing its arrival, or it waits. -/
def Sys2Proof.Clause.BarrierResults : Prop :=
  (∀ (s : State) (h : Here) (o : BarA), Issuing s h → o.a.toNat + 1 < (if h.i.sup then 16 else 64) →
    let off := (h.sreg o.a.toNat).toNat
    let x := (h.sreg (o.a.toNat + 1)).toNat
    let b := barrierAt s h.w.gang h.g.hdr off
    off % 16 = 0 → h.plainLocal s off →
    exec (.bexp o) s = .next (h.ends s (h.done (h.objectAfter s off
      (Barrier.completed { b with pendb := (b.pendb + x % 2 ^ 31) % 2 ^ 32 })) [])) ∧
    exec (.barr o) s = .next (h.ends s (h.done (h.objectAfter s off
      (Barrier.completed { b with penda := b.penda - x % 2 ^ 16 })) []))) ∧
  (∀ (s : State) (h : Here) (o : BarA), Issuing s h → o.a.toNat + 1 < (if h.i.sup then 16 else 64) →
    (h.sreg o.a.toNat).toNat % 16 ≠ 0 →
    exec (.bexp o) s = .next (settle h (takeTrap h s 3 ((h.sreg o.a.toNat).setWidth 64) h.i.pc)) ∧
    exec (.barr o) s = .next (settle h (takeTrap h s 3 ((h.sreg o.a.toNat).setWidth 64) h.i.pc))) ∧
  (∀ (s : State) (h : Here) (o : Bwait), Issuing s h → h.seated s → h.canWait o.st o.dl →
    (o.a.toNat + if o.arrive then 1 else 0) < (if h.i.sup then 16 else 63) →
    let off := (h.sreg o.a.toNat)
    let b := barrierAt s h.w.gang h.g.hdr off.toNat
    let c := (h.sreg (o.a.toNat + 1)).toNat % 2 ^ 16
    let arrived := h.objectAfter s off.toNat (Barrier.completed { b with penda := b.penda - c })
    let t := if o.arrive then arrived else s
    let b' := barrierAt t h.w.gang h.g.hdr off.toNat
    let wait := { h.newWait t (.bwait off o.parity (if o.arrive then some c else none)) o.st o.dl with gen := b.gen }
    off.toNat % 16 = 0 → h.plainLocal s off.toNat → (o.arrive = true → h.unlogged) →
    (b'.phase ≠ o.parity → exec (.bwait o) s = .next (h.ends s (h.doneS t o.st.toNat (BitVec.ofNat 32 b'.last)))) ∧
    (b'.phase = o.parity → h.late s (h.until o.dl) = false → exec (.bwait o) s = .next (h.ends s (h.waits t wait))) ∧
    (b'.phase = o.parity → h.late s (h.until o.dl) = true → o.arrive = false →
      exec (.bwait o) s = .next (h.ends s (h.doneS s o.st.toNat 1))) ∧
    (b'.phase = o.parity → h.late s (h.until o.dl) = true → o.arrive = true → b'.gen = b.gen →
      exec (.bwait o) s = .next (h.ends s (h.doneS (h.objectAfter t off.toNat
        (Barrier.completed { b' with penda := min b'.expa (b'.penda + c), wdr := min (b'.wdr + 1) 0xFFFF })) o.st.toNat 2))))

end

namespace Sys2Proof.Machine

/-- What the comparisons of `monw` say of a word and an operand (R208). -/
def condHolds (cond : BitVec 3) (w v : Nat) : Prop :=
  match cond with
  | 0 => w = v
  | 1 => w ≠ v
  | 2 => w < v
  | 3 => w ≤ v
  | 4 => v < w
  | 5 => v ≤ w
  | 6 => w &&& v ≠ 0
  | _ => w &&& v = 0
/-- The status register and the value registers that a `monw` writes. -/
def monwResults (o : Monw) (v : Nat) (st : Word) : List (Nat × Word) :=
  (o.a.toNat + 4, BitVec.ofNat 32 v) :: (if o.wide then [(o.a.toNat + 5, BitVec.ofNat 32 (v / 2 ^ 32))] else []) ++ [(o.st.toNat, st)]
/-- A local offset that is neither stray nor in the aperture. -/
def Here.plain (h : Here) (o : Nat) : Prop := ∃ q, localByte h.g.hdr o = .mem q
/-- An access to an entry of a queue past the end of local memory is counted as stray (R62). -/
def Here.counted (h : Here) (t : State) (o n : Nat) : State :=
  if rangeStray h.g.hdr o n then noteStray t h.w.gang h.i.wave 1 o else t

end Sys2Proof.Machine

section

open Sys2Proof Sys2Proof.Machine

/-- R112, R113, R208: a `monw` whose word passes the checks ends at once with the word and OK when the comparison holds; with the
word and TIMEOUT when it does not and the deadline is already reached; else the fibre waits on an entry of the slice's table, or
POLLING when the table has none free. -/
def Sys2Proof.Clause.MonitorResults : Prop :=
  ∀ (s t : State) (h : Here) (o : Monw), Issuing s h → h.canWait o.st o.dl → o.a.toNat ≤ 58 → o.a.toNat % 2 = 0 →
    (o.a.toNat + 4 + if o.wide then 1 else 0) < (if h.i.sup then 16 else 64) →
    let addr : Quad := h.sreg (o.a.toNat + 1) ++ h.sreg o.a.toNat
    let n := if o.wide then 8 else 4
    let operand : Quad := if o.wide then h.sreg (o.a.toNat + 3) ++ h.sreg (o.a.toNat + 2) else (h.sreg (o.a.toNat + 2)).setWidth 64
    let v := ofBytes (readGlobal t addr.toNat n)
    let m : Monitor := { addr, wide := o.wide, cond := o.cond, operand, who := .fibre h.i.wave h.i.fibre }
    let wait := { h.newWait t (.monw addr o.wide o.cond operand (o.a.toNat + 4)) o.st o.dl with last := BitVec.ofNat 64 v }
    addr.toNat % n = 0 → h.granted s loadKind [{ lane := 0, unit := 0, addr := addr.toNat }] t →
    (condHolds o.cond v operand.toNat → exec (.monw o) s = .next (h.ends s (h.doneSs t (monwResults o v 0)))) ∧
    (¬condHolds o.cond v operand.toNat → hereOf t = some h → h.seated t →
      (h.late t (h.until o.dl) = true → exec (.monw o) s = .next (h.ends s (h.doneSs t (monwResults o v 1)))) ∧
      (h.late t (h.until o.dl) = false → tableUsed t (sliceOf addr.toNat) < 128 →
        exec (.monw o) s = .next (h.ends s (h.waits (t.watching m) { wait with monitor := some t.nextUid }))) ∧
      (h.late t (h.until o.dl) = false → 128 ≤ tableUsed t (sliceOf addr.toNat) →
        exec (.monw o) s = .next (h.ends s (h.waits t wait))))

/-- R211, R212: an arrival at a grid barrier whose object passes the checks. The last one begins the next generation, with PEND at
EXP and WDR at 0, and ends with OK; another lowers PEND and waits for GEN to change, or, with a deadline that is already reached, takes its
arrival back and ends with WITHDRAWN. -/
def Sys2Proof.Clause.GridBarrierResults : Prop :=
  ∀ (s t : State) (h : Here) (o : Gbar), Issuing s h → h.canWait o.st o.dl → o.a.toNat % 2 = 0 →
    o.a.toNat + 1 < (if h.i.sup then 16 else 64) →
    let addr : Quad := h.sreg (o.a.toNat + 1) ++ h.sreg o.a.toNat
    let b := gridAt t addr.toNat
    addr.toNat % 16 = 0 → h.granted s gbarKind [{ lane := 0, unit := 0, addr := addr.toNat }] t → hereOf t = some h →
    (b.pend ≤ 1 → h.unlogged →
      exec (.gbar o) s = .next (h.ends s (h.doneS
        (putGrid t addr.toNat { exp := b.exp, pend := b.exp, gen := (b.gen + 1) % 2 ^ 32, wdr := 0 } h.writer) o.st.toNat 0))) ∧
    (1 < b.pend → h.seated t → h.late t (h.until o.dl) = false →
      let t1 := putGrid t addr.toNat { b with pend := b.pend - 1 } h.writer
      let m : Monitor := { addr := addr + 8, wide := false, cond := 1, operand := BitVec.ofNat 64 b.gen, who := .fibre h.i.wave h.i.fibre }
      let wait := h.newWait t1 (.gbar addr (BitVec.ofNat 32 b.gen)) o.st o.dl
      (tableUsed t1 (sliceOf (addr + 8).toNat) < 128 →
        exec (.gbar o) s = .next (h.ends s (h.waits (t1.watching m) { wait with monitor := some t1.nextUid }))) ∧
      (128 ≤ tableUsed t1 (sliceOf (addr + 8).toNat) → exec (.gbar o) s = .next (h.ends s (h.waits t1 wait)))) ∧
    (1 < b.pend → h.seated t → h.late t (h.until o.dl) = true →
      let t1 := putGrid t addr.toNat { b with pend := b.pend - 1 } h.writer
      ∀ t2, check t1 (some h.g.tag) addr.toNat rightAtomic true true false = (t2, .ok) →
        let b2 := gridAt t2 addr.toNat
        b2.gen = b.gen → exec (.gbar o) s = .next (h.ends s (h.doneS
          (putGrid t2 addr.toNat { b2 with pend := min b2.exp (b2.pend + 1), wdr := min (b2.wdr + 1) 0xFFFFFFFF } h.writer) o.st.toNat 2)))

/-- R62, R63, R114, R115, R209: `qsend` stores its words at the tail entry and raises TAIL, or ends with BUSY when the queue is full;
`qrecv` takes the words of the head entry and raises HEAD, or waits while the queue is empty. In the aperture, with an invalid
header, and at a stray offset, which is counted, both end with FAULT; an entry past the end of local memory is counted too. -/
def Sys2Proof.Clause.StageQueueResults : Prop :=
  (∀ (s : State) (h : Here) (o : Qsend), Issuing s h → o.st.toNat < (if h.i.sup then 16 else 64) → o.a.toNat ≤ 59 →
    o.a.toNat < (if h.i.sup then 16 else 64) →
    let off := (h.sreg o.a.toNat).toNat
    off % 16 = 0 →
    (isAperture off = true → exec (.qsend o) s = .next (h.ends s (h.doneS s o.st.toNat 14))) ∧
    (isStray h.g.hdr off = true →
      exec (.qsend o) s = .next (h.ends s (h.doneS (noteStray s h.w.gang h.i.wave 1 off) o.st.toNat 14))) ∧
    (h.plain off → localPoison s h.w.gang h.g.hdr off 16 = false →
      (queueAt s h.w.gang h.g.hdr off = none → exec (.qsend o) s = .next (h.ends s (h.doneS s o.st.toNat 14))) ∧
      (∀ q, queueAt s h.w.gang h.g.hdr off = some q → o.a.toNat + q.words < (if h.i.sup then 16 else 64) →
        let held := (q.tail + 2 ^ 32 - q.head) % 2 ^ 32
        let entry := off + 16 + q.tail % 2 ^ q.log * (4 * q.words)
        let stored := writeLocal (writeLocal s h.w.gang h.g.hdr entry
          ((List.range q.words).flatMap fun j => toBytes 4 (h.sreg (o.a.toNat + 1 + j)).toNat)) h.w.gang h.g.hdr (off + 8) (toBytes 4 (q.tail + 1))
        (2 ^ q.log ≤ held → exec (.qsend o) s = .next (h.ends s (h.doneS s o.st.toNat 4))) ∧
        (held < 2 ^ q.log → exec (.qsend o) s = .next (h.ends s (h.doneS (h.counted stored entry (4 * q.words)) o.st.toNat 0)))))) ∧
  (∀ (s : State) (h : Here) (o : WaitA), Issuing s h → h.seated s → h.canWait o.st o.dl → o.a.toNat ≤ 59 →
    o.a.toNat < (if h.i.sup then 16 else 64) →
    let off := h.sreg o.a.toNat
    off.toNat % 16 = 0 →
    (isAperture off.toNat = true → exec (.qrecv o) s = .next (h.ends s (h.doneS s o.st.toNat 14))) ∧
    (isStray h.g.hdr off.toNat = true →
      exec (.qrecv o) s = .next (h.ends s (h.doneS (noteStray s h.w.gang h.i.wave 1 off.toNat) o.st.toNat 14))) ∧
    (h.plain off.toNat → localPoison s h.w.gang h.g.hdr off.toNat 16 = false →
      (queueAt s h.w.gang h.g.hdr off.toNat = none → exec (.qrecv o) s = .next (h.ends s (h.doneS s o.st.toNat 14))) ∧
      (∀ q, queueAt s h.w.gang h.g.hdr off.toNat = some q → o.a.toNat + q.words < (if h.i.sup then 16 else 64) →
        let entry := off.toNat + 16 + q.head % 2 ^ q.log * (4 * q.words)
        let words := (List.range q.words).map fun k =>
          (o.a.toNat + 1 + k, BitVec.ofNat 32 (ofBytes (readLocal s h.w.gang h.g.hdr (entry + 4 * k) 4)))
        let taken := writeLocal s h.w.gang h.g.hdr (off.toNat + 4) (toBytes 4 (q.head + 1))
        (q.head ≠ q.tail → localPoison s h.w.gang h.g.hdr entry (4 * q.words) = false →
          exec (.qrecv o) s = .next (h.ends s (h.doneSs (h.counted taken entry (4 * q.words)) (words ++ [(o.st.toNat, 0)])))) ∧
        (q.head = q.tail → h.late s (h.until o.dl) = true → exec (.qrecv o) s = .next (h.ends s (h.doneS s o.st.toNat 1))) ∧
        (q.head = q.tail → h.late s (h.until o.dl) = false →
          exec (.qrecv o) s = .next (h.ends s (h.waits s (h.newWait s (.qrecv off (o.a.toNat + 1)) o.st o.dl)))))))

/-- R30, R166: an arrival at a fibre barrier. Alone among its mask's fibres that are not absent or DONE, the fibre goes on with OK;
with the last arrival every fibre that has arrived goes on; before it the fibre is in FBARRIER and its slot passes, or a deadline
already reached gives TIMEOUT. -/
def Sys2Proof.Clause.FibreBarrierResults : Prop :=
  ∀ (s : State) (h : Here) (o : Fbar), Issuing s h → h.seated s → h.i.sup = false → h.canWait o.st o.dl → o.k.getLsbD h.i.fibre = true →
    let x := h.newWait s (.fbar o.k) o.st o.dl
    let arrived := h.changed s (fun w => w) fun f => { f with wait := some x, state := .stalled }
    let other (p : Fibre → Prop) : Prop := ∀ k < 4, o.k.getLsbD k = true → k ≠ h.i.fibre → ∀ f, h.w.fibres[k]? = some f → p f
    let joined (f : Fibre) : Prop := f.state = .done ∨ ∃ y, f.wait = some y ∧ y.kind = .fbar o.k
    (other (fun f => f.state = .done ∧ f.wait = none) → h.unlogged →
      exec (.fbar o) s = .next (h.ends s (h.doneS s o.st.toNat 0))) ∧
    (other joined → exec (.fbar o) s = .next (h.ends s (completeBarrier arrived h.i.wave o.k))) ∧
    (¬other joined → h.late s (h.until o.dl) = true → exec (.fbar o) s = .next (h.ends s (h.doneS s o.st.toNat 1))) ∧
    (¬other joined → h.late s (h.until o.dl) = false → exec (.fbar o) s = .next (h.ends s (passSlot
      (h.changed s (fun w => w) fun f => { f with wait := some x, state := .fbarrier }) h.i.wave h.i.hint)))

/-- R225 to R227: `proc.enter` registers every strand of the group, or none when one may not register (FAULT); it ends with OK when
all of them are admitted, and else waits, or, with a deadline that is already reached, withdraws its registrations and ends with TIMEOUT,
its floors as they are; `proc.leave` ends the section of each strand that is inside one and raises its floor
above its order. -/
def Sys2Proof.Clause.ProcessionResults : Prop :=
  (∀ (s : State) (h : Here) (o : WaitA), Issuing s h → h.seated s → h.i.sup = false → h.canWait o.st o.dl → o.a.toNat ≤ 118 →
    h.canRead o.a false none → h.canRead (o.a + 1) false none →
    let key (i : Nat) : Word := h.word o.a false none i
    let order (i : Nat) : Nat := (h.word (o.a + 1) false none i).toNat
    let mayRegister (i : Nat) : Prop := (h.f.procAt i).registered = false ∧ (h.f.procAt i).inside = false ∧
      ∃ n, (h.f.procAt i).floor = some n ∧ n ≤ order i
    let registered := (lanesIn h.i.lanes).foldl (fun s i => registerLane s h.i.wave h.i.fibre i (key i) (order i)) s
    let t := admitGroup registered h.i.wave h.i.fibre h.i.lanes
    (¬(∀ i ∈ lanesIn h.i.lanes, mayRegister i) → exec (.procEnter o) s = .next (h.ends s (h.doneS s o.st.toNat 14))) ∧
    ((∀ i ∈ lanesIn h.i.lanes, mayRegister i) →
      (groupInside t h.i.wave h.i.fibre h.i.lanes = true → exec (.procEnter o) s = .next (h.ends s (h.doneS t o.st.toNat 0))) ∧
      (groupInside t h.i.wave h.i.fibre h.i.lanes = false → h.late s (h.until o.dl) = false →
        exec (.procEnter o) s = .next (h.ends s (h.waits t (h.newWait t .procEnter o.st o.dl)))) ∧
      (groupInside t h.i.wave h.i.fibre h.i.lanes = false → h.late s (h.until o.dl) = true →
        exec (.procEnter o) s = .next (h.ends s (h.doneS (h.changed t (fun w => w) fun f => { f with proc := f.proc.map fun p =>
          (p.1, if h.i.lanes.getLsbD p.1 then { p.2 with registered := false, inside := false } else p.2) }) o.st.toNat 1))))) ∧
  (∀ (s : State) (h : Here) (o : BarA), Issuing s h → h.i.sup = false → o.a.toNat ≤ 119 → h.canRead o.a false none →
    let left (e : ProcEntry) : ProcEntry := { e with inside := false, floor := some (e.order + 1) }
    exec (.procLeave o) s = .next (h.ends s (h.doneWith s (fun f => { f with
      proc := (lanesIn h.i.lanes).foldl (fun t i => if (h.f.procAt i).inside then put t i (left (h.f.procAt i)) else t) f.proc }) [])))

end

namespace Sys2Proof.Machine

/-! ## Coverage, fragment lists, BVH aids and textures (R223 to R240) -/

/-- A triangle and a point in 1/256 pixel, and the edge functions and the tie rule of R224. -/
structure Coverage where
  x : Nat → Int
  y : Nat → Int
  cull : Bool
def Coverage.area (t : Coverage) : Int := (t.x 1 - t.x 0) * (t.y 2 - t.y 0) - (t.x 2 - t.x 0) * (t.y 1 - t.y 0)
def Coverage.edge (t : Coverage) (k : Nat) (px py : Int) : Int :=
  let m := (k + 1) % 3
  t.area.sign * ((t.x m - t.x k) * (py - t.y k) - (t.y m - t.y k) * (px - t.x k))
/-- Whether a sample is inside: not for a triangle without area or one culled, else inside every edge, on an edge by its direction. -/
def Coverage.Inside (t : Coverage) (px py : Int) : Prop :=
  ¬(t.area = 0 ∨ (t.area < 0 ∧ t.cull = true)) ∧ ∀ k < 3,
    let dx := t.area.sign * (t.x ((k + 1) % 3) - t.x k)
    let dy := t.area.sign * (t.y ((k + 1) % 3) - t.y k)
    0 < t.edge k px py ∨ (t.edge k px py = 0 ∧ (dy < 0 ∨ (dy = 0 ∧ 0 < dx)))
/-- A weight: the edge function over the absolute area, rounded to nearest; +0 without area. -/
def Coverage.weight (t : Coverage) (k : Nat) (px py : Int) : Word :=
  if t.area = 0 then 0
  else BitVec.ofNat 32 (roundTo .f32 .rn false (.fin (decide (t.edge k px py < 0)) (t.edge k px py).natAbs t.area.natAbs))
/-- Sample places of the four counts, in 1/16 pixel (R223). -/
def samplePlaces : Nat → List (Int × Int)
  | 0 => [(8, 8)]
  | 1 => [(4, 4), (12, 12)]
  | 2 => [(6, 2), (14, 6), (2, 10), (10, 14)]
  | _ => [(9, 5), (7, 11), (13, 9), (5, 3), (3, 13), (1, 7), (11, 15), (15, 1)]

/-- The fragment-list instructions with their FN, and the registers of their A and D blocks (R230). -/
def listTable : List ((GfxDAS → Instr) × Nat × Nat × Nat) := [(.flins, 1, 5, 9), (.flrep, 2, 5, 1), (.flget, 3, 2, 5), (.flclr, 4, 1, 1)]
/-- A block of `n` registers from a field on, each of which can be read and written at this issue. -/
def Here.hasBlock (h : Here) (c : BitVec 7) (n : Nat) : Prop := c.toNat + n ≤ 120 ∧ ∀ j < n, h.ready (c.toNat + j)
/-- Such a block of which no register holds an error of the unified store in a lane of the group (R392). -/
def Here.readsBlock (h : Here) (c : BitVec 7) (n : Nat) : Prop := h.hasBlock c n ∧ ∀ j < n, h.sound (c.toNat + j)
/-- The words of a block in a lane. -/
def Here.blockAt (h : Here) (c : BitVec 7) (n lane : Nat) : List Nat := (List.range n).map fun k => (h.reg (h.regOf (c.toNat + k)) lane).toNat
/-- A result of `n` words in every strand of the group. -/
def Here.putsBlock (h : Here) (c : BitVec 7) (n : Nat) (val : Nat → List Nat) : List RegWrite :=
  (List.range n).map fun k => { reg := h.regOf (c.toNat + k), lanes := h.i.lanes, val := fun i => BitVec.ofNat 32 ((val i).getD k 0) }
/-- The fragment that the A block of a `flins` or `flrep` holds (R231). -/
def fragmentOf (ws : List Word) : Fragment :=
  { payload := (ws.getD 3 0).toNat + 2 ^ 32 * (ws.getD 4 0).toNat, depth := (ws.getD 1 0).toNat, order := (ws.getD 2 0).toNat % 2 ^ 12 }
/-- A bound that is a number: its numerator and its denominator. -/
def IsNumber (x : Exact) (n : Int) (d : Nat) : Prop := 0 < d ∧ ∃ s m, x = .fin s m d ∧ n = if s then -(m : Int) else m
/-- A quantised bound: x / b rounded down, or up, and held in a byte (R237). -/
def IsBound (up : Bool) (q : Nat) (x : Int) (b : Nat) : Prop :=
  if up then (x ≤ 0 → q = 0) ∧ (0 < x → x ≤ 255 * b → (x ≤ q * b ∧ (q : Int) * b < x + b)) ∧ (255 * (b : Int) < x → q = 255)
  else (x < 0 → q = 0) ∧ (0 ≤ x → x < 255 * b → ((q : Int) * b ≤ x ∧ x < (q + 1) * b)) ∧ (255 * (b : Int) ≤ x → q = 255)

/-- The sample instructions: their operand registers, and the footprint of a strand's operands (R238, R281). -/
def sampleTable : List ((GfxDAS → Instr) × Nat × (Texture → Sampler → List Word → Footprint)) := [
  (.sampleD, 6, fun t p ws => footprint t p (ws.getD 0 0) (ws.getD 1 0) (plainDiffs ws)),
  (.sampleC, 6, fun t p ws => footprint t p (ws.getD 0 0) (ws.getD 1 0) (coneDiffs ws)),
  (.sampleL, 3, fun t p ws => levelFootprint t p (ws.getD 0 0) (ws.getD 1 0) (ws.getD 2 0))]

end Sys2Proof.Machine

section

open Sys2Proof Sys2Proof.Machine

/-- R223, R224, R258: a `cover` that the CVU has room for owes each lane of its 8 × 4 block the mask of its covered samples, and the
weights of vertices 1 and 2 at the pixel's centre; it stalls while the cluster's CVU holds 16. -/
def Sys2Proof.Clause.CoverResults : Prop :=
  ∀ (s : State) (h : Here) (o : GfxDS), Issuing s h → o.s.toNat % 2 = 0 → o.s.toNat ≤ 56 → o.s.toNat + 7 < (if h.i.sup then 16 else 64) →
    h.hasBlock o.d 3 →
    let a := o.s.toNat
    let ctl := (h.sreg (a + 6)).toNat
    let v (k : Nat) : Int := (h.sreg (a + k)).toInt
    let t : Coverage := { x := fun k => v (2 * k), y := fun k => v (2 * k + 1), cull := ctl / 4 % 2 = 1 }
    let px (i : Nat) : Int := 256 * (((h.sreg (a + 7)).toNat % 2 ^ 16 : Nat) + (i % 8 : Nat))
    let py (i : Nat) : Int := 256 * (((h.sreg (a + 7)).toNat / 2 ^ 16 : Nat) + (i / 8 : Nat))
    ctl < 8 →
    (16 ≤ cvuUsed s h.g.cluster → exec (.cover o) s = .next (stallOn h s (.resource .cvu))) ∧
    (cvuUsed s h.g.cluster < 16 → ∃ mask : Nat → Word,
      (∀ i < 32, ∀ j < 32, (mask i).getLsbD j = true ↔
        ∃ q : Int × Int, (samplePlaces (ctl % 4))[j]? = some q ∧ t.Inside (px i + 16 * q.1) (py i + 16 * q.2)) ∧
      exec (.cover o) s = .next (settle h (h.owing s .cover [(o.d.toNat, h.i.lanes, mask),
        (o.d.toNat + 1, h.i.lanes, fun i => t.weight 2 (px i + 128) (py i + 128)),
        (o.d.toNat + 2, h.i.lanes, fun i => t.weight 0 (px i + 128) (py i + 128))] [])))

/-- R56, R224, R230, R239: when a unit's result is written, each of its registers takes the row's values in its lanes, and no other
register or lane changes; a result already written, or of another unit, is none. -/
def Sys2Proof.Clause.UnitResultsLand : Prop :=
  ∀ e ∈ [((Instr.coverResult, .cover) : (Nat → Nat → Instr) × UnitKind), (.sampleResult, .sample), (.fleResult, .list)],
    (∀ (s : State) (w r : Nat) (x : Wave) (p : Pending), get? s.waves w = some x → get? x.pending r = some p → p.kind = e.2 →
      ∃ t y, exec (e.1 w r) s = .next t ∧ get? t.waves w = some y ∧ get? y.pending r = none ∧
        (∀ v, v ≠ w → get? t.waves v = get? s.waves v) ∧ t.gangs = s.gangs ∧ t.dram = s.dram ∧
        (∀ n i, i < 32 → (∀ q ∈ p.writes, q.sup = false → q.reg = n → q.lanes.getLsbD i = false) →
          (y.alloc.getD n []).getD i 0 = (x.alloc.getD n []).getD i 0) ∧
        (∀ q ∈ p.writes, q.sup = false → q.reg < x.alloc.length → (∀ q' ∈ p.writes, q'.reg = q.reg → q' = q) →
          ∀ i, i < 32 → q.lanes.getLsbD i = true → (y.alloc.getD q.reg []).getD i 0 = q.row.getD i 0)) ∧
    (∀ (s : State) (w r : Nat), ((get? s.waves w).bind fun x => get? x.pending r) = none → exec (e.1 w r) s = .next s)

/-- R229 to R232: a fragment-list instruction performs its operation once for each strand, in lane order, and owes each strand the
status word and the fragments returned; stray accesses are counted; registers beyond what an operation returns keep their values. -/
def Sys2Proof.Clause.FragmentListIssues : Prop :=
  ∀ e ∈ listTable, ∀ (s : State) (h : Here) (o : GfxDAS) (c : ListCtx) (r : ListLanes), Issuing s h →
    o.s.toNat % 2 = 0 → o.s.toNat ≤ 58 → o.s.toNat + 4 < (if h.i.sup then 16 else 64) → h.readsBlock o.a e.2.2.1 → h.hasBlock o.d e.2.2.2 →
    let ctx := (List.range 5).map fun k => h.sreg (o.s.toNat + k)
    let words (i : Nat) : List Word := (List.range e.2.2.1).map fun k => h.reg (h.regOf (o.a.toNat + k)) i
    let us := accessesOf h.i.lanes fun i => c.entry ((words i).getD 0 0).toNat
    listCtx ctx = some c → (∀ u ∈ us, u.addr % 4 = 0) → c.pool % 16 = 0 → listLanes h s c e.2.1 ctx words us = .ok r →
    let out (i : Nat) : List Word := cutWords e.2.1 ((get? r.out i).getD [])
    exec (e.1 o) s = .next (h.ends s (h.owing (noteStray r.s h.w.gang h.i.wave r.stray.length (r.stray.headD 0)) .list
      ((List.range e.2.2.2).map fun k =>
        (o.d.toNat + k, maskOf (fun i => decide (k < (out i).length)), fun i => (out i).getD k 0)) []))

/-- R229, R231: a new fragment goes to its place in list order, after those equal to it: the fragments are the old ones and the new
one, and an ordered list stays ordered. -/
def Sys2Proof.Clause.FragmentListOrder : Prop :=
  ∀ (ns : List Node) (f : Fragment),
    let before (x y : Fragment) : Prop := depthKey x.depth < depthKey y.depth ∨ (depthKey x.depth = depthKey y.depth ∧ x.order ≤ y.order)
    (insertFragment ns f).Perm (f :: ns.map (·.frag)) ∧
    ((ns.map (·.frag)).Pairwise before → (insertFragment ns f).Pairwise before)

/-- R230 to R232, R256: what each operation makes of a list that has been read. `flins`: BUSY while a tail is pending; OK with a node of
the pool linked at the fragment's place while COUNT is below BUDGET and the pool has one; POOLEMPTY with the fragment returned
for an empty list; else the nodes take the fragments of the new order but for the last two, then the last but one, the last two
are returned, and the tail is pending: MERGE at the budget, POOLEMPTY below it. `flrep`: FAULT unless a tail is pending, else the tail
takes the fragment, no nearer than the node before it. `flget`: node k, or four zero words. `flclr` writes 0 to the head entry.
A broken list answers FAULT and stays as it is. -/
def Sys2Proof.Clause.FragmentListOutcomes : Prop :=
  (∀ (e : ListEnv) (c : ListCtx) (s : State) (ws : List Word) (r1 r2 r3 r4 : ListRun) (hd free : Nat) (p : Pool) (ns : List Node),
    let pixel := (ws.getD 0 0).toNat
    let f := fragmentOf ws
    let at_ := c.entry pixel
    let count := hd / 2 ^ 20 % 32
    let pend := hd.testBit 25
    let seq := insertFragment ns f
    let last := seq.getD (count - 1) f
    listRead e c { s := s } at_ 4 = .ok (r1, hd) →
    (pend = true → count ≠ 0 → listPerform e c 1 s ws = .ok (r1, { status := 4, count, pend := true })) ∧
    (pend = true → count = 0 → listPerform e c 1 s ws = .ok (r1, { status := 14, count := 0, pend := true }) ∧
      listPerform e c 2 s ws = .ok (r1, { status := 14, count := 0, pend := true }) ∧
      listPerform e c 3 s ws = .ok (r1, { status := 14, count := 0, pend := true })) ∧
    (pend = false → listPerform e c 2 s ws = .ok (r1, { status := 14, count, pend := false })) ∧
    (readPool e c r1 = .ok (r2, p) → readNodes e c p count (hd % 2 ^ 20) r2 [] = .ok (r3, ns) → ¬(pend = true ∧ count = 0) →
      listPerform e c 3 s ws = .ok (r3, { status := 0, frags := (ns[(ws.getD 1 0).toNat]?.map (·.frag)).toList, count, pend }) ∧
      (pend = true → ∀ (init : List Node) (tail : Node), ns = init ++ [tail] → ∀ r r',
        let least := init.getLast?.map (·.frag.depth)
        let depth := match least with | some d => if depthKey f.depth < depthKey d then d else f.depth | none => f.depth
        putNode e c r3 tail.addr { f with depth } tail.next = .ok r → listWrite e c r at_ 4 (hd - 2 ^ 25) = .ok r' →
        listPerform e c 2 s ws = .ok (r', { status := 0, count, pend := false })) ∧
      (pend = false → listRead e c r3 c.pool 4 = .ok (r4, free) →
        (count < c.budget → free < 256 * p.pages → ∀ r, linkNode e c p r4 at_ hd ns free f = .ok r →
          listPerform e c 1 s ws = .ok (r, { status := 0, count := count + 1, pend := false })) ∧
        (¬(count < c.budget ∧ free < 256 * p.pages) → count = 0 →
          listPerform e c 1 s ws = .ok (r4, { status := 8, frags := [f], count := 0, pend := false })) ∧
        (¬(count < c.budget ∧ free < 256 * p.pages) → count ≠ 0 → ∀ r r',
          refill e c r4 (ns.zip (seq.take (count - 1) ++ [last])) = .ok r → listWrite e c r at_ 4 (hd + 2 ^ 25) = .ok r' →
          listPerform e c 1 s ws = .ok (r', { status := if count = c.budget then 7 else 8, frags := [last, seq.getD count f], count, pend := true })))) ∧
    (∀ stray, readPool e c r1 = .ok (r2, p) → readNodes e c p count (hd % 2 ^ 20) r2 [] = .error (.broken stray) →
      ∀ fn, fn = 3 ∨ (fn = 1 ∧ pend = false) ∨ (fn = 2 ∧ pend = true) → ¬(pend = true ∧ count = 0) →
      listPerform e c fn s ws = .ok ({ s, stray }, { status := 14, count, pend }))) ∧
  (∀ (e : ListEnv) (c : ListCtx) (s : State) (ws : List Word) (r : ListRun),
    listWrite e c { s := s } (c.entry (ws.getD 0 0).toNat) 4 0 = .ok r →
    listPerform e c 4 s ws = .ok (r, { status := 0, count := 0, pend := false })) ∧
  (∀ (fn : Nat) (x : ListAnswer), (listWords fn x).headD 0 =
    BitVec.ofNat 32 (x.status + 2 ^ 8 * x.frags.length + 2 ^ 20 * (x.count % 32) + if x.pend then 2 ^ 25 else 0))

/-- R236, R237: `boxu` leaves in D the minima and the maxima of two boxes, `sah` and `npack` their values of a block, in every strand of
the group, and nothing else changes. -/
def Sys2Proof.Clause.BvhAidResults : Prop :=
  (∀ (s : State) (h : Here) (o : GfxDA), Issuing s h → h.readsBlock o.d 6 → h.readsBlock o.a 6 →
    exec (.boxu o) s = .next (settle h (h.done s (h.putsBlock o.d 6 fun i => (List.range 6).map fun k =>
      minMax .f32 (decide (3 ≤ k)) ((h.blockAt o.d 6 i).getD k 0) ((h.blockAt o.a 6 i).getD k 0))))) ∧
  (∀ (s : State) (h : Here) (o : GfxDA), Issuing s h → h.hasBlock o.d 1 → o.a.toNat ≤ 112 → h.readsBlock o.a 7 →
    exec (.sah o) s = .next (settle h (h.done s (h.putsBlock o.d 1 fun i => [sahValue (h.blockAt o.a 7 i)])))) ∧
  (∀ (s : State) (h : Here) (o : GfxDAS), Issuing s h → h.hasBlock o.d 3 → h.readsBlock o.a 6 → o.s.toNat ≤ 58 →
    o.s.toNat + 5 < (if h.i.sup then 16 else 64) →
    exec (.npack o) s = .next (settle h (h.done s (h.putsBlock o.d 3 fun i =>
      npackValue (h.blockAt o.a 6 i) ((List.range 6).map fun k => (h.sreg (o.s.toNat + k)).toNat)))))

/-- R236: the value of `sah`: the NaN of the box's bounds if there is one; else +0 with no primitives or with min above max on an axis;
else +Inf with an infinite extent; else (dx dy + dy dz + dz dx) times the count, rounded once to nearest. -/
def Sys2Proof.Clause.SahValues : Prop :=
  ∀ (ws : List Nat),
    let count := ws.getD 6 0
    ((∃ k < 6, (boxValue ws k).isNan = true) → ∃ x, nanOf ((List.range 6).map (boxValue ws)) = some x ∧ sahValue ws = roundTo .f32 .rn false x) ∧
    ((∀ k < 6, (boxValue ws k).isNan = false) →
      (count = 0 ∨ (∃ k < 3, (boxValue ws (k + 3)).lt (boxValue ws k) = true) → sahValue ws = 0) ∧
      (count ≠ 0 → (∀ k < 3, (boxValue ws (k + 3)).lt (boxValue ws k) = false) →
        ((∃ k < 3, (boxValue ws k = .inf true ∧ boxValue ws (k + 3) ≠ .inf true) ∨ (boxValue ws (k + 3) = .inf false ∧ boxValue ws k ≠ .inf false)) →
          sahValue ws = 0x7F800000) ∧
        (∀ (n : Nat → Int) (d : Nat → Nat), (∀ k < 6, IsNumber (boxValue ws k) (n k) (d k)) →
          let a (k : Nat) : Int := n (k + 3) * d k - n k * d (k + 3)
          let b (k : Nat) : Int := d k * d (k + 3)
          ∃ N D : Nat, 0 < D ∧ (N : Int) * (b 0 * b 1 * b 2) = (a 0 * a 1 * b 2 + a 1 * a 2 * b 0 + a 2 * a 0 * b 1) * count * D ∧
            sahValue ws = roundTo .f32 .rn false (.fin false N D))))

/-- R237: what `npack` packs: the exponent of each axis is the least, from −128 on, at which the parent's extent is at most
255 units; the child's bounds are counted in those units from the parent's minimum, rounded outward and held in a byte. A child with
a NaN or with min above max on an axis packs as empty bounds, a parent with a bound that is no number or with min above max as
empty bounds with exponents of 0xFF. -/
def Sys2Proof.Clause.NpackValues : Prop :=
  ∀ (child parent : List Nat),
    let w (j : Nat) : Nat := (npackValue child parent).getD j 0
    let lo (k : Nat) : Nat := w 0 / 2 ^ (8 * k) % 256
    let hi (k : Nat) : Nat := if k = 0 then w 0 / 2 ^ 24 else w 1 / 2 ^ (8 * (k - 1)) % 256
    let ex (k : Nat) : Nat := w 2 / 2 ^ (8 * k) % 256
    let empty (k : Nat) : Prop := lo k = 255 ∧ hi k = 0
    let numbers := ∀ k < 6, ∃ n d, IsNumber (boxValue parent k) n d
    let ordered := ∀ k < 3, (boxValue parent (k + 3)).lt (boxValue parent k) = false
    let real := (∀ k < 6, (boxValue child k).isNan = false) ∧ ∀ k < 3, (boxValue child (k + 3)).lt (boxValue child k) = false
    w 1 < 2 ^ 16 ∧ w 2 < 2 ^ 24 ∧ (npackValue child parent).length = 3 ∧
    (¬(numbers ∧ ordered) → ∀ k < 3, empty k ∧ ex k = 255) ∧
    (¬real → ∀ k < 3, empty k) ∧
    (numbers → ordered → ∀ k < 3, ∀ (p q : Int) (d e : Nat), IsNumber (boxValue parent k) p d → IsNumber (boxValue parent (k + 3)) q e →
      -- the parent's extent is A / B, and a unit is u / v
      let A : Int := q * d - p * e
      let B : Int := d * e
      let u : Int := 2 ^ (ex k - 128)
      let v : Int := 2 ^ (128 - ex k)
      A * v ≤ 255 * u * B ∧ (ex k = 0 ∨ 255 * u * B < 2 * A * v) ∧
      (real → ∀ (c : Int) (g : Nat),
        (IsNumber (boxValue child k) c g → IsBound false (lo k) ((c * d - p * g) * v) (g * d * u.toNat)) ∧
        (IsNumber (boxValue child (k + 3)) c g → IsBound true (hi k) ((c * d - p * g) * v) (g * d * u.toNat))))

/-- R238, R239, R277 to R284: a sample whose descriptor, sampler and reads are in order owes each strand the filtered texel of the first
level at or beyond the wanted one whose tiles are marked and whose pages are present, with its status word; the strands whose level
was not the wanted one are logged. -/
def Sys2Proof.Clause.SampleIssues : Prop :=
  ∀ e ∈ sampleTable, ∀ (s : State) (h : Here) (o : GfxDAS) (p : Sampler) (t : Texture) (d r : TexRun) (bs : List Byte)
      (outs : List (Nat × Footprint × Sampled)), Issuing s h →
    o.s.toNat % 2 = 0 → o.s.toNat ≤ 60 → o.s.toNat + 2 < (if h.i.sup then 16 else 64) → h.readsBlock o.a e.2.1 → h.hasBlock o.d 5 →
    let desc : Quad := h.sreg (o.s.toNat + 1) ++ h.sreg o.s.toNat
    let print (i : Nat) : Footprint := e.2.2 t p ((List.range e.2.1).map fun k => h.reg (h.regOf (o.a.toNat + k)) i)
    desc.toNat % 48 = 0 → readSampler (h.sreg (o.s.toNat + 2)).toNat = some p →
    readDescriptor h (lowest h.i.lanes) desc.toNat { s := s } = (d, bs) → d.missing = false → d.bad = [] → readTexture bs = some t →
    (lanesIn h.i.lanes).foldl (fun (x : TexRun × List (Nat × Footprint × Sampled)) i =>
      let y := sampleFrom h t p (print i) i (t.levels - (print i).level) (print i).level x.1
      (y.1, x.2 ++ [(i, print i, y.2)])) (d, []) = (r, outs) → r.missing = false → r.bad = [] →
    let word (k i : Nat) : Word := match outs.find? fun x => x.1 = i with | some x => x.2.2.words.getD k 0 | none => 0
    let fell := outs.filter fun x => x.2.2.level ≠ x.2.1.level
    let owed := h.owing r.s .sample ((List.range 5).map fun k => (o.d.toNat + k, h.i.lanes, word k)) r.lines
    let logged := fell.map fun x => Note.harvest h.g.tag (4 * h.g.cluster + h.coreOf) desc x.2.1.level (wantedTile t p x.2.1)
    exec (e.1 o) s = .next (h.ends s (drainNotes { owed with notes := owed.notes ++ logged }))

/-- R239: the level that a sample uses. A level of which a tile that the filter reads is not marked, or a page of a texel is absent, is
passed over for the next; the first other one gives the filtered texels with the greatest status among them and, if it is not the
wanted one, COARSER (5); beyond the last level the result is the fallback constant with NONE (6). The status word holds how
many levels were passed over and the level used, 0xFF for none. -/
def Sys2Proof.Clause.SampleLevels : Prop :=
  ∀ (h : Here) (t : Texture) (p : Sampler) (f : Footprint) (lane n l : Nat) (r : TexRun),
    let marked := tilesMarked h t lane l r (levelTexels t p f l)
    let read := (levelTexels t p f l).foldl (readTexel h t l) { run := marked.1 : Texels }
    let status (st used : Nat) : Word := BitVec.ofNat 32 (st + 2 ^ 8 * (l - f.level) + 2 ^ 16 * used)
    (marked.2 = false → sampleFrom h t p f lane (n + 1) l r = sampleFrom h t p f lane n (l + 1) marked.1) ∧
    (marked.2 = true → read.absent = true → sampleFrom h t p f lane (n + 1) l r = sampleFrom h t p f lane n (l + 1) read.run) ∧
    (marked.2 = true → read.absent = false → sampleFrom h t p f lane (n + 1) l r =
      (read.run, { words := (List.range 4).map (filtered f.n read.values) ++ [status (max read.status (if l = f.level then 0 else 5)) l], level := l })) ∧
    (sampleFrom h t p f lane 0 l r =
      (r, { words := t.fallback.map (fun x => BitVec.ofNat 32 (convert .f16 .f32 .rn false x)) ++ [status 6 0xFF], level := l })) ∧
    -- a sample never goes back to a nearer level, and stops at the one after the last
    (l ≤ (sampleFrom h t p f lane n l r).2.level ∧ (sampleFrom h t p f lane n l r).2.level ≤ l + n)

/-- R29, R240, R279, R284: `rmapinv` drops every core's copies of the map lines of its range and stalls for the samples that had read
them (a sample that still waits for a peer's answer reads such a line again, after it); when those have completed it issues again, drops the copies taken since, empties the Harvest filters and ends with OK, as it
does at once for an empty range; a copy is dropped 2 ^ 20 clk after it was taken. -/
def Sys2Proof.Clause.MapCopyResults : Prop :=
  (∀ (s t : State) (h : Here) (o : GfxDS), Issuing s h → o.d.toNat < (if h.i.sup then 16 else 64) → o.s.toNat % 2 = 0 → o.s.toNat ≤ 61 →
    o.s.toNat + 2 < (if h.i.sup then 16 else 64) →
    let lo := (h.sreg (o.s.toNat + 1) ++ h.sreg o.s.toNat).toNat
    let hi := lo + (h.sreg (o.s.toNat + 2)).toNat
    h.granted s { loadKind with reads := false } ((rangeProbes lo hi).zipIdx.map fun x => { lane := 0, unit := x.2, addr := x.1 % 2 ^ 64 }) t →
    let dropped := rereadMaps { t with maps := t.maps.filter fun m => !(decide (192 * (m.unit / 192) < hi) && decide (lo < 192 * (m.unit / 192) + 192)) } lo hi
    let answered := h.f.answers.any fun x => x.key == rmapinvKey
    (hi ≤ lo ∨ answered = true → exec (.rmapinv o) s = .next (h.ends s (h.doneS { dropped with filters := [] } o.d.toNat 0))) ∧
    (lo < hi → answered = false →
      exec (.rmapinv o) s = .next (stallOn h dropped (.rmapinv lo hi o.d.toNat (samplesOf dropped lo hi))))) ∧
  (∀ (s : State) (w f lo hi d : Nat) (ids : List Nat) (x : Wait), liveWait s w f = some x → x.kind = .rmapinv lo hi d ids →
    ((∀ y ∈ s.waves, ∀ i ∈ ids, get? y.2.pending i = none) →
      exec (.rmapinvComplete w f) s = .next (wakeRetry
        (modFibre s w f fun y => { y with answers := y.answers ++ [{ key := rmapinvKey, status := 0 }] }) w f)) ∧
    ((∃ y ∈ s.waves, ∃ i ∈ ids, get? y.2.pending i ≠ none) → exec (.rmapinvComplete w f) s = .next s)) ∧
  (∀ (s : State) (core unit : Nat), ∃ t, exec (.mapCopyExpiry core unit) s = .next t ∧ t = { s with maps := t.maps } ∧
    ∀ m, m ∈ t.maps ↔ m ∈ s.maps ∧ ¬(m.txu = core ∧ m.unit = unit ∧ m.taken + 2 ^ 20 ≤ s.clk))

end

namespace Sys2Proof.Machine

/-! ## Traps, system registers, precise stops (R142, R243 to R254, R304 to R310) -/

/-- System registers by number: whether 64 bits wide, and the value read (R246, R247). -/
def sysTable (h : Here) (s : State) : List (Nat × Bool × Nat) := [
  (0x000, true, s.calends.toNat), (0x001, true, h.c.time % 2 ^ 63 + 2 ^ 63), (0x002, false, s.devId.toNat), (0x003, false, h.g.tag),
  (0x004, false, h.w.index), (0x005, false, h.w.member), (0x006, false, h.g.index % h.l.gx), (0x007, false, h.g.index / h.l.gx % h.l.gy),
  (0x008, false, h.g.index / (h.l.gx * h.l.gy)), (0x009, false, h.g.index), (0x00A, false, h.g.cluster),
  (0x00B, false, h.g.core + h.w.member), (0x00C, false, h.storeSplit s), (0x00D, false, h.g.stray.toNat),
  (0x00E, false, h.g.strayLast.toNat), (0x00F, false, h.f.wbase), (0x010, false, (h.g.hdr.winOf h.i.fibre).1),
  (0x011, false, (h.g.hdr.winOf h.i.fibre).2),
  (0x012, true, ((List.range 5).map fun k => 2 ^ (8 * k) * h.f.counts.getD k 0).sum), (0x013, true, h.c.ides),
  (0x100, false, h.f.trap.cause), (0x101, true, h.f.trap.pc.toNat), (0x102, true, h.f.trap.ret.toNat), (0x103, false, h.f.trap.lanes.toNat),
  (0x104, true, h.f.trap.info.toNat), (0x105, false, h.f.trap.seq.toNat), (0x106, false, 0), (0x107, true, h.c.handlerAddr.toNat),
  (0x108, false, if h.c.dbg then 1 else 0), (0x110, true, (h.c.progs.getD 0 0).toNat), (0x111, true, (h.c.progs.getD 1 0).toNat),
  (0x112, true, (h.c.progs.getD 2 0).toNat), (0x113, true, (h.c.progs.getD 3 0).toNat)]
/-- A context with one of its four progress counters set (R253). -/
def Context.counting (c : Context) (n : Nat) (v : Quad) : Context :=
  { c with progs := (List.range 4).map fun k => if k = n then v else c.progs.getD k 0 }
/-- The state in which a precise stop has halted the fibre, what it was doing kept (R304), and its slot has passed (R28). -/
def Here.halted (h : Here) (s : State) : State :=
  leaveSlot (h.doneWith s (fun f => if f.state = .done ∨ f.state = .halted then f else { f with before := f.state, state := .halted }) [])
    h.i.wave h.i.fibre h.i.hint
/-- The record of a precise stop: the lowest strand's last control transfer, its kind and its address (R306). -/
def Here.stopReport (h : Here) (s : State) (addr : Quad) (n : Nat) : Record :=
  let x := (get? h.f.last (lowest h.i.lanes)).getD (0, 0)
  { h.report s 15 (BitVec.ofNat 64 n) with addr, xkind := x.1, xsrc := x.2 }

end Sys2Proof.Machine

section

open Sys2Proof Sys2Proof.Machine

/-- R248 to R250: taking a trap. In kernel mode the trap registers are written and the group stands in supervisor mode at the handler;
causes 6 to 8 post a record as well. In supervisor mode it is a double trap, which ends the context with a record of code 16 that
names the cause. In scout mode it only ends the run. -/
def Sys2Proof.Clause.TrapEntry : Prop :=
  ∀ (s : State) (h : Here) (cause : Nat) (info ret : Quad), hereOf s = some h →
    (h.f.scout = none → h.i.sup = false → ¬(cause = 6 ∨ cause = 7 ∨ cause = 8) → takeTrap h s cause info ret = h.entered s cause info ret) ∧
    (h.f.scout = none → h.i.sup = false → (cause = 6 ∨ cause = 7 ∨ cause = 8) →
      takeTrap h s cause info ret = postRecord (h.entered s cause info ret) (.core h.g.cluster (h.g.core + h.w.member)) (h.report s cause info)) ∧
    (h.f.scout = none → h.i.sup = true → takeTrap h s cause info ret =
      endContextByDevice s h.g.tag (.core h.g.cluster (h.g.core + h.w.member)) { h.report s 16 info with xkind := cause }) ∧
    (∀ c, h.f.scout = some c → takeTrap h s cause info ret =
      h.changed s (fun w => w) fun f => { f with scout := f.scout.map fun c => { c with ended := true } })

/-- R249, R252: a software trap enters the handler with cause 10 and returns to the next address; `tret` brings the group's strands of
`trap.lanes` back to kernel mode at `trap.ret`, and the fibre back to its slot once no live strand of it is in supervisor mode. In
kernel mode `tret` traps with cause privilege, and an odd `trap.ret` with cause misaligned. -/
def Sys2Proof.Clause.SoftwareTrapAndReturn : Prop :=
  (∀ (s : State) (h : Here) (n : BitVec 6), Issuing s h → h.i.sup = false →
    exec (.trap n) s = .next (settle h (h.entered s 10 (n.setWidth 64) h.i.next))) ∧
  (∀ (s : State) (h : Here), Issuing s h → h.i.sup = true → h.f.trap.ret.getLsbD 0 = false →
    let back := h.i.lanes &&& h.f.sup &&& h.f.trap.lanes
    exec .tret s = .next (settle h (h.doneWith s (fun f =>
      let sup := f.sup &&& ~~~back
      { f.standsAt back fun _ => h.f.trap.ret with sup, state := if sup &&& ~~~f.exited = 0 then .holding else f.state }) []))) ∧
  (∀ (s : State) (h : Here), Issuing s h →
    (h.i.sup = false → exec .tret s = .next (settle h (h.entered s 12 0 h.i.pc))) ∧
    (h.i.sup = true → h.f.trap.ret.getLsbD 0 = true → exec .tret s = .next (settle h (takeTrap h s 3 h.f.trap.ret h.i.pc))))

/-- R141, R249: an unassigned encoding traps with cause illegal-instruction before any effect; `trap.info` holds the opcode parcel above
the one after it, which `peekParcel` gives. Where a peer or the host must be asked for one of them first, the instruction issues
again with the answer: the fibre keeps its slot while the request is out (log 39), and stalls as on any resource where none could be
sent. In scout mode it ends the run. -/
def Sys2Proof.Clause.IllegalInstructionTraps : Prop :=
  ∀ (s : State) (h : Here) (w : Word), Issuing s h →
    exec (.illegalInstruction w) s = .next (refrain h s illegalInstruction) ∧
    (∀ p q, peekParcel s h h.i.opc = .ok p → peekParcel s h (h.i.opc + 2) = .ok q →
      refrain h s illegalInstruction = settle h (takeTrap h s 1 ((p ++ q).setWidth 64) h.i.pc)) ∧
    (∀ t, peekParcel s h h.i.opc = .error (.ask t) ∨
        ((∃ p, peekParcel s h h.i.opc = .ok p) ∧ peekParcel s h (h.i.opc + 2) = .error (.ask t)) →
      (h.asked t = true → refrain h s illegalInstruction = h.changed t (fun w => w) fun f =>
        { f with retry := some h.i.pc, wait := some { h.wait t .answers with next := h.i.pc }, state := .stalled }) ∧
      (h.asked t = false → refrain h s illegalInstruction = stallOn h t .answers))

/-- R142, R243, R246, R247: `srd` of each register gives its value to every strand of the group; a supervisor register read in kernel mode
traps with cause privilege, and an unassigned number is illegal. -/
def Sys2Proof.Clause.SystemReadResults : Prop :=
  (∀ (s : State) (h : Here) (o : SysReg), Issuing s h → ∀ e ∈ sysTable h s, o.r.toNat = e.1 →
    (h.i.sup = true ∨ o.r.toNat < 0x100) →
    (e.2.1 = true → h.canWrite64 o.d →
      exec (.srd o) s = .next (settle h (h.done s (h.into64 o.d h.i.lanes fun _ => BitVec.ofNat 64 e.2.2)))) ∧
    (e.2.1 = false → h.canWrite o.d →
      exec (.srd o) s = .next (settle h (h.done s (h.into o.d h.i.lanes fun _ => BitVec.ofNat 32 e.2.2))))) ∧
  (∀ (s : State) (h : Here) (o : SysReg), Issuing s h → ∀ e ∈ sysTable h s, o.r.toNat = e.1 → h.i.sup = false → 0x100 ≤ o.r.toNat →
    o.d.toNat ≤ 120 → (e.2.1 = true → o.d.toNat < 120 → o.d.toNat % 2 = 0) →
    exec (.srd o) s = .next (settle h (h.entered s 12 (BitVec.ofNat 64 e.1) h.i.pc))) ∧
  (∀ (s : State) (h : Here) (o : SysReg), Issuing s h → (∀ e ∈ sysTable h s, o.r.toNat ≠ e.1) →
    exec (.srd o) s = .next (refrain h s illegalInstruction) ∧
    exec (.swr o) s = .next (refrain h s illegalInstruction))

/-- R245, R247, R310: a supervisor write of each writable register with the lowest strand's value; every other assigned register, and any
in kernel mode, traps with cause privilege. -/
def Sys2Proof.Clause.SystemWriteResults : Prop :=
  (∀ (s : State) (h : Here) (o : SysReg), Issuing s h → h.i.sup = true → o.d.toNat ≤ 120 → h.canRead o.d false none →
    let v := h.word o.d false none (lowest h.i.lanes)
    let win := h.g.hdr.winOf h.i.fibre
    (o.r = 0x00D → exec (.swr o) s = .next (settle h (modGang (h.done s []) h.w.gang fun g => { g with stray := v }))) ∧
    (o.r = 0x00E → exec (.swr o) s = .next (settle h (modGang (h.done s []) h.w.gang fun g => { g with strayLast := v }))) ∧
    (o.r = 0x00F → win.1 ≤ v.toNat → v.toNat < win.2 →
      exec (.swr o) s = .next (settle h (h.doneWith s (fun f => { f with wbase := v.toNat }) []))) ∧
    (o.r = 0x00F → ¬(win.1 ≤ v.toNat ∧ v.toNat < win.2) →
      exec (.swr o) s = .next (settle h (takeTrap h s 2 (v.setWidth 64) h.i.pc))) ∧
    (o.r = 0x106 → v.getLsbD 1 = false → v.getLsbD 0 = false → exec (.swr o) s = .next (settle h (h.done s []))) ∧
    (o.r = 0x106 → v.getLsbD 1 = false → v.getLsbD 0 = true →
      exec (.swr o) s = .next (settle h (fibreDone (h.changed s (fun w => w) (·.exitLanes (BitVec.allOnes 32))) h.i.wave h.i.fibre h.i.hint))) ∧
    (o.r = 0x106 → v.getLsbD 1 = true → exec (.swr o) s = .next (settle h
      (endContextByDevice s h.g.tag (.core h.g.cluster (h.g.core + h.w.member))
        { h.report s h.f.trap.cause h.f.trap.info with addr := h.f.trap.pc, lanes := h.f.trap.lanes })))) ∧
  (∀ (s : State) (h : Here) (o : SysReg), Issuing s h → h.i.sup = true → o.d.toNat ≤ 120 → h.canRead64 o.d false none →
    let v := h.quad o.d false none (lowest h.i.lanes)
    (o.r = 0x102 → exec (.swr o) s = .next (settle h (h.doneWith s (fun f => { f with trap := { f.trap with ret := v } }) []))) ∧
    (∀ n < 4, o.r.toNat = 0x110 + n →
      exec (.swr o) s = .next (settle h (modContext (h.done s []) h.g.tag fun c => c.counting n v)))) ∧
  (∀ (s : State) (h : Here) (o : SysReg), Issuing s h → ∀ e ∈ sysTable h s, o.r.toNat = e.1 →
    o.d.toNat ≤ 120 → (e.2.1 = true → o.d.toNat < 120 → o.d.toNat % 2 = 0) →
    (h.i.sup = false ∨ ¬(e.1 ∈ ([0x00D, 0x00E, 0x00F, 0x102, 0x106, 0x110, 0x111, 0x112, 0x113] : List Nat))) →
    exec (.swr o) s = .next (settle h (takeTrap h s 12 (BitVec.ofNat 64 e.1) h.i.pc)))

/-- R253, R304 to R306: under a debugger `halt` and `brk` stop the fibre precisely, with a record of the next address or of their own;
without one `halt` ends the context with the same record, and `brk` traps with cause breakpoint, in supervisor mode as a double trap
(R250). -/
def Sys2Proof.Clause.PreciseStopResults : Prop :=
  (∀ (s : State) (h : Here), Issuing s h → h.c.dbg = true →
    exec .halt s = .next (settle h (postRecord (h.halted s) (.core h.g.cluster (h.g.core + h.w.member)) (h.stopReport s h.i.next 0))) ∧
    (∀ n, exec (.brk n) s =
      .next (settle h (postRecord (h.halted s) (.core h.g.cluster (h.g.core + h.w.member)) (h.stopReport s h.i.pc n.toNat))))) ∧
  (∀ (s : State) (h : Here), Issuing s h → h.c.dbg = false →
    exec .halt s = .next (settle h (endContextByDevice s h.g.tag (.core h.g.cluster (h.g.core + h.w.member)) (h.stopReport s h.i.next 0))) ∧
    (∀ n : BitVec 6, h.i.sup = false → exec (.brk n) s = .next (settle h (h.entered s 11 (n.setWidth 64) h.i.next))) ∧
    (∀ n : BitVec 6, h.i.sup = true → exec (.brk n) s = .next (settle h (takeTrap h s 11 (n.setWidth 64) h.i.next))))

/-- R253, R299, R310: `prog` raises its progress counter by 1; `ckmark` changes nothing but for the Vigil record of a launch in replay
mode. -/
def Sys2Proof.Clause.MarkResults : Prop :=
  (∀ (s : State) (h : Here) (n : BitVec 2), Issuing s h →
    exec (.prog n) s = .next (settle h (modContext (h.done s []) h.g.tag fun c => c.counting n.toNat (c.progs.getD n.toNat 0 + 1)))) ∧
  (∀ (s : State) (h : Here) (n : BitVec 6), Issuing s h →
    (h.i.sup = true ∨ h.unlogged → exec (.ckmark n) s = .next (settle h (h.done s []))) ∧
    (h.i.sup = false → exec (.ckmark n) s = .next (settle h (vigilRecord (h.done s []) h.i.wave h.i.fibre 3 n.toNat h.i.pc))))

/-- R127: a dictionary parcel does what its entry's word does in the stream; an index beyond the dictionary is illegal. -/
def Obligations.DictionaryResults : Prop :=
  (∀ (s : State) (h : Here) (k : BitVec 10) (w : Word) (i : Instr), Issuing s h → h.dictionary[k.toNat]? = some w →
    decodeWord w h.i.lit = some i → exec (.dictionaryParcel k) s = exec i s) ∧
  (∀ (s : State) (h : Here) (k : BitVec 10) (w : Word) (o : Tri), Issuing s h → h.dictionary[k.toNat]? = some w →
    decodeWord w h.i.lit = some (.addB32 o) → h.canRead o.a false none → h.canRead o.b o.u o.lit → h.canWrite o.dst →
    exec (.dictionaryParcel k) s = .next (settle h (h.done s (h.into o.dst (h.perf o.p) fun i =>
      h.word o.a false none i + h.word o.b o.u o.lit i)))) ∧
  (∀ (s : State) (h : Here) (k : BitVec 10), Issuing s h → h.dictionary.length ≤ k.toNat →
    exec (.dictionaryParcel k) s = .next (refrain h s illegalInstruction))

/-- R53, R54, R57, R392, R393: a source register that an error of the unified store has poisoned in a lane of the group traps with cause
poison and enters the log with the cluster as its source (that `trap.info` names the register is the model's choice, log 27);
a source register outside the declared range traps with cause window, naming the allocation register, before any effect;
a reserved operand code is illegal. -/
def Sys2Proof.Clause.OperandTraps : Prop :=
  (∀ (s : State) (h : Here) (o : Duo), Issuing s h → o.u = false → o.a.toNat < 120 → o.dst.toNat ≤ 120 →
    (if h.i.sup then 32 ≤ o.a.toNat else (h.g.hdr.winOf h.i.fibre).2 ≤ h.f.wbase + o.a.toNat) →
    exec (.movB32 o) s = .next (settle h (takeTrap h s 2
      (BitVec.ofNat 64 (if h.i.sup then o.a.toNat else h.f.wbase + o.a.toNat)) h.i.pc))) ∧
  (∀ (s : State) (h : Here) (o : Duo), Issuing s h → o.u = false → o.a.toNat < 120 → o.dst.toNat ≤ 120 → h.ready o.a.toNat →
    ¬h.sound o.a.toNat →
    let info : Quad := BitVec.ofNat 64 (h.regOf o.a.toNat)
    exec (.movB32 o) s = .next (settle h (takeTrap h (s.log 4 h.g.cluster (some h.g.tag) info) 7 info h.i.pc))) ∧
  (∀ (s : State) (h : Here) (o : Duo), Issuing s h → 120 < o.dst.toNat →
    exec (.movB32 o) s = .next (refrain h s illegalInstruction))

end

namespace Sys2Proof.Machine

/-- A fibre of a running gang that waits: STALLED in its slot, or WAITING or in FBARRIER while another fibre holds the slot; no peer
watches a word for it. -/
structure Waiting (s : State) (w k : Nat) (v : Wave) (g : Gang) (f : Fibre) (x : Wait) : Prop where
  wave    : get? s.waves w = some v
  gang    : get? s.gangs v.gang = some g
  fibre   : v.fibres[k]? = some f
  runs    : g.state = .running
  waits   : f.wait = some x
  slot    : (f.state = .stalled ∧ v.holder = some k) ∨ ((f.state = .waiting ∨ f.state = .fbarrier) ∧ ∃ j, v.holder = some j)
  noWatch : ∀ r ∈ s.requests, r.2.who ≠ .monitor w k
/-- A fibre that waits no longer: it moves in its slot, or is ready to take it (R28, R45). -/
def Fibre.freed (f : Fibre) : Fibre :=
  { f with
    wait := none
    state := if f.state = .stalled then (if f.scout.isSome then .scout else if f.inTrap then .trap else .holding) else .ready }
/-- The state in which the fibre waits no longer and stands at the same instruction (R29). -/
def State.reissues (s : State) (w k : Nat) : State :=
  { s with waves := upd s.waves w fun v => { v with fibres := modAt v.fibres k Fibre.freed } }
/-- Some `s` registers written in order. -/
def told (t : List Word) (xs : List (Nat × Word)) : List Word := xs.foldl (fun t x => setAt t x.1 x.2) t
/-- Those of a fibre, or of the supervisor file of its wave. -/
def Wave.told (v : Wave) (k : Nat) (sup : Bool) (xs : List (Nat × Word)) : Wave :=
  if sup then { v with supS := Machine.told v.supS xs }
  else { v with fibres := modAt v.fibres k fun f => { f with s := Machine.told f.s xs } }
/-- The state in which a wait is over: its monitor is gone, some `s` registers are written, and the fibre stands at the next
address, later than every write (R99). -/
def State.waitOver (s : State) (w k : Nat) (x : Wait) (xs : List (Nat × Word)) : State :=
  { s with
    monitors := (match x.monitor with | some m => del s.monitors m | none => s.monitors)
    waves := upd s.waves w fun v =>
      let v1 := v.told k x.sup xs
      { v1 with fibres := modAt v1.fibres k fun f => { (f.standsAt x.lanes fun _ => x.next).freed with time := s.logical } } }
/-- The registers that a `monw` returns its word in. -/
def wordTo (wide : Bool) (r : Nat) (v : Quad) : List (Nat × Word) :=
  (r, v.setWidth 32) :: if wide then [(r + 1, (v >>> 32).setWidth 32)] else []
/-- What a fence's bit 5 leaves: the dirty system-shared lines written back, each of which can be (R118). -/
def State.writtenBack (s : State) (mask : BitVec 6) (t : State) : Prop :=
  if mask.getLsbD 5 then fenceWriteBack s = (t, none) else t = s
/-- Whether a class of a fence has completed (R119): its operations have, and for bit 5 no peer has a write of the fibre still to write
back (log 64); the write-back here is made when the fence ends. -/
def fenced (s : State) (w k : Nat) (f : Fibre) (c : Nat) : Prop :=
  if c = 5 then ∀ r ∈ s.far, ¬(r.wave = w ∧ r.fibre = k) else f.counts.getD c 0 = 0
/-- A wait that its condition does not end (R33): the state once it has been withdrawn, the values that it returns, and its status at
its deadline (R110, R112, R119, R212, R226). -/
inductive Unmet (s : State) (w k : Nat) (v : Wave) (g : Gang) (f : Fibre) (x : Wait) : State → List (Nat × Word) → Nat → Prop where
  | waitc (c n : Nat) (kind : x.kind = .waitc c n) (open_ : n < f.counts.getD c 0) : Unmet s w k v g f x s [] 1
  | monw (a : Quad) (wide : Bool) (cond : BitVec 3) (op : Quad) (r : Nat) (kind : x.kind = .monw a wide cond op r)
      (asleep : ∀ m e, x.monitor = some m → get? s.monitors m = some e → e.woken = none) : Unmet s w k v g f x s (wordTo wide r x.last) 1
  | bwait (off : Word) (parity : Bool) (kind : x.kind = .bwait off parity none) (won : x.won = none)
      (clean : localPoison s v.gang g.hdr off.toNat 16 = false) (phase : (barrierAt s v.gang g.hdr off.toNat).phase = parity) :
      Unmet s w k v g f x s [] 1
  | arrived (off : Word) (parity : Bool) (c : Nat) (kind : x.kind = .bwait off parity (some c)) (won : x.won = none)
      (clean : localPoison s v.gang g.hdr off.toNat 16 = false) (phase : (barrierAt s v.gang g.hdr off.toNat).phase = parity)
      (gen : (barrierAt s v.gang g.hdr off.toNat).gen = x.gen) :
      Unmet s w k v g f x
        (let t := barrierEvent s v.gang g.hdr off.toNat (.withdraw c x.gen)
         if isStray g.hdr off.toNat then noteStray t v.gang w 1 off.toNat else t) [] 2
  | gbar (a : Quad) (n : Word) (t : State) (kind : x.kind = .gbar a n)
      (asleep : ∀ m e, x.monitor = some m → get? s.monitors m = some e → e.woken = none)
      (can : check s (some g.tag) a.toNat rightAtomic true true false = (t, .ok)) (gen : (gridAt t a.toNat).gen = n.toNat) :
      Unmet s w k v g f x
        (let b := gridAt t a.toNat
         putGrid t a.toNat { b with pend := min b.exp (b.pend + 1), wdr := min (b.wdr + 1) 0xFFFFFFFF } (g.launch, w, k)) [] 2
  | qrecv (off : Word) (a : Nat) (q : StageQueue) (kind : x.kind = .qrecv off a) (clean : localPoison s v.gang g.hdr off.toNat 16 = false)
      (queue : queueAt s v.gang g.hdr off.toNat = some q) (empty : q.head = q.tail) : Unmet s w k v g f x s [] 1
  | fbar (mask : BitVec 4) (j : Nat) (y : Fibre) (kind : x.kind = .fbar mask) (named : mask.getLsbD j = true) (there : v.fibres[j]? = some y)
      (lives : y.state ≠ .done) (missing : y.barrierMask ≠ some mask) : Unmet s w k v g f x s [] 1
  | procEnter (kind : x.kind = .procEnter) (outside : groupInside (admitGroup s w k x.lanes) w k x.lanes = false) :
      Unmet s w k v g f x
        { s with waves := upd s.waves w fun v => { v with fibres := modAt v.fibres k fun f => { f with proc := f.proc.map fun p =>
          (p.1, if x.lanes.getLsbD p.1 then { p.2 with registered := false, inside := false } else p.2) } } } [] 1
  | fence (mask : BitVec 6) (t : State) (bits : BitVec 6) (kind : x.kind = .fence mask) (back : s.writtenBack mask t)
      (done : ∀ c < 6, bits.getLsbD c = true ↔ mask.getLsbD c = true ∧ fenced s w k f c) (short : bits ≠ mask) :
      Unmet s w k v g f x t [(x.st + 1, bits.setWidth 32)] (if bits = 0 then 1 else 3)

end Sys2Proof.Machine

section

open Sys2Proof Sys2Proof.Machine

/-- R33: a wait whose condition holds ends with its status and its values, and the fibre goes on behind it; a stall issues the same
instruction again. R30, R110, R107, R113, R115, R119, R212, R29, R226, R309. The clauses for an arrival at a barrier are about launches
without REPLAY, where no Vigil record is made. -/
def Sys2Proof.Clause.WaitConditionEvents : Prop :=
  ∀ (s : State) (w k : Nat) (v : Wave) (g : Gang) (f : Fibre) (x : Wait), Waiting s w k v g f x →
    let unlogged := ∀ l, get? s.launches g.launch = some l → l.replay = false
    (∀ r, x.kind = .resource r → resourceFree s w k r = true → exec (.waitEnd w k) s = .next (s.reissues w k)) ∧
    (∀ c n, x.kind = .waitc c n → f.counts.getD c 0 ≤ n → exec (.waitEnd w k) s = .next (s.waitOver w k x [(x.st, 0)])) ∧
    (∀ a wide cond op r m e val, x.kind = .monw a wide cond op r → x.monitor = some m → get? s.monitors m = some e →
      e.woken = some val → exec (.waitEnd w k) s = .next
        (if e.bad then poisonWord s w k x a else s.waitOver w k x (wordTo wide r val ++ [(x.st, 0)]))) ∧
    (∀ a n m e val, x.kind = .gbar a n → x.monitor = some m → get? s.monitors m = some e → e.woken = some val → e.bad = false →
      x.ending = none → unlogged → exec (.waitEnd w k) s = .next (s.waitOver w k x [(x.st, 0)])) ∧
    (∀ off parity c last, x.kind = .bwait off parity c → (c = none ∨ unlogged) → x.won = some last →
      exec (.waitEnd w k) s = .next (s.waitOver w k x [(x.st, BitVec.ofNat 32 last)])) ∧
    (∀ off parity c, x.kind = .bwait off parity c → (c = none ∨ unlogged) → x.won = none →
      (barrierAt s v.gang g.hdr off.toNat).phase ≠ parity → localPoison s v.gang g.hdr off.toNat 16 = false →
      exec (.waitEnd w k) s = .next (s.waitOver w k x [(x.st, BitVec.ofNat 32 (barrierAt s v.gang g.hdr off.toNat).last)])) ∧
    (∀ off a, x.kind = .qrecv off a → localPoison s v.gang g.hdr off.toNat 16 = false →
      (queueAt s v.gang g.hdr off.toNat = none → exec (.waitEnd w k) s = .next (s.waitOver w k x [(x.st, 14)])) ∧
      ∀ q, queueAt s v.gang g.hdr off.toNat = some q → q.head ≠ q.tail →
        localPoison s v.gang g.hdr (q.entry off.toNat q.head) (4 * q.words) = false →
        let r := queueReceive s w v.gang g.hdr off.toNat q
        exec (.waitEnd w k) s = .next (r.1.waitOver w k x (r.2.zipIdx.map (fun y => (a + y.2, y.1)) ++ [(x.st, 0)]))) ∧
    (∀ mask t, x.kind = .fence mask → (∀ c < 6, mask.getLsbD c = true → fenced s w k f c) → s.writtenBack mask t →
      exec (.waitEnd w k) s = .next (t.waitOver w k x [(x.st + 1, mask.setWidth 32), (x.st, 0)])) ∧
    (∀ mask, x.kind = .fbar mask → mask.getLsbD k = true → x.sup = false → unlogged →
      (∀ j, mask.getLsbD j = true → ∀ y, v.fibres[j]? = some y → y.state = .done ∨ y.barrierMask = some mask) →
      ∃ t, exec (.waitEnd w k) s = .next t ∧
        fibreAt t w k = { (({ f with s := setAt f.s x.st 0 } : Fibre).standsAt x.lanes fun _ => x.next).freed with time := s.logical } ∧
        ∀ j y, mask.getLsbD j = true → v.fibres[j]? = some y → y.barrierMask = some mask → (fibreAt t w j).wait = none) ∧
    (∀ t, x.kind = .hold t → t ≤ s.clk → exec (.lentHoldExpiry w k) s = .next (s.reissues w k)) ∧
    (x.kind = .procEnter →
      let t := admitGroup s w k x.lanes
      exec (.processionAdmit w k) s = .next (if groupInside t w k x.lanes then t.waitOver w k x [(x.st, 0)] else t))

/-- R33, R36, R107, R110, R112, R119, R212, R226: a wait whose condition does not hold ends at its deadline with TIMEOUT, or PARTIAL for a
fence some of whose classes have completed, or WITHDRAWN for an arrival at a barrier, which is taken back; at its Ides point, before the
deadline, it ends with ESCALATE, and a fibre in kernel mode takes the escalate trap: at once when it holds its slot, else before it
issues next; in supervisor mode it takes none (R250). A POLLING wait that was restored reads its word first (R35), and one whose
withdrawal is on its way to a peer is left to that answer. -/
def Sys2Proof.Clause.WaitExpiryEvents : Prop :=
  ∀ (s s' : State) (w k : Nat) (v : Wave) (g : Gang) (f : Fibre) (x : Wait) (xs : List (Nat × Word)) (st : Nat), Waiting s w k v g f x →
    x.ending = none → x.stale = false → Unmet s w k v g f x s' xs st →
    (reached s g.tag x.deadline = true →
      exec (.waitDeadline w k) s = .next (s'.waitOver w k x (xs ++ [(x.st, BitVec.ofNat 32 st)]))) ∧
    (reached s g.tag x.deadline = false → x.ides ≤ contextTime s g.tag →
      ∃ t, exec (.idesPoint w k) s = .next t ∧
        let f' := fibreAt s' w k
        let told : Fibre := { f' with s := Machine.told f'.s (xs ++ [(x.st, 11)]) }
        let trap : TrapRegs := { cause := 9, pc := x.pc, ret := x.next, lanes := x.lanes, info := BitVec.ofNat 64 x.ides, seq := v.seq }
        (x.sup = false → f.state = .stalled → fibreAt t w k =
          { told.standsAt x.lanes fun _ => handlerOf s v.gang with
            wait := none, state := .trap, sup := f.sup ||| x.lanes, escalate := none, time := t.logical, trap }) ∧
        (x.sup = false → f.state ≠ .stalled → fibreAt t w k =
          { (told.standsAt x.lanes fun _ => x.next).freed with escalate := some trap, time := t.logical }) ∧
        (x.sup = true → fibreAt t w k = { (f'.standsAt x.lanes fun _ => x.next).freed with time := t.logical } ∧
          (get? t.waves w).map (·.supS) = some (Machine.told v.supS (xs ++ [(x.st, 11)]))))

/-- R226: a registered strand can be admitted when no other participant is inside a section of its key, none with its key and order
has registered before it, and every other participant's floor admits its order; it is then inside. -/
def Sys2Proof.Clause.AdmissionConditions : Prop :=
  ∀ (s : State) (w k i : Nat),
    let e := (fibreAt s w k).procAt i
    (canAdmit s w k i = true ↔ e.registered = true ∧ ∀ p ∈ participants s w k, ¬(p.wave = w ∧ p.lane = i) →
      ¬(p.entry.inside = true ∧ p.entry.key = e.key) ∧
      ¬(p.entry.registered = true ∧ p.entry.key = e.key ∧ p.entry.order = e.order ∧ p.entry.stamp < e.stamp) ∧
      ∀ n, p.entry.floor = some n → e.order ≤ n)

/-- R113, R35, R38, R23, R352: a POLLING wait's read, 2,048 clk after its last one or when its gang has been restored, ends it when the
comparison is true and takes an entry of the table when it is not;
the end of a scout run puts the checkpoint back and parks the fibre with one record of the pages it met; a fibre whose counter has
reached 256 becomes urgent; and the oldest record held at an origin is posted when the buffer has room. -/
def Obligations.FibreEvents : Prop :=
  (∀ (s : State) (w k : Nat) (v : Wave) (g : Gang) (f : Fibre) (x : Wait), Waiting s w k v g f x →
    ∀ a wide cond op r, x.kind = .monw a wide cond op r → x.monitor = none → x.polled + 2048 ≤ s.clk ∨ x.stale = true →
    (∀ d o, placeOf s a.toNat ≠ .peer d o) →
    let s1 : State := { s with waves := upd s.waves w fun v => { v with fibres := modAt v.fibres k fun f =>
      { f with wait := f.wait.map fun x => { x with polled := s.clk } } } }
    ∀ t, check s1 (some g.tag) a.toNat rightRead true false true = (t, .ok) →
      let val := ofBytes (readGlobal t a.toNat (if wide then 8 else 4))
      let m : Monitor := { addr := a, wide, cond, operand := op, who := .fibre w k }
      (monTrue cond val op.toNat = true →
        exec (.monitorPoll w k) s = .next (t.waitOver w k x (wordTo wide r (BitVec.ofNat 64 val) ++ [(x.st, 0)]))) ∧
      (monTrue cond val op.toNat = false → tableUsed t (sliceOf a.toNat) < 128 →
        exec (.monitorPoll w k) s = .next { t with
          nextUid := t.nextUid + 1
          monitors := put t.monitors t.nextUid m
          waves := upd t.waves w fun v => { v with fibres := modAt v.fibres k fun f =>
            { f with wait := f.wait.map fun x => { x with last := BitVec.ofNat 64 val, monitor := some t.nextUid, stale := false } } } })) ∧
  (∀ (s : State) (w k : Nat) (v : Wave) (g : Gang) (f : Fibre) (c : Scout), get? s.waves w = some v → get? s.gangs v.gang = some g →
    v.fibres[k]? = some f → g.state = .running → f.state ≠ .halted → f.wait = none → f.retry = none → f.scout = some c → c.ended = true → s.tokens.length < 2 ^ 31 →
    ∃ t r, exec (.scoutEnd w k) s = .next t ∧
      fibreAt t w k = { f with
        pcs := c.cp.pcs, exited := c.cp.exited, s := c.cp.s, m := c.cp.m, wbase := c.cp.wbase
        cursor := c.cp.cursor, ages := c.cp.ages
        state := .parked, park := some (c.cp, r), parkedAt := s.clk, scout := none, retry := none, answers := c.kept } ∧
      r.pages = c.pages ∧ r.code = c.code ∧ r.addr = c.addr ∧ r.info = c.info ∧ r.lanes = c.lanes ∧
      r.replayable = true ∧ r.parked = true ∧ r.token ∉ s.tokens) ∧
  (∀ (s : State) (w k : Nat) (v : Wave) (f : Fibre), get? s.waves w = some v → v.fibres[k]? = some f → 256 ≤ f.urgency →
    exec (.urgent w k) s = .next { s with waves := upd s.waves w fun v => { v with
      fibres := modAt v.fibres k fun f => { f with urgent := true } } }) ∧
  (∀ (s : State) (o : Origin) (pre post : List (Origin × Record)) (r : Record), s.fbEnable = true → s.fbStop = false →
    (s.fbWr - s.fbRd).toNat < 2 ^ s.fbSize → s.posting = [] → s.held = pre ++ (o, r) :: post → (∀ h ∈ pre, h.1 ≠ o) →
    let s1 : State := { s with held := pre ++ post, posting := [(o, r)] }
    ∀ t u, writeRange s1 (s.fbBase.toNat + 192 * (s.fbWr.toNat % 2 ^ s.fbSize)) (r.bytes s) = (t, .ok u) →
      ∃ t', exec (.heldRecordPost o) s = .next t' ∧ t'.fbWr = s.fbWr + 1 ∧ t'.held = pre ++ post ∧ t'.posting = [] ∧
        t'.fxIntStat = s.fxIntStat ||| 1)

end

namespace Sys2Proof.Machine

/-- An operation in flight whose gang is not swapped out, whose fibre still runs, and that is the oldest of its fibre and class. -/
structure InFlight (s : State) (id : Nat) (o : Op) (g : Gang) : Prop where
  op     : get? s.ops id = some o
  gang   : get? s.gangs o.gang = some g
  runs   : g.state = .running
  fibre  : ∃ v f, get? s.waves o.wave = some v ∧ v.gang = o.gang ∧ v.fibres[o.fibre]? = some f ∧ f.state ≠ .done
  oldest : ∀ p ∈ s.ops, p.1 < id → ¬(p.2.wave = o.wave ∧ p.2.fibre = o.fibre ∧ p.2.cls = o.cls)
/-- The state in which an operation is over: it is gone, its fibre's counter has fallen by 1 (R106), and its barrier object has had
its event (R109); at an object that holds poison the event is only logged (the model's choice, log 63). -/
def State.over (s : State) (id : Nat) (o : Op) (e : BarrierEvent) : State :=
  let s1 : State := { s with
    ops := del s.ops id
    waves := upd s.waves o.wave fun v => { v with fibres := modAt v.fibres o.fibre fun f => { f with
      counts := (List.range 5).map fun c => f.counts.getD c 0 - if c = o.cls then 1 else 0 } } }
  match o.bar with
  | some b => opEvent s1 o b.toNat e
  | none => s1
/-- Every one of some units has been read without an error. -/
def Op.has (o : Op) (us : List Nat) : Prop := ∀ u ∈ us, ∃ r, o.read? u = some r ∧ r.status = 0
/-- The local bytes of a gang changed; a unit written whole is no longer poisoned (R392). -/
def State.localSet (s : State) (g : Nat) (h : Header) (bs : List (Nat × Byte)) : State :=
  { s with gangs := upd s.gangs g fun x => { x with
      mem := bs.foldl (fun m b => putLocalByte h m b.1 b.2) x.mem
      badMem := unpoisoned x.badMem (bs.flatMap fun b => localPlaces h b.1 1) } }
/-- The accumulator memory of a gang changed by an operation; what it writes is no longer poisoned (R392). -/
def State.accSet (s : State) (g : Nat) (k : OpKind) (f : List (Nat × Word) → List (Nat × Word)) : State :=
  { s with gangs := upd s.gangs g fun x => { x with
      acc := f x.acc
      badAcc := x.badAcc.filter fun u => !(k.accWrites.any fun r => decide (256 * r.1 ≤ u ∧ u < 256 * r.1 + r.2 / 4)) } }

end Sys2Proof.Machine

section

open Sys2Proof Sys2Proof.Machine

/-- R102: an operation reads one of its units, in local memory or in global memory where the access passes the checks, and keeps the
bytes that stand there at that moment; a local unit with an error that cannot be corrected is POISON (R392), and a peer's unit
that has not come 2,097,152 clk after a copy's issue is ABSENT (R286). -/
def Sys2Proof.Clause.UnitReadEvents : Prop :=
  ∀ (s : State) (id k u : Nat) (o : Op) (g : Gang), get? s.ops id = some o → get? s.gangs o.gang = some g → o.cls ≠ 3 →
    o.kind.member = none → o.status = 0 → o.decided = none → o.kind.units[k]? = some u → o.read? u = none →
    let kept (t : State) (st : Nat) (bs : List Byte) : State :=
      { t with ops := upd t.ops id fun o => { o with reads := o.reads ++ [{ unit := u, status := st, bytes := bs }] } }
    (2 ^ 64 ≤ u → localPoison s o.gang g.hdr (u - 2 ^ 64) 16 = false →
      exec (.engineUnitRead id k) s = .next (kept s 0 (readLocal s o.gang g.hdr (u - 2 ^ 64) 16))) ∧
    (2 ^ 64 ≤ u → localPoison s o.gang g.hdr (u - 2 ^ 64) 16 = true → exec (.engineUnitRead id k) s = .next (kept s 15 [])) ∧
    (∀ t, u < 2 ^ 64 → check s (some o.tag) u rightRead true false true = (t, .ok) →
      exec (.engineUnitRead id k) s = .next (kept t 0 (readGlobal t u 16))) ∧
    (∀ t d, u < 2 ^ 64 → check s (some o.tag) u rightRead true false true = (t, .peer d) → o.cls = 0 → o.issued + 2097152 ≤ t.clk →
      exec (.engineUnitRead id k) s = .next (kept t 12 []))

/-- R102, R201: a copy that has read its units and touches neither the aperture nor stray bytes completes: its bytes stand in local
memory, or are written as one step to global memory, where every unit passes its checks and what peers write of it has been answered;
its counter falls, and its barrier object receives its byte count. -/
def Sys2Proof.Clause.CopyCompletes : Prop :=
  ∀ (s : State) (id : Nat) (o : Op) (g : Gang) (c : CopyDesc), InFlight s id o g → o.kind.copyDesc = some c → o.status = 0 →
    firstAperture c.localRuns = none → firstStray g.hdr c.localRuns = none → o.has c.sourceUnits →
    (c.dstLocal = true →
      exec (.copyCompletion id) s = .next ((s.localSet o.gang g.hdr (copyBytes o c)).over id o (.copied c.bytes 0))) ∧
    ∀ w, c.dstLocal = false → stageWrites s id o (gatherUnits (copyBytes o c)) = w → w.pending = false → w.bad = [] →
      exec (.copyCompletion id) s = .next ((commitWrites o w).over id o (.copied c.bytes 0))

/-- R105, R222: a matrix operation that stands first in its MXE and has read its operands completes: the accumulator holds its
result. A drain in its turn reads its accumulator, and clears it when it is asked to; then, the oldest of its class, its values
stand in local memory, added to what stands there when it is asked to, or in global memory, or are contributed to the cells there, and
it completes (R220). -/
def Obligations.MatrixCompletes : Prop :=
  (∀ (s : State) (id : Nat) (o : Op) (g : Gang), InFlight s id o g → o.cls = 1 → firstInMxe s id o = true → o.status = 0 →
    firstAperture o.kind.runs = none → firstStray g.hdr o.kind.runs = none → o.has o.kind.operandUnits →
    (∀ r ∈ o.kind.accReads, accPoisoned s o.gang r.1 r.2 = false) →
    exec (.matrixCompletion id) s = .next ((s.accSet o.gang o.kind (matrixEffect o)).over id o (.engine 0))) ∧
  (∀ (s : State) (id : Nat) (o : Op) (g : Gang) add m n u int fmt glob lin sat rm clear stride dest seed, get? s.ops id = some o →
    get? s.gangs o.gang = some g → o.cls = 4 → o.kind = .drain add m n u int fmt glob lin sat rm clear stride dest seed →
    o.captured = none → firstInMxe s id o = true →
    (∃ p ∈ s.ops, p.1 < id ∧ p.2.wave = o.wave ∧ p.2.fibre = o.fibre ∧ p.2.cls = o.cls) →
    let s1 : State := { s with ops := upd s.ops id fun o => { o with
      captured := some (readAcc g.acc u m n), status := if accPoisoned s o.gang u (m * n) then max o.status 15 else o.status } }
    exec (.drainCompletion id) s = .next
      (if clear then s1.accSet o.gang o.kind fun a => writeAcc a u (List.replicate (m * n) 0) else s1)) ∧
  (∀ (s : State) (id : Nat) (o : Op) (g : Gang) m n u int fmt lin sat rm clear stride dest seed xs, InFlight s id o g → o.cls = 4 →
    o.kind = .drain false m n u int fmt false lin sat rm clear stride dest seed → o.captured = some xs → o.status = 0 →
    firstAperture o.kind.runs = none → firstStray g.hdr o.kind.runs = none →
    let e := drainSize fmt
    exec (.drainCompletion id) s = .next ((s.localSet o.gang g.hdr ((drainElems m n lin stride e xs).flatMap fun p =>
      (toBytes e (drainValue int fmt sat (drainRm rm seed) p.2)).zipIdx.map fun b => ((dest.toNat + p.1 + b.2) % 2 ^ 64, b.1))).over
        id o (.engine 0))) ∧
  (∀ (s : State) (id : Nat) (o : Op) (g : Gang) m n u int fmt lin sat rm clear stride dest seed xs, InFlight s id o g → o.cls = 4 →
    o.kind = .drain true m n u int fmt false lin sat rm clear stride dest seed → o.captured = some xs → o.status = 0 →
    firstAperture o.kind.runs = none → firstStray g.hdr o.kind.runs = none →
    (∀ y ∈ o.kind.operandUnits, localPoison s o.gang g.hdr (y - 2 ^ 64) 16 = false) →
    let e := drainSize fmt
    exec (.drainCompletion id) s = .next ((s.localSet o.gang g.hdr ((drainElems m n lin stride e xs).flatMap fun p =>
      (toBytes e (drainSum int fmt sat (drainRm rm seed) (ofBytes (readLocal s o.gang g.hdr (dest.toNat + p.1) e)) p.2)).zipIdx.map
        fun b => ((dest.toNat + p.1 + b.2) % 2 ^ 64, b.1))).over id o (.engine 0))) ∧
  (∀ (s : State) (id : Nat) (o : Op) (g : Gang) m n u int fmt lin sat rm clear stride dest seed xs w, InFlight s id o g → o.cls = 4 →
    o.kind = .drain false m n u int fmt true lin sat rm clear stride dest seed → o.captured = some xs → o.status = 0 →
    firstAperture o.kind.runs = none →
    let e := drainSize fmt
    stageWrites s id o (gatherUnits ((drainElems m n lin stride e xs).flatMap fun p =>
      (toBytes e (drainValue int fmt sat (drainRm rm seed) p.2)).zipIdx.map fun b => ((dest.toNat + p.1 + b.2) % 2 ^ 64, b.1))) = w →
    w.pending = false → w.bad = [] → exec (.drainCompletion id) s = .next ((commitWrites o w).over id o (.engine 0))) ∧
  (∀ (s : State) (id : Nat) (o : Op) (g : Gang) m n u int fmt lin sat rm clear stride dest seed xs r, InFlight s id o g → o.cls = 4 →
    o.kind = .drain true m n u int fmt true lin sat rm clear stride dest seed → o.captured = some xs → o.status = 0 →
    firstAperture o.kind.runs = none →
    let t : CellFmt := if int then .s32 else .float .f32
    stageCells s id o t (bySector ((drainElems m n true stride 48 xs).map fun p => ((dest.toNat + p.1) % 2 ^ 64, p.2.toNat))) = r →
    r.pending = false → r.bad = [] → exec (.drainCompletion id) s = .next ((commitCells o t r.state r.here).over id o (.engine 0)))

/-- R102, R233, R235, R266: a trace whose rays have all ended without a failing unit writes one hit record for each ray, in lane order, and
completes with the greatest of their statuses; with APPEND each hit is appended to its list, in lane order, as one step with the
records, and the statuses are those that the appends give. What peers write of it has been answered, while the trace had the way there
to itself. One whose list context lies in the aperture completes with its status alone. -/
def Sys2Proof.Clause.TraceCompletes : Prop :=
  (∀ (s t t1 t2 : State) (id : Nat) (o o1 o2 : Op) (g : Gang) rays root table count first cull ctx (ends : List RayEnd) (w : Writes),
    InFlight s id o g → o.kind = .trace rays root table count first false cull ctx → o.status = 0 →
    runRays s { id, table := table.toNat, count := count.toNat, first, cull } root.toNat rays = (t, ends.map some) →
    InFlight t id o1 g → o1.kind = o.kind → ends.length = rays.length → (∀ r ∈ ends, r.bad = none) →
    let us := gatherUnits ((rays.zip ends).flatMap fun x =>
      (hitRecord x.2.status x.2.best).zipIdx.map fun b => ((x.1.2.2.toNat + b.2) % 2 ^ 64, b.1))
    takeWay t id (tracePeers t none us) = (t1, true) →
    restate t1 id o1 (ends.map fun r => BitVec.ofNat 32 r.status) = some (t2, o2) →
    stageWrites t2 id o2 us = w → w.pending = false → w.bad = [] →
      exec (.traceCompletion id) s = .next ((commitWrites o1 w).over id o1 (.engine (greatest (ends.map (·.status)))))) ∧
  (∀ (s t t1 t2 : State) (id : Nat) (o o1 o2 : Op) (g : Gang) rays root table count first cull ctx (c : ListCtx) (ends : List RayEnd)
      (w : Writes), InFlight s id o g → o.kind = .trace rays root table count first true cull ctx → o.status = 0 → listCtx ctx = some c →
    runRays s { id, table := table.toNat, count := count.toNat, first, cull } root.toNat rays = (t, ends.map some) →
    InFlight t id o1 g → o1.kind = o.kind → ends.length = rays.length → (∀ r ∈ ends, r.bad = none) →
    let rs := (rays.map (·.1)).zip ends
    (appendAll id o1 t (some (c, ctx)) rs).aperture = none →
    takeWay t id (tracePeers t (some (c, ctx)) (hitUnits rays rs (ends.map (·.status)))) = (t1, true) →
    let a := appendAll id o1 t1 (some (c, ctx)) rs
    a.pending = false → restate t1 id o1 (a.sts.map (BitVec.ofNat 32)) = some (t2, o2) →
    stageWrites t2 id o2 (hitUnits rays rs a.sts) = w → w.pending = false → w.bad = [] →
    let b := appendAll id o2 w.state (some (c, ctx)) rs
    b.bad = [] → exec (.traceCompletion id) s = .next
      ((commitWrites o1 { w with state := noteOpStray b.s o1 b.stray }).over id o1 (.engine (greatest b.sts)))) ∧
  (∀ (s : State) (id : Nat) (o : Op) (g : Gang) rays root table count first append cull ctx, InFlight s id o g →
    o.kind = .trace rays root table count first append cull ctx → o.status = 14 → o.bar = none →
    ∃ t, exec (.traceCompletion id) s = .next t ∧ get? t.ops id = none ∧ t.gangs = s.gangs)

/-- R376: rank 0 decides: when every member has issued the same collective and done its reads, the commit closes their issues and
advances the handle's count. R204: a deadline that passes first sends a cancellation to rank 0, and 2,097,152 clk later an undecided
collective ends. (The layout of the messages, and that a cancellation carries its status in the unit index, are the model's choice,
DESIGN CHOICE, log 19.) -/
def Sys2Proof.Clause.CollectiveEvents : Prop :=
  (∀ (s : State) (handle : Nat) (devs : List Nat) (k : CollKey) id o m rest, rootGroup s handle = some devs →
    verdict s handle devs = some (.commit k) → openColls s handle = (id, o, m) :: rest → k.handle = handle →
    ∃ t, exec (.collectiveDecision handle) s = .next t ∧
      (collGroup t handle).count = ((collGroup s handle).count + 1) % 2 ^ 32 ∧ (collGroup t handle).made = some (k.epoch, k.count + 1) ∧
      t.collIssues = ((List.range devs.length).filterMap (oldestIssue s handle)).foldl (fun xs x => xs.erase x) s.collIssues) ∧
  (∀ (s : State) (id : Nat) (o : Op) (m : Member), get? s.ops id = some o → o.kind.member = some m → o.decided = none →
    o.expired = none → reached s o.tag m.deadline = true →
    let late : State := { s with ops := upd s.ops id fun o => { o with expired := some s.clk, sent := true } }
    (m.rank ≠ 0 → exec (.collectiveDeadline id) s = .next (sendColl late (m.devs.getD 0 0) 3 m.key m.rank 1 [])) ∧
    (m.rank = 0 → s.collIssues = [] → (collGroup s m.key.handle).made = none →
      exec (.collectiveDeadline id) s = .next { late with collIssues := [{ m.key.issue 0 with cancel := some 1 }] })) ∧
  (∀ (s : State) (id t : Nat) (o : Op) (m : Member), get? s.ops id = some o → o.kind.member = some m → o.decided = none →
    o.expired = some t → t + 2097152 ≤ s.clk → (∀ p ∈ s.ops, p.1 < id → ¬(p.2.wave = o.wave ∧ p.2.fibre = o.fibre ∧ p.2.cls = o.cls)) →
    ∃ s', exec (.collectiveDecisionTimeout id) s = .next s' ∧ get? s'.ops id = none)

end

namespace Sys2Proof.Machine

/-- A queue whose entry at HEAD is to be read (R332). -/
structure QueueReads (s : State) (q : Nat) : Prop where
  live    : s.live = true
  enabled : s.qmEnable = true
  state   : (queueOf s q).state = 1 ∨ (queueOf s q).state = 2
  entry   : (queueOf s q).head ≠ (queueOf s q).tail
  within  : ((queueOf s q).tail - (queueOf s q).head).toNat ≤ 2 ^ (queueOf s q).size
  ofQueue : (s.launches.filter fun p => p.2.queue == q).length < 64
  all     : s.launches.length < 4096
/-- The ring entry at HEAD has been read: 16 bytes with their kind, reserved word and address (R331). -/
def entryRead (s : State) (q : Nat) (t : State) (cmd rsv addr : Nat) : Prop :=
  let x := queueOf s q
  ∃ bs, readRange s none ((x.ring.toNat + 16 * (x.head.toNat % 2 ^ x.size)) % 2 ^ 64) 16 0 = (t, .ok bs) ∧
    numAt bs 0 4 = cmd ∧ numAt bs 4 4 = rsv ∧ numAt bs 8 8 = addr
/-- A queue in error (R337). -/
def Queue.failed (x : Queue) (err : Nat) (idx : Word) (addr : Quad) (atEnable : Bool) : Queue :=
  { x with state := 4, err := err, errIdx := idx, errAddr := addr, atEnable := atEnable }
/-- `QM_QCMD` holds a command that has been accepted (R329). -/
def State.atQueue (s : State) (q : BitVec 10) (op : Nat) : State := { s with qcmd := BitVec.ofNat 32 (q.toNat + 2 ^ 12 * op) }
/-- A live fibre that has been parked since a clk, or has waited since it in `monw` or `gbar` (R336). -/
def Fibre.idleFrom (f : Fibre) (n : Nat) : Prop :=
  (f.state = .parked ∧ f.parkedAt = n) ∨ ((f.state = .waiting ∨ f.state = .stalled) ∧ ∃ w, f.wait = some w ∧ w.since = n ∧
    ((∃ a b c d e, w.kind = .monw a b c d e) ∨ ∃ a b, w.kind = .gbar a b))

end Sys2Proof.Machine

section

open Sys2Proof Sys2Proof.Machine

/-- R329, R332, R337: enabling a queue, or clearing an error of its enable, reads and checks its table entry, its counters at 0;
disabling it, clearing another error, a doorbell and `QM_CTL` ENABLE do what R332 says, and each has no effect in a state that it
does not fit; a command while another is carried out is ignored. -/
def Obligations.QueueCommands : Prop :=
  (∀ (s t : State) (q : BitVec 10) (i : Instr) (op : Nat), s.live = true → qmBusy s = false →
    (i = .queueEnable q ∧ op = 1 ∧ (queueOf s q.toNat).state = 0) ∨
      (i = .queueClearError q ∧ op = 3 ∧ (queueOf s q.toNat).state = 4 ∧ (queueOf s q.toNat).atEnable = true) →
    let a := s.qtBase.toNat + 64 * q.toNat
    (∀ row level ro u, readRange (s.atQueue q op) none a 64 0 = (t, .fail row level ro u) → ∃ t', exec i s = .next t' ∧
      queueOf t' q.toNat = ({} : Queue).failed 3 0 (BitVec.ofNat 64 a) true ∧ t'.qmIntStat = s.qmIntStat ||| 1) ∧
    (∀ bs, readRange (s.atQueue q op) none a 64 0 = (t, .ok bs) →
      let cfg := numAt bs 8 4
      let good := 4 ≤ cfg % 32 ∧ cfg % 32 ≤ 16 ∧ cfg / 2 ^ 16 % 256 ≠ 0 ∧ numAt bs 0 8 % 16 = 0 ∧ cfg / 2 ^ 14 % 2 = 0 ∧
        cfg / 2 ^ 24 % 256 = 0 ∧ numAt bs 12 4 = 0 ∧ numAt bs 40 24 = 0
      let new : Queue :=
        { state := 1, ring := BitVec.ofNat 64 (numAt bs 0 8), size := cfg % 32, owner := some (cfg / 2 ^ 5 % 64)
          pmax := cfg / 2 ^ 11 % 8, irq := cfg / 2 ^ 15 % 2 == 1, weight := cfg / 2 ^ 16 % 256 }
      (good → (get? s.contexts (cfg / 2 ^ 5 % 64)).isSome → ∃ t', exec i s = .next t' ∧ queueOf t' q.toNat = new) ∧
      (good → get? s.contexts (cfg / 2 ^ 5 % 64) = none → ∃ t', exec i s = .next t' ∧
        queueOf t' q.toNat = new.failed 9 0 0 true ∧ t'.qmIntStat = s.qmIntStat ||| 1) ∧
      (¬good → ∃ t', exec i s = .next t' ∧ queueOf t' q.toNat = new.failed 4 0 0 true ∧ t'.qmIntStat = s.qmIntStat ||| 1))) ∧
  (∀ (s : State) (q : BitVec 10), s.live = true → qmBusy s = false → let x := queueOf s q.toNat
    (x.state ≠ 0 → exec (.queueEnable q) s = .next (s.atQueue q 1) ∧
      ∃ t, exec (.queueDisable q) s = .next t ∧ queueOf t q.toNat = { x with state := 0, err := 0 } ∧ t.launches = s.launches) ∧
    (x.state = 0 → exec (.queueDisable q) s = .next (s.atQueue q 2)) ∧
    (x.state = 4 → x.atEnable = false → (x.tail - (x.errIdx + 1)).toNat ≤ 2 ^ x.size →
      ∃ t, exec (.queueClearError q) s = .next t ∧ queueOf t q.toNat = { x with state := 1, err := 0, head := x.errIdx + 1 }) ∧
    (x.state ≠ 4 → exec (.queueClearError q) s = .next (s.atQueue q 3))) ∧
  (∀ (s : State) (q : BitVec 10), s.live = false ∨ qmBusy s = true →
    ∀ i ∈ [Instr.queueEnable q, .queueDisable q, .queueClearError q], exec i s = .next s) ∧
  (∀ (s : State) (q : BitVec 10) (tail : Word), s.live = true → let x := queueOf s q.toNat
    ((x.state ≠ 1 ∧ x.state ≠ 2) ∨ s.qmEnable = false ∨ (tail - x.head).toNat ≤ 2 ^ x.size →
      exec (.qmDoorbell q tail) s = .next { s with queues := put s.queues q.toNat { x with tail } }) ∧
    ((x.state = 1 ∨ x.state = 2) → s.qmEnable = true → 2 ^ x.size < (tail - x.head).toNat →
      ∃ t, exec (.qmDoorbell q tail) s = .next t ∧ queueOf t q.toNat = ({ x with tail } : Queue).failed 2 x.head 0 false)) ∧
  (∀ (s : State), s.live = true → exec (.qmEnable false) s = .next { s with qmEnable := false } ∧
    ((∀ q ∈ s.queues.map (·.1), ((queueOf s q).tail - (queueOf s q).head).toNat ≤ 2 ^ (queueOf s q).size) →
      exec (.qmEnable true) s = .next { s with qmEnable := true }))

/-- R331, R337: a NOP entry is consumed with no effect; a FENCE entry is consumed and the queue waits at it while a launch of it is
not complete; an entry that is none of the three kinds puts the queue in error BADENTRY at that entry; a LAUNCH entry whose
descriptor and kernel object pass their checks is consumed and its launch accepted, and one that fails puts the queue in error. -/
def Obligations.RingEntries : Prop :=
  ∀ (s t : State) (q : BitVec 10) (cmd rsv addr : Nat), QueueReads s q.toNat → entryRead s q.toNat t cmd rsv addr →
    let x := queueOf s q.toNat
    let busy := ∃ l ∈ s.launches, l.2.queue = q.toNat
    (cmd = 0 → rsv = 0 → addr = 0 → ∃ t', exec (.nopEntry q) s = .next t' ∧ t'.launches = s.launches ∧
      (x.head + 1 = x.tail ∧ ¬busy → queueOf t' q.toNat = { x with head := x.head + 1, state := 1 }) ∧
      (¬(x.head + 1 = x.tail ∧ ¬busy) → queueOf t' q.toNat = { x with head := x.head + 1, state := 2 })) ∧
    (cmd = 2 → rsv = 0 → addr = 0 → ∃ t', exec (.fenceEntry q) s = .next t' ∧ t'.launches = s.launches ∧
      (busy → queueOf t' q.toNat = { x with head := x.head + 1, state := 3 }) ∧
      (¬busy → queueOf t' q.toNat = { x with head := x.head + 1, state := if x.head + 1 = x.tail then 1 else 2 })) ∧
    (2 < cmd ∨ rsv ≠ 0 ∨ (cmd ≠ 1 ∧ addr ≠ 0) → ∃ t', exec (.badentry q) s = .next t' ∧ t'.launches = s.launches ∧
      queueOf t' q.toNat = x.failed 1 x.head (BitVec.ofNat 64 addr) false ∧ t'.qmIntStat = s.qmIntStat ||| 1) ∧
    (cmd = 1 → rsv = 0 →
      (∀ t1 l, readLaunch t q.toNat x (BitVec.ofNat 64 addr) = (t1, .ok l) → ∃ t', exec (.launch q) s = .next t' ∧
        t'.launches = put s.launches t1.nextUid l ∧ queueOf t' q.toNat = { x with head := x.head + 1, state := 2 }) ∧
      (∀ t1 err, readLaunch t q.toNat x (BitVec.ofNat 64 addr) = (t1, .rejected err) → ∃ t', exec (.launch q) s = .next t' ∧
        t'.launches = s.launches ∧ queueOf t' q.toNat = x.failed err x.head (BitVec.ofNat 64 addr) false))

/-- R333, R334, R335, R336: a launch whose start time has come and whose dependences hold is ready and its next gang a candidate,
and what it does is later than every write before (R43, R99); a dependence word that has reached its value holds, and one that has not is watched, at a peer by a request to its owner; every
16,777,216 clk of waiting raises a ready launch's priority by a level; a candidate that has waited 1,048,576 clk reserves; and a
gang whose live fibres are all idle is swap-eligible 4,096 clk after the latest of them began to be. -/
def Obligations.LaunchProgress : Prop :=
  (∀ (s : State) (l : Nat) (x : Launch), get? s.launches l = some x →
    (x.ready = none → x.start.toNat ≤ s.calends.toNat → (∀ d ∈ x.deps, d.held = true) → exec (.launchReady l) s = .next
      { s with launches := upd s.launches l fun x =>
        { x with ready := some s.clk, logical := s.logical, agedAt := s.clk, candSince := some s.clk, reserving := none } }) ∧
    (x.ready.isSome → x.nextGang < x.gx * x.gy * x.gz → min 7 (x.prio + x.raised) < 7 → x.agedAt + 16777216 ≤ s.clk →
      exec (.priorityAging l) s = .next
        { s with launches := upd s.launches l fun x => { x with raised := x.raised + 1, agedAt := x.agedAt + 16777216 } }) ∧
    (∀ (second : Bool) (d : Dep) (t : State) (bs : List Byte), let k := if second then 1 else 0
      x.deps[k]? = some d → d.held = false → (∀ r ∈ s.requests, r.2.who ≠ .dependence l k) →
      let change (t : State) (f : Dep → Dep) : State := { t with launches := upd t.launches l fun y => { y with deps := modAt y.deps k f } }
      let m : Monitor := { addr := d.addr, wide := true, cond := 5, operand := BitVec.ofNat 64 d.value, who := .dependence l k }
      let holds (d : Dep) : Dep := { d with held := true, monitor := none }
      let polls := d.monitor = none ∧ (d.polled = 0 ∨ d.polled + 2048 ≤ s.clk)
      let here := (∀ p o, placeOf s d.addr.toNat ≠ .peer p o) ∧ readRange s (some x.tag) d.addr.toNat 8 rightRead = (t, .ok bs)
      (polls → here → d.value ≤ ofBytes bs → exec (.dependencePoll l second) s = .next (change t holds)) ∧
      (∀ n y v, d.monitor = some n → get? s.monitors n = some y → y.woken = some v → y.bad = false →
        exec (.dependencePoll l second) s = .next (change { s with monitors := del s.monitors n } holds)) ∧
      (∀ p o, polls → placeOf s d.addr.toNat = .peer p o → check s (some x.tag) d.addr.toNat rightRead true false true = (t, .peer p) →
        exec (.dependencePoll l second) s = .next (sendRequest t p (.dependence l k)
          { opc := 6, size := 8, addr := d.addr.toNat, sub := 13, imm := toBytes 8 d.value ++ toBytes 4 (2 ^ 31 + 2 * l + k) })) ∧
      (polls → here → ofBytes bs < d.value → tableUsed t (sliceOf d.addr.toNat) < 128 →
        exec (.dependencePoll l second) s = .next
          (change (t.watching m) fun d => { d with monitor := some t.nextUid, polled := max 1 s.clk })))) ∧
  (∀ (s : State) (l : Nat) (b : Bid), (bids s).find? (fun b => b.cand = .next l) = some b → b.rsv = none → b.since + 1048576 ≤ s.clk →
    exec (.reserving (.next l)) s = .next { s with launches := upd s.launches l fun x => { x with reserving := some s.clk } }) ∧
  (∀ (s : State) (g : Nat) (b : Bid), (bids s).find? (fun b => b.cand = .saved g) = some b → b.rsv = none → b.since + 1048576 ≤ s.clk →
    exec (.reserving (.saved g)) s = .next { s with gangs := upd s.gangs g fun x => { x with reserving := some s.clk } }) ∧
  (∀ (s : State) (g : Nat) (x : Gang) (n : Nat), get? s.gangs g = some x → x.state = .running → x.byDevice = false →
    (∃ p ∈ s.waves, p.2.gang = g ∧ ∃ f ∈ p.2.fibres, f.idleFrom n) →
    (∀ p ∈ s.waves, p.2.gang = g → ∀ f ∈ p.2.fibres, f.state ≠ .done → ∃ m ≤ n, f.idleFrom m) →
    n + 4096 ≤ s.clk → x.swapAt ≠ some (n + 4096) →
    exec (.swapEligible g) s = .next { s with gangs := upd s.gangs g fun x => { x with swapAt := some (n + 4096) } })


/-- R21, R334: the placer serves the candidates in their order; the first that fits, with none reserving and no room held, is placed in
a cluster where its granules and slots are free. R336: a candidate for which gangs have stopped is placed in their cluster before all
others as soon as it fits there. -/
def Sys2Proof.Clause.PlacementChoice : Prop :=
  ∀ (s : State) (first cl core : Nat) (pre post : List Bid) (b : Bid), bids s = pre ++ b :: post → (∀ x ∈ pre ++ b :: post, x.rsv = none) →
    (s.making = none → (∀ x ∈ pre, findPlace s x.hdr first = none) → findPlace s b.hdr first = some (cl, core) →
      placerAct s first = some (.place b cl core) ∧ cl < 64 ∧ core + b.hdr.members ≤ 4 ∧ accUsed s cl false + b.hdr.acc ≤ 16 ∧
      ∀ m < b.hdr.members,
        regsUsed s cl (core + m) false + regGranules b.hdr m ≤ 16 ∧ scratchUsed s cl (core + m) false + scratchGranules b.hdr ≤ 16 ∧
        regsUsed s cl (core + m) false + regGranules b.hdr m + (scratchUsed s cl (core + m) false + scratchGranules b.hdr) ≤ 22 ∧
        ∀ q < 4, (b.hdr.waves.getD m 0 + 3 - q) / 4 ≤ (freeSlots s cl (core + m) q).length) ∧
    (s.making = some (b.cand, cl) → (∀ x ∈ pre, x.cand ≠ b.cand) → coreFor s b.hdr cl = some core →
      placerAct s first = some (.place b cl core))

/-- R20, R28, R50, R129, R334, R340: the next gang of a launch placed: the gang runs with the launch's next index and, on each of its cores,
the dictionary words that its kernel object and its context's handler hold at that moment, and every wave of every member is there with its registers zero, every fibre at its entry point with the arguments in `s0` to `s7`, `m0` all ones and its window at
the start of its range, fibre 0 holding the slot. -/
def Sys2Proof.Clause.PlacedGangState : Prop :=
  ∀ (s e d : State) (first cl core l : Nat) (b : Bid) (x : Launch) (c : Context) (bs hs : List Byte), let s1 := placerReady s
    placerAct s1 first = some (.place b cl core) → b.cand = .next l → get? s1.launches l = some x → 0 < x.hdr.members →
    let words (h : Header) (bs : List Byte) : List Word := (List.range h.dict.length).map fun k =>
      BitVec.ofNat 32 (2 ^ 16 * numAt bs (4 * k) 2 + numAt bs (4 * k + 2) 2)
    readRange s1 (some x.tag) (x.hdr.addr.toNat + x.hdr.doff) (4 * x.hdr.dict.length) rightRead = (e, .ok bs) →
    get? e.contexts x.tag = some c →
    readRange e none (c.handler.addr.toNat + c.handler.doff) (4 * c.handler.dict.length) 0 = (d, .ok hs) →
    inTheWay d b.hdr cl core none = [] →
    ∃ t, exec (.gangPlacement first) s = .next t ∧
      (get? t.launches l).map (fun y => (y.nextGang, y.raised)) = some (x.nextGang + 1, 0) ∧
      (∃ dicts, get? t.gangs d.nextUid = some
          { launch := l, tag := x.tag, index := x.nextGang, cluster := cl, core, placed := s.clk, hdr := x.hdr, dicts } ∧
        ∀ m < x.hdr.members, get? dicts (4 * cl + core + m) = some (words x.hdr bs, words c.handler hs)) ∧
      ∀ m < x.hdr.members, ∀ i < x.hdr.waves.getD m 0, ∃ w v, get? t.waves w = some v ∧ v.gang = d.nextUid ∧ v.member = m ∧ v.index = i ∧
        v.created = s.calends ∧ v.alloc = List.replicate x.hdr.regs (List.replicate 32 0) ∧ v.seq = 0 ∧ v.pending = [] ∧
        v.fibres.length = x.hdr.fibres ∧ (0 < x.hdr.fibres → v.holder = some 0) ∧
        ∀ k f, v.fibres[k]? = some f →
          f.pcs = List.replicate 32
            (x.hdr.addr + BitVec.ofNat 64 (x.hdr.coff + 2 * x.hdr.entry.getD (4 * x.hdr.stages.getD m 0 + k) 0)) ∧
          f.s = ((List.range 8).map fun j => x.args.getD j 0) ++ List.replicate 56 0 ∧
          f.m = BitVec.allOnes 32 :: List.replicate 7 0 ∧ f.wbase = (x.hdr.win.getD k (0, 0)).1 ∧ f.time = x.logical ∧
          f.exited = 0 ∧ f.sup = 0 ∧ f.wait = none ∧ f.scout = none ∧ f.state = if k = 0 then .holding else .ready

/-- R41, R46, R304, R308, R336, R356: a gang that must make room stops and has a save slot, and its cluster is held for the candidate
for which it stops; its stop ends in SAVED when its fibres stand at
boundaries and owe nothing; a bank of its image, with the first of them what is in no bank, is written and its granule is free; a gang that has been asked to halt halts with every live
fibre; and a device halt asks every running gang. -/
def Obligations.GangStops : Prop :=
  (∀ (s : State) (first g : Nat) (x : Gang) (a : Quad) (waiting : Bool), let s1 := placerReady s
    placerAct s1 first = some (.stop [g] waiting) → get? s1.gangs g = some x → x.state = .running → x.slot = none → slotFor s1 x = some a →
    ∃ t y, exec (.gangPlacement first) s = .next t ∧ get? t.gangs g = some y ∧ y.state = .stopping ∧ y.slot = some a ∧
      y.waitSwapped = waiting ∧ t.waves = s1.waves ∧
      t.making = ((oldestReserving (bids s1)).or (bids s1).head?).map fun b => (b.cand, x.cluster)) ∧
  (∀ (s : State) (g : Nat) (x : Gang), (s.waves.map (·.1)).Nodup → get? s.gangs g = some x → x.state = .stopping →
    x.tag < 64 → x.wasHalted = false →
    (∀ p ∈ s.waves, p.2.gang = g → p.2.pending = [] ∧ ∀ f ∈ p.2.fibres, f.scout = none ∧ f.unfinished = false ∧ f.stopReq = false) →
    (∀ p ∈ s.ops, p.2.gang = g → p.2.cls = 3) →
    exec (.stopComplete g) s = .next { s with gangs := upd s.gangs g fun x => { x with
      state := .saved, savedAt := s.clk, savedTime := s.calends, reserving := none, swapAt := none, written := false
      eligible := if x.waitSwapped then none else some s.clk } }) ∧
  (∀ (s t : State) (g : Nat) (b : Bank) (x : Gang) (a : Quad) u, get? s.gangs g = some x → x.state = .saved → b ∈ gangBanks x.hdr →
    b ∉ x.away → x.slot = some a → gangPoison s g x = [] →
    writeAll s ((bankParts x.hdr b ++ if x.written then [] else controlParts x.hdr).map fun p =>
      (a.toNat + p.1, ((gangImage s g x).drop p.1).take p.2)) = (t, .ok u) →
    exec (.saveBankWrite (g, b)) s = .next { t with gangs := upd t.gangs g fun y => { y with away := y.away ++ [b], written := true } }) ∧
  (∀ (s : State) (g : Nat) (x : Gang), get? s.gangs g = some x → x.state = .running →
    (x.byDevice = true ∨ ∃ p ∈ s.waves, p.2.gang = g ∧ ∃ f ∈ p.2.fibres, f.state = .halted ∨ f.stopReq = true) →
    (∀ p ∈ s.waves, p.2.fibres.length ≤ 4 ∧ (p.2.gang = g → ∀ f ∈ p.2.fibres, f.unfinished = false)) →
    ∃ t, exec (.gangHaltComplete g) s = .next t ∧ (get? t.gangs g).map (·.state) = some .halted ∧
      ∀ p ∈ t.waves, p.2.gang = g → ∀ f ∈ p.2.fibres, f.state = .halted ∨ f.state = .done) ∧
  (∀ (s : State),
    (s.haltAll = false → (∀ p ∈ s.gangs, asksHalt s p.1 p.2 = false) → exec (.deviceHalt true) s = .next { s with
      haltAll := true
      gangs := s.gangs.map fun p => (p.1, if p.2.state = .running then { p.2 with byDevice := true } else p.2) }) ∧
    (s.haltAll = true → (∀ p ∈ s.gangs, p.2.byDevice = false) → (∀ p ∈ s.ops, p.2.cls ≠ 3) →
      exec (.deviceHalt false) s = .next { s with haltAll := false }) ∧
    (s.haltAll = true → exec (.deviceHalt true) s = .next s) ∧ (s.haltAll = false → exec (.deviceHalt false) s = .next s))

end

namespace Sys2Proof.Machine

/-- A command of `CX_CMD` as it begins: TAG and OP are recorded (R339). -/
def State.commanded (s : State) (t : BitVec 6) (op : BitVec 4) : State := { s with cxTag := t, cxOp := op }
/-- The driver may give a command: the die is live and `CX_CMD` BUSY is 0 (R339). -/
structure Commandable (s : State) : Prop where
  live : s.live = true
  free : cxBusy s = false
/-- The gang that ARG0 and ARG1 name in a context (R341). -/
def named (s : State) (t : BitVec 6) (op : BitVec 4) (g : Nat) (x : Gang) : Prop :=
  (get? s.contexts t.toNat).isSome ∧ namedGang (s.commanded t op) t.toNat = some (g, x) ∧ get? s.gangs g = some x

end Sys2Proof.Machine

section

open Sys2Proof Sys2Proof.Machine

/-- R339, R341: a command given while BUSY is 1 is ignored; on a tag that is not installed every command but INSTALL ends with
RESULT 1 (the model's reading, DEDUCED, log 55); INSTALL on an installed tag ends with RESULT 2, and one whose descriptor, handler and rights table pass their checks
installs the context as they give it (R340). -/
def Sys2Proof.Clause.ContextInstallation : Prop :=
  (∀ (s : State) (t : BitVec 6), cxBusy s = true →
    ∀ i ∈ [Instr.install t, .update t, .ctxEnd t, .rightsinv t, .replay t, .replayall t, .stop t, .dbgsave t, .dbgload t, .suspend t,
      .resume t, .resumegang t], exec i s = .next s) ∧
  (∀ (s : State) (t : BitVec 6), Commandable s → get? s.contexts t.toNat = none →
    ∀ i ∈ [(Instr.update t, (2 : BitVec 4)), (.ctxEnd t, 3), (.rightsinv t, 4), (.replay t, 5), (.replayall t, 6), (.stop t, 7),
      (.dbgsave t, 8), (.dbgload t, 9), (.suspend t, 10), (.resume t, 11), (.resumegang t, 12)],
      exec i.1 s = .next { s.commanded t i.2 with cxResult := 1 }) ∧
  (∀ (s : State) (t : BitVec 6), Commandable s → (get? s.contexts t.toNat).isSome →
    exec (.install t) s = .next { s.commanded t 1 with cxResult := 2 }) ∧
  (∀ (s s1 s2 s3 : State) (t : BitVec 6) (bs : List Byte) (h : Header) (rs : List Right) (bad : Bool), Commandable s →
    get? s.contexts t.toNat = none → (∀ r ∈ s.held ++ s.posting, r.2.tag ≠ t.toNat) →
    readKeep (s.commanded t 1) none (s.cxBase.toNat + 192 * t.toNat) 192 0 = (s1, .ok bs) → contextFieldsOk s1 bs = true →
    loadHandler s1 (BitVec.ofNat 64 (numAt bs 0x18 8)) = (s2, .ok h) →
    loadRights s2 (BitVec.ofNat 64 (numAt bs 0 8)) (numAt bs 8 4) = (s3, some (rs, bad)) →
    ∃ t' c, exec (.install t) s = .next t' ∧ t'.cxResult = 0 ∧ get? t'.contexts t.toNat = some c ∧
      c.dbg = (numAt bs 0x0C 4 % 2 == 1) ∧ c.ides = numAt bs 0x10 8 ∧ c.handlerAddr = h.addr + BitVec.ofNat 64 (h.coff + 2 * h.entry.getD 0 0) ∧
      c.handler = h ∧ c.harvest = BitVec.ofNat 64 (numAt bs 0x20 8) ∧ c.vigil = BitVec.ofNat 64 (numAt bs 0x28 8) ∧
      c.pool = BitVec.ofNat 64 (numAt bs 0x30 8) ∧ c.poolPages = numAt bs 0x38 4 ∧ c.rights = rs ∧ c.malformed = bad ∧ c.time = 0 ∧
      c.suspended = false)

/-- R341, R342, R343: UPDATE reads FLAGS, IDES, HARVEST and VIGIL again; END removes the context, its gangs and its launches and
posts no record; RIGHTSINV reads the rights table again, with RESULT 0 on a malformed one too (the model's choice, log 20); SUSPEND stops its gangs and RESUME makes them candidates again. -/
def Sys2Proof.Clause.ContextCommandResults : Prop :=
  ∀ (s : State) (t : BitVec 6) (c : Context), Commandable s → get? s.contexts t.toNat = some c →
    (∀ (s1 : State) (bs : List Byte),
      readKeep (s.commanded t 2) none (s.cxBase.toNat + 192 * t.toNat) 192 0 = (s1, .ok bs) →
      (numAt bs 0x0C 4 < 2 ∧ numAt bs 0x10 8 ≠ 0 ∧ numAt bs 0x10 8 ≤ 2 ^ 62 ∧ numAt bs 0x3C 132 = 0 →
        exec (.update t) s = .next { endReads s1 false with
          cxResult := 0
          contexts := upd s1.contexts t.toNat fun c => { c with
            dbg := numAt bs 0x0C 4 % 2 == 1, ides := numAt bs 0x10 8
            harvest := BitVec.ofNat 64 (numAt bs 0x20 8), vigil := BitVec.ofNat 64 (numAt bs 0x28 8) } }) ∧
      (2 ≤ numAt bs 0x0C 4 → exec (.update t) s = .next { endReads s1 false with cxResult := 3 })) ∧
    (∃ s1, exec (.ctxEnd t) s = .next s1 ∧ s1.cxResult = 0 ∧ get? s1.contexts t.toNat = none ∧
      (∀ p ∈ s1.launches, p.2.tag ≠ t.toNat) ∧ (∀ p ∈ s1.gangs, p.2.tag ≠ t.toNat) ∧ s1.fbWr = s.fbWr ∧ s1.held = s.held ∧
      ∀ q x, get? s.queues q = some x → x.owner = some t.toNat → x.state ≠ 0 → (queueOf s1 q).state = 4 ∧ (queueOf s1 q).err = 10) ∧
    (∀ (s1 : State) (rs : List Right) (bad : Bool), loadRights (s.commanded t 4) c.rightsAt c.rcount = (s1, some (rs, bad)) →
      exec (.rightsinv t) s = .next { endReads s1 false with
        cxResult := 0, contexts := upd s1.contexts t.toNat fun c => { c with rights := rs, malformed := bad } }) ∧
    (∃ s1, exec (.suspend t) s = .next s1 ∧ s1.cxResult = 0 ∧ (get? s1.contexts t.toNat).map (·.suspended) = some true ∧
      ∀ g x, get? s.gangs g = some x → x.tag = t.toNat → (x.state = .running ∨ x.state = .halted) →
        (x.slot.isSome → (get? s1.gangs g).map (·.state) = some .stopping) ∧
        ∀ a, x.slot = none → slotFor s x = some a →
          (∀ p ∈ s.gangs, p.1 ≠ g → p.2.tag = t.toNat → p.2.state ≠ .running ∧ p.2.state ≠ .halted) →
          (get? s1.gangs g).map (fun y => (y.state, y.slot)) = some (.stopping, some a)) ∧
    exec (.resume t) s = .next { s.commanded t 11 with
      cxResult := 0, contexts := upd s.contexts t.toNat fun c => { c with suspended := false } }

/-- R353: REPLAY of a live token returns the parked fibre to its checkpoint, ready at its faulting instruction, and makes the token
stale; a token that names nothing of the context gives RESULT 1; REPLAYALL leaves no fibre of the context parked. -/
def Sys2Proof.Clause.ReplayResults : Prop :=
  ∀ (s : State) (t : BitVec 6) (c : Context), Commandable s → get? s.contexts t.toNat = some c →
    (∀ (w k : Nat) (v : Wave) (g : Gang) (f : Fibre) (cp : Checkpoint) (r : Record),
      (parkedOf (s.commanded t 5) t.toNat).find? (fun p => p.2.2 == s.cxArg0.toNat % 2 ^ 32) = some (w, k, r.token) →
      get? s.waves w = some v → get? s.gangs v.gang = some g → g.state = .running → v.fibres[k]? = some f → f.state = .parked →
      f.park = some (cp, r) → ∃ s1, exec (.replay t) s = .next s1 ∧ s1.cxResult = 0 ∧ r.token ∉ s1.tokens ∧
        let f1 := fibreAt s1 w k
        f1.park = none ∧ f1.pcs = cp.pcs ∧ f1.s = cp.s ∧ f1.m = cp.m ∧ f1.wbase = cp.wbase ∧ f1.exited = cp.exited ∧
        f1.state = .ready ∧ f1.retry = cp.again ∧ f1.cursor = cp.cursor ∧ f1.ages = cp.ages) ∧
    ((∀ p ∈ parkedOf (s.commanded t 5) t.toNat, p.2.2 ≠ s.cxArg0.toNat % 2 ^ 32) →
      (∀ l ∈ s.launches, l.2.heldStep = none) → exec (.replay t) s = .next { s.commanded t 5 with cxResult := 1 }) ∧
    (∃ s1, exec (.replayall t) s = .next s1 ∧ s1.cxResult = 0 ∧
      ∀ p ∈ parkedOf s t.toNat, (get? s.gangs (gangOf s p.1)).map (·.state) ≠ some .saved → (fibreAt s1 p.1 p.2.1).park = none)

/-- R304, R341, R356, R357: STOP asks a live fibre for a precise stop, and a gang that is SAVED is to come back HALTED; DBGSAVE
writes a halted gang's image, which holds no poison, to its slot, reserved now if it has none, and DBGLOAD takes it back; RESUMEGANG
lets a halted gang run; a wave or fibre that is not live gives RESULT 1. That STOP takes a SAVED gang, that DBGSAVE without a free slot
gives RESULT 2, and that DBGSAVE, DBGLOAD and RESUMEGANG do so on a gang in another state, is the model's reading (DEDUCED, log 55). -/
def Sys2Proof.Clause.DebuggerCommandResults : Prop :=
  ∀ (s : State) (t : BitVec 6) (g : Nat) (x : Gang),  Commandable s →
    (let s0 := s.commanded t 7
      let k := s.cxArg0.toNat / 2 ^ 39 % 4
      let asked (w : Nat) : List (Nat × Wave) :=
        upd s.waves w fun v => { v with fibres := modAt v.fibres k fun f => { f with stopReq := true } }
      named s t 7 g x →
        (namedWave s0 g = none → exec (.stop t) s = .next { s0 with cxResult := 1 }) ∧
        ∀ w, namedWave s0 g = some w →
          ((fibreAt s w k).state = .done → exec (.stop t) s = .next { s0 with cxResult := 1 }) ∧
          ((fibreAt s w k).state ≠ .done →
            (x.state = .running ∨ x.state = .stopping → exec (.stop t) s = .next { s0 with cxResult := 0, waves := asked w }) ∧
            (x.state = .saved → ∃ s1, exec (.stop t) s = .next s1 ∧ s1.cxResult = 0 ∧
              (get? s1.gangs g).map (fun y => (y.state, y.wasHalted)) = some (.saved, true)) ∧
            (x.state = .halted → ∃ s1, exec (.stop t) s = .next s1 ∧ s1.cxResult = 0 ∧
              (get? s1.gangs g).map (fun y => (y.state, y.byDevice)) = some (.halted, false)))) ∧
    (∀ a s1 u, named s t 8 g x → x.state = .halted →
      let s0 := s.commanded t 8
      let saves (s2 : State) (y : Gang) :=
        gangPoison s2 g y = [] ∧ writeAll s2 [(a.toNat, (gangImage s2 g y).take (slotBytes y.hdr))] = (s1, .ok u)
      (x.slot = some a ∧ saves s0 x) ∨
        (x.slot = none ∧ slotFor s0 x = some a ∧
          saves { s0 with gangs := upd s0.gangs g fun y => { y with slot := some a } } { x with slot := some a }) →
      exec (.dbgsave t) s = .next { s1 with
        cxResult := 0, cxArg0 := a, gangs := upd s1.gangs g fun y => { y with written := true } }) ∧
    (named s t 8 g x → x.state = .halted → x.slot = none → slotFor (s.commanded t 8) x = none →
      exec (.dbgsave t) s = .next { s.commanded t 8 with cxResult := 2 }) ∧
    (∀ a s1 bs, named s t 9 g x → x.state = .halted → x.slot = some a → x.written = true →
      let s0 := s.commanded t 9
      gangPoison s0 g x = [] → readSlot s0 a.toNat 0 (slotBytes x.hdr) = (s1, .ok { bytes := bs }) →
      exec (.dbgload t) s = .next { fromImage s1 g (overlay (gangImage s0 g x) 0 bs) [] with cxResult := 0 }) ∧
    (named s t 12 g x → x.state = .halted → s.haltAll = false →
      ∃ s1, exec (.resumegang t) s = .next s1 ∧ s1.cxResult = 0 ∧
        (get? s1.gangs g).map (fun y => (y.state, y.byDevice)) = some (.running, false)) ∧
    (x.state ≠ .halted → (named s t 8 g x → exec (.dbgsave t) s = .next { s.commanded t 8 with cxResult := 2 }) ∧
      (named s t 9 g x → exec (.dbgload t) s = .next { s.commanded t 9 with cxResult := 2 }) ∧
      (named s t 12 g x → exec (.resumegang t) s = .next { s.commanded t 12 with cxResult := 2 }))

/-- R347, R348: an invalidation of whole pages of this device's space leaves no kept translation and no clean copy of the range, and
drops its dirty sectors when the command says so; a range that is not in whole pages gives RESULT 1. The end of a migration clears the leaf's
migration bit once every line of its page has been pulled, if each of them can be; a number that names none gives RESULT 1. -/
def Obligations.TranslationCommands : Prop :=
  (∀ (s : State) (wb discard : Bool), s.live = true →
    let s1 : State := { s with trOp := 1, trWb := wb, trDiscard := discard }
    let n := s.trArg1.toNat
    (∀ o, s.trArg0.toNat % 49152 = 0 → n % 49152 = 0 → placeOf s s.trArg0.toNat = .own o →
      ∃ t, exec (.invalidateRange wb discard) s = .next t ∧ t.trResult = 0 ∧
        (∀ e ∈ t.tlb, ¬(e.va < o + n ∧ o < e.va + e.size)) ∧
        (wb = false → discard = true → ∀ p, p ∈ t.l2 ↔ p ∈ s.l2 ∧ ¬(secStart s p.1 < o + n ∧ o < secStart s p.1 + 48)) ∧
        (∀ p ∈ t.l1, ¬(secStart s p.1 < o + n ∧ o < secStart s p.1 + 48)) ∧
        (wb = false → t.dram = s.dram ∧ (discard = false → t.l2 = s.l2))) ∧
    (s.trArg0.toNat % 49152 = 0 → n % 49152 = 0 → (∀ o, placeOf s s.trArg0.toNat ≠ .own o) →
      exec (.invalidateRange wb discard) s = .next { s1 with trResult := 0 }) ∧
    (s.trArg0.toNat % 49152 ≠ 0 ∨ n % 49152 ≠ 0 → exec (.invalidateRange wb discard) s = .next { s1 with trResult := 1 })) ∧
  (∀ (s : State), s.live = true → let s1 : State := { s with trOp := 2 }
    (∀ pte e, s.trArg0.toNat < s.migCount → findMigration s1 s.trArg0.toNat = some (pte, e) → pullsBad s1 e = none →
      Memory.wf (pullAll s1 e).dram = true →
      let old := ofBytes ((pullAll s1 e).dram.readN pte 8)
      ∃ t, exec .completeMigration s = .next t ∧ t.trResult = 0 ∧ ofBytes (t.dram.readN pte 8) = old - 2 ^ 5 ∧
        ∀ x ∈ t.tlb, ¬(x.va < e.va + e.size ∧ e.va < x.va + x.size)) ∧
    (s.migCount ≤ s.trArg0.toNat → exec .completeMigration s = .next { s1 with trResult := 1 }))

end

namespace Sys2Proof.Machine

/-- The physical byte that an offset of the window reaches (R362). -/
def State.windowAt (s : State) (x : Nat) : Nat :=
  (if s.phyBase.toNat / 2 ^ 31 = 1 then lpBase else 0) + 49152 * (s.phyBase.toNat % 2 ^ 31 + x / 49152) + x % 49152
/-- Whether an offset of the window reaches a byte: below 48 GiB, in a frame that the tier has. -/
def State.inWindow (s : State) (x : Nat) : Prop :=
  x < 48 * 2 ^ 30 ∧ s.phyBase.toNat % 2 ^ 31 + x / 49152 < tierFrames (bitOf s.phyBase.toNat 31)
/-- The registers of 32 bits and of 64 bits that the host can write, beside doorbells, ports, routes, MB_DATA and the MSI-X table. -/
def written32 : List Nat :=
  [0x0, 0x10, 0x18, 0x1C, 0x20008, 0x20020, 0x20088, 0x20090, 0x20098, 0x200A0, 0x200A4, 0x30000, 0x30100, 0x30408, 0x30508, 0x3050C, 0x40000]
def written64 : List Nat :=
  [0x8, 0x20000, 0x20010, 0x20018, 0x20028, 0x20030, 0x20038, 0x20048, 0x20080, 0x30300, 0x30308, 0x30310, 0x30400, 0x30510, 0x40008]
/-- The state with some messages sent after those that have been. -/
def State.sent (s : State) (ms : List Message) : State := { s with outbox := s.outbox ++ ms }

end Sys2Proof.Machine

section

open Sys2Proof Sys2Proof.Machine

/-- R329, R339, R362, R367, R374, R377: an aligned write of a register's own width has the register's effect; QM_QTBASE, CX_BASE and
FB_BASE keep their values while what they locate is in use; a route or a port taken away from a device's last way makes it DOWN; an
enable that makes a vector's condition true sends its message; any other write of the host to BAR0 changes nothing. A context
that has ended is installed no more, though its last gang still stops (key 64 and above). That a new source of CAL_CTL clears LOCKED is
the model's choice (log 51), and so is what FB_CTL ENABLE does to the counters, to SIZE and to a stop (log 50). -/
def Sys2Proof.Clause.RegisterWriteResults : Prop :=
  (∀ (s : State) (v : Quad), s.live = true →
    exec (.registerWrite 0x0008 8 v) s = .next (if s.qmEnable then s else { s with qtBase := v }) ∧
    ((∀ p ∈ s.contexts, 64 ≤ p.1) → exec (.registerWrite 0x20000 8 v) s = .next { s with cxBase := v }) ∧
    ((∃ p ∈ s.contexts, p.1 < 64) → exec (.registerWrite 0x20000 8 v) s = .next s) ∧
    exec (.registerWrite 0x20010 8 v) s = .next { s with cxArg0 := v } ∧
    exec (.registerWrite 0x20018 8 v) s = .next { s with cxArg1 := v } ∧
    exec (.registerWrite 0x20028 8 v) s = .next { s with trArg0 := v } ∧
    exec (.registerWrite 0x20030 8 v) s = .next { s with trArg1 := v } ∧
    exec (.registerWrite 0x20038 8 v) s = .next { s with ptFrame := v.setWidth 32, ptLen := v.toNat / 2 ^ 32 % 2 ^ 20 } ∧
    exec (.registerWrite 0x20048 8 v) s = .next { s with migFrame := v.setWidth 32, migCount := v.toNat / 2 ^ 32 % 2 ^ 12 } ∧
    exec (.registerWrite 0x20080 8 v) s = .next (if s.fbEnable then s else { s with fbBase := v }) ∧
    exec (.registerWrite 0x20098 4 v) s = .next { s with fbOvf := 0 } ∧
    exec (.registerWrite 0x30000 4 v) s = .next { s with phyBase := v.setWidth 32 } ∧
    exec (.registerWrite 0x30310 8 v) s = .next { s with safeCount := 0 } ∧
    exec (.registerWrite 0x30400 8 v) s = .next { s with colBase := v } ∧
    exec (.registerWrite 0x30408 4 v) s = .next { s with colCount := v.toNat % 2 ^ 13 } ∧
    (s.calSrc ≠ 2 → -200000 ≤ (v.setWidth 32).toInt → (v.setWidth 32).toInt ≤ 200000 →
      exec (.registerWrite 0x3050C 4 v) s = .next { s with calRate := v.setWidth 32 }) ∧
    (∀ d < 128, let s1 : State := { s with routes := put s.routes d (v.setWidth 16) };
      ((∀ e ∈ s.reach, upPorts s1 e ≠ []) → exec (.registerWrite (0x31000 + 4 * d) 4 v) s = .next s1) ∧
      ∀ e ∈ s.reach, upPorts s1 e = [] → ∃ t, exec (.registerWrite (0x31000 + 4 * d) 4 v) s = .next t ∧ e ∉ t.reach) ∧
    (let s1 : State := { s with fabEnable := v.getLsbD 8, safe := v.getLsbD 9 };
      (s.fabEnable = true ∨ (∃ p ∈ s.contexts, p.1 < 64) → exec (.registerWrite 0x30100 4 v) s = .next s1) ∧
      (s.fabEnable = false → (∀ p ∈ s.contexts, 64 ≤ p.1) → ∃ t, exec (.registerWrite 0x30100 4 v) s = .next t ∧ t.devId = v.setWidth 7 ∧
        t.domain = (v >>> 16).setWidth 16 ∧ t.fabEnable = v.getLsbD 8 ∧ t.safe = v.getLsbD 9)) ∧
    (∀ p < 16,
      (v.getLsbD 1 = true → exec (.registerWrite (0x30200 + 4 * p) 4 v) s = .next
        { s with ports := modAt s.ports p fun x => { x with enable := true } }) ∧
      (v.getLsbD 1 = false → ∃ t, exec (.registerWrite (0x30200 + 4 * p) 4 v) s = .next t ∧ (portOf t p).enable = false ∧
        (portOf t p).up = false)) ∧
    (let src := if v.toNat % 4 = 3 then 0 else v.toNat % 4;
      exec (.registerWrite 0x30508 4 v) s = .next (if src = s.calSrc then s else { s with calSrc := src, calLocked := false, calGood := none })) ∧
    (∃ t, exec (.registerWrite 0x1C 4 v) s = .next t ∧ t.qmIntEn = v.setWidth 2 ∧ t.fxIntEn = s.fxIntEn ∧
      ∀ x, s.vectors[0]? = some x → x.cond = false → x.mask = false → s.qmIntStat &&& v.setWidth 2 ≠ 0 → .msix x.addr x.data ∈ t.outbox) ∧
    (∃ t, exec (.registerWrite 0x200A4 4 v) s = .next t ∧ t.fxIntEn = v.setWidth 4 ∧ t.qmIntEn = s.qmIntEn ∧
      ∀ x, s.vectors[1]? = some x → x.cond = false → x.mask = false → s.fxIntStat &&& v.setWidth 4 ≠ 0 → .msix x.addr x.data ∈ t.outbox) ∧
    (∀ off, off ∉ written32 → ¬(0x10000 ≤ off ∧ off < 0x12000 ∧ off % 8 = 0) → ¬(0x30200 ≤ off ∧ off < 0x30240) →
      ¬(0x31000 ≤ off ∧ off < 0x31200) → ¬(0x40100 ≤ off ∧ off < 0x41000) → ¬(0x80000 ≤ off ∧ off < 0x80020) →
      exec (.registerWrite off 4 v) s = .next s) ∧
    (∀ off, off ∉ written64 → ¬(0x80000 ≤ off ∧ off < 0x80020) → exec (.registerWrite off 8 v) s = .next s) ∧
    (∀ off n, n ≠ 4 → n ≠ 8 → exec (.registerWrite off n v) s = .next s) ∧
    (∀ off, off % 4 ≠ 0 → exec (.registerWrite off 4 v) s = .next s) ∧ (∀ off, off % 8 ≠ 0 → exec (.registerWrite off 8 v) s = .next s)) ∧
  (∀ (s : State) (v : Word), s.live = true →
    exec (.fbRd v) s = .next { s with fbRd := v } ∧
    exec (.fbEnable v) s = .next { s with
      fbEnable := v.getLsbD 31
      fbSize := if s.fbEnable then s.fbSize else v.toNat % 32
      fbWr := if v.getLsbD 31 && !s.fbEnable then 0 else s.fbWr
      fbRd := if v.getLsbD 31 && !s.fbEnable then 0 else s.fbRd
      fbStop := s.fbStop && !v.getLsbD 31 })

/-- R361: a bit of a status register is cleared by writing 1; while the vector's condition stays true its message is sent again, or
pends while the vector is masked. A vector that is unmasked while its message pends and its condition holds sends it. -/
def Sys2Proof.Clause.InterruptResults : Prop :=
  (∀ (s : State) (v : Word), s.live = true →
    let s1 : State := { s with fxIntStat := s.fxIntStat &&& ~~~(v.setWidth 4) }
    let s0 : State := { s with qmIntStat := s.qmIntStat &&& ~~~(v.setWidth 2) }
    (∃ t, exec (.interruptStatusClear true v) s = .next t ∧ t.fxIntStat = s1.fxIntStat ∧ t.qmIntStat = s.qmIntStat) ∧
    (∃ t, exec (.interruptStatusClear false v) s = .next t ∧ t.qmIntStat = s0.qmIntStat ∧ t.fxIntStat = s.fxIntStat) ∧
    (∀ x, s1.fxIntStat &&& s.fxIntEn ≠ 0 → s.vectors[1]? = some x → exec (.interruptStatusClear true v) s = .next
      (if x.mask then { s1 with vectors := modAt s.vectors 1 fun y => { y with pending := true } } else s1.sent [.msix x.addr x.data])) ∧
    (∀ x, s0.qmIntStat &&& s.qmIntEn ≠ 0 → s.vectors[0]? = some x → exec (.interruptStatusClear false v) s = .next
      (if x.mask then { s0 with vectors := modAt s.vectors 0 fun y => { y with pending := true } } else s0.sent [.msix x.addr x.data]))) ∧
  (∀ (s : State) (fx : Bool) (x : Vector), s.live = true → s.vectors[if fx then 1 else 0]? = some x →
    let cond := if fx then s.fxIntStat &&& s.fxIntEn ≠ 0 else s.qmIntStat &&& s.qmIntEn ≠ 0
    let s1 : State := { s with vectors := modAt s.vectors (if fx then 1 else 0) fun y => { y with mask := false, pending := false } }
    (x.mask = true ∧ x.pending = true ∧ cond → exec (.msixUnmask fx) s = .next (s1.sent [.msix x.addr x.data])) ∧
    (¬(x.mask = true ∧ x.pending = true ∧ cond) → exec (.msixUnmask fx) s = .next s1))

/-- R117, R360, R362: the host reads and writes physical memory through the window, beneath L2, and ends the tags of what it writes; beyond the window or the tier it reads all
ones and writes nothing; an atomic operation of the host is an Unsupported Request. That a host write ends the tags is the model's reading (DEDUCED,
log 44). -/
def Sys2Proof.Clause.HostWindowResults : Prop :=
  ∀ (s : State) (x : Nat), s.live = true → Memory.wf s.dram = true →
    (∀ n, ∃ bs, exec (.physicalWindowRead x n) s = .next (s.sent [.readData bs]) ∧ bs.length = n ∧
      ∀ i < n, (s.inWindow (x + i) → bs[i]? = some (s.dram.read (s.windowAt (x + i)))) ∧ (¬s.inWindow (x + i) → bs[i]? = some 0xFF)) ∧
    (∀ bs, ∃ t, exec (.physicalWindowWrite x bs) s = .next t ∧ t.l2 = s.l2 ∧
      (∀ c ∈ t.cells, ∀ i < bs.length, s.inWindow (x + i) → ¬(c ≤ s.windowAt (x + i) ∧ s.windowAt (x + i) < c + 48)) ∧
      (∀ i b, bs[i]? = some b → s.inWindow (x + i) → t.dram.read (s.windowAt (x + i)) = b) ∧
      ∀ p, (∀ i < bs.length, s.inWindow (x + i) → p ≠ s.windowAt (x + i)) → t.dram.read p = s.dram.read p) ∧
    ∀ bar, exec (.hostAtomicop bar x) s = .next (s.sent [.unsupported])

/-- R359, R364, R365: a line that the host snoops is given up, with its bytes when it is modified; an invalidation drops the
translations of its range, gives up the lines reached through them, and is answered once no line is asked for under them; the
host's answer to a question leaves the line held or the translation kept, and of an absent page the host is asked to make it present; and the link is up after it has trained. Translations of 4 KiB
and how an invalidation is answered are the model's choices (log 47). -/
def Sys2Proof.Clause.HostLineResults : Prop :=
  (∀ (s : State) (n : Nat) (h : HostLine), s.live = true → get? s.hostLines n = some h → s.monitors = [] →
    ∃ t, exec (.hostSnoop n) s = .next t ∧ get? t.hostLines n = none ∧ t.atc = s.atc ∧
      (h.modified = true → .hostWrite n h.bytes ∈ t.outbox)) ∧
  (∀ (s : State) (start bytes : Nat), s.live = true →
    let inside (a n : Nat) : Prop := a < start + bytes ∧ start < a + n
    ∃ t, exec (.atsInvalidation start bytes) s = .next t ∧ (∀ p, p ∈ t.atc ↔ p ∈ s.atc ∧ ¬inside (4096 * p.1) 4096) ∧
      (∀ h ∈ t.hostLines, ¬inside (192 * h.1) 192) ∧
      (∀ h ∈ s.hostLines, inside (192 * h.1) 192 → h.2.modified = true → .hostWrite h.1 h.2.bytes ∈ t.outbox) ∧
      (s.monitors = [] → (∀ p ∈ s.hostAsks, ∀ n, p.2.1 = .line n → p.2.2 = none → ¬inside (192 * n) 192) → .atsDone start bytes ∈ t.outbox)) ∧
  (∀ (s : State) (req : Nat), s.live = true → Quiet s → s.monitors = [] →
    let rest := s.hostAsks.filter fun p => p.1 != req
    (∀ n bs, s.atsWaits = [] → (s.hostAsks.find? fun p => p.1 = req ∧ p.2.2 = none) = some (req, .line n, none) →
      exec (.hostRequestCompletion req (.line bs)) s = .next { s with
        hostAsks := rest, hostLines := put s.hostLines n { bytes := bs.take 192 ++ List.replicate (192 - bs.length) 0 } }) ∧
    (∀ page w a b, (s.hostAsks.find? fun p => p.1 = req ∧ p.2.2 = none) = some (req, .translate page w, none) →
      exec (.hostRequestCompletion req (.writable a b)) s = .next { s with hostAsks := rest, atc := put s.atc page b }) ∧
    (∀ page w, (s.hostAsks.find? fun p => p.1 = req ∧ p.2.2 = none) = some (req, .translate page w, none) →
      (∀ p ∈ s.hostAsks, p.2.1 ≠ .pageRequest page w) →
      ∃ t, exec (.hostRequestCompletion req .absent) s = .next t ∧ .hostAsk s.nextUid (.pageRequest page w) ∈ t.outbox)) ∧
  (∀ (s : State), exec .hostLinkUp s = .next { s with linkUp := true })

end

namespace Sys2Proof.Machine

/-- A flit that the link layer of an UP port accepts: whole, of an assigned type, next in sequence when it is sequenced, and of this
device's domain (R369). -/
structure Accepted' (s : State) (p : Nat) (f : Flit) : Prop where
  live   : s.live = true
  up     : (portOf s p).up = true
  whole  : flitWhole f = true
  type   : flitType f ≤ 9
  next   : sequenced (flitType f) = true → flitSeq f = expectedSeq (portOf s p)
  domain : flitDomain f = s.domain.toNat
/-- The state in which a flit has been accepted and its acknowledgement taken. -/
def State.accepting (s : State) (p : Nat) (f : Flit) : State :=
  acknowledgeUpTo (if sequenced (flitType f) then
      { s with ports := modAt s.ports p fun x => { x with lastIn := some (flitSeq f), retrying := false } }
    else s) p (flitAck f)
/-- Flits accepted together that are for this device, the first of a type, the others its data by SRCDEV and TAG; `t` is what the
link layer leaves. -/
structure Taken (s : State) (p : Nat) (f : Flit) (us : List Flit) (ty : Nat) (t : State) : Prop where
  first  : (linkIn s p f).2 = true
  linked : linkAll (linkIn s p f).1 p us = (t, us)
  type   : flitType f = ty
  here   : flitDst f = s.devId.toNat ∨ flitDst f = 0xFF
  data   : ∀ u ∈ us, flitType u = 3 ∧ flitSrc u = flitSrc f ∧ flitDst u = flitDst f ∧ numAt (flitBody u) 0 2 = numAt (flitBody f) 2 2
/-- A request of a peer that has come whole, its credits given back (R371). -/
structure Requested (s : State) (p : Nat) (f : Flit) (us : List Flit) (opc : Nat) (t : State) : Prop where
  taken   : ∃ t0, Taken s p f us 1 t0 ∧
    t = sendLocal t0 p 4 (toBytes 2 1 ++ toBytes 2 (unitsFrom us).length ++ toBytes 1 t0.devId.toNat)
  enabled : t.fabEnable = true
  opc     : reqOpc f = opc
  enough  : unitsBrought f ≤ (unitsFrom us).length
/-- A request answered, unless it asks for no answer (R370). -/
def State.replies (s : State) (f : Flit) (r : Served) : State :=
  if reqNoResp f then s else respond s (flitSrc f) (reqOpc f) (reqTag f) (reqAddr f) r

end Sys2Proof.Machine

section

open Sys2Proof Sys2Proof.Machine

/-- R369: the link layer accepts a flit that is whole, of an assigned type, next in sequence and of this domain; a bad CRC
asks for a retry each time, a gap once until a flit is accepted again, and a flit that has been received already is no gap; a foreign domain or an
unassigned type is counted, a sequenced flit of a foreign domain in its place of the sequence; none of these is acted on. An IDLE
carries an acknowledgement; a RETRY sends the unacknowledged flits again; a CREDIT gives credits back. -/
def Sys2Proof.Clause.LinkLayerResults : Prop :=
  (∀ (s : State) (p : Nat) (f : Flit), Accepted' s p f → linkIn s p f = (s.accepting p f, true)) ∧
  (∀ (s : State) (p : Nat) (f : Flit), Accepted' s p f → flitType f = 0 → exec (.idle p f) s = .next (s.accepting p f)) ∧
  (∀ (s : State) (p : Nat) (f : Flit), s.live = true → (portOf s p).up = true →
    let gap := (expectedSeq (portOf s p) + 4096 - flitSeq f) % 4096
    let asks : State := sendLocal { s with ports := modAt s.ports p fun x => { x with retrying := true } } p 5
      (toBytes 2 (expectedSeq (portOf s p)))
    let counted : State := { s with ports := modAt s.ports p fun x => { x with errs := min (x.errs + 1) 65535 } }
    (flitWhole f = false → exec (.flitDrop p f) s = .next asks) ∧
    (flitWhole f = true → flitType f ≤ 9 → sequenced (flitType f) = true → flitSeq f ≠ expectedSeq (portOf s p) →
      ((portOf s p).retrying = false → 1024 < gap → exec (.flitDrop p f) s = .next asks) ∧
      ((portOf s p).retrying = true ∨ gap ≤ 1024 → exec (.flitDrop p f) s = .next s)) ∧
    (flitWhole f = true → flitType f ≤ 9 → sequenced (flitType f) = false → flitDomain f ≠ s.domain.toNat →
      exec (.flitDrop p f) s = .next counted) ∧
    (flitWhole f = true → flitType f ≤ 9 → sequenced (flitType f) = true → flitSeq f = expectedSeq (portOf s p) →
      flitDomain f ≠ s.domain.toNat → exec (.flitDrop p f) s = .next (sendLocal { s with
        ports := modAt s.ports p fun x => { x with lastIn := some (flitSeq f), retrying := false, errs := min (x.errs + 1) 65535 } } p 0 [])) ∧
    (flitWhole f = true → 9 < flitType f → exec (.flitDrop p f) s = .next counted)) ∧
  (∀ (s : State) (p : Nat) (f : Flit), Accepted' s p f → flitType f = 4 → Quiet (s.accepting p f) → s.unsent = [] →
    let t := s.accepting p f
    let b := flitBody f
    let c := creditsOf t p (numAt b 4 1)
    exec (.credit p f) s = .next { t with
      credits := (t.credits.filter fun x => !(x.1 = p && x.2.1 = numAt b 4 1)) ++ [(p, numAt b 4 1, c.1 + numAt b 0 2, c.2 + numAt b 2 2)] }) ∧
  (∀ (s : State) (p : Nat) (f : Flit) (old again : List SentFlit), Accepted' s p f → flitType f = 5 →
    let t := s.accepting p f
    (portOf t p).unacked = old ++ again → (∀ x ∈ old, x.seq ≠ numAt (flitBody f) 0 2 % 4096) →
    (again.head?.map (·.seq)) = some (numAt (flitBody f) 0 2 % 4096) → (∀ x ∈ again, x.resent < 16) →
    exec (.retry p f) s = .next { t with
      ports := modAt t.ports p fun x => { x with
        unacked := again.map fun y => { y with resent := y.resent + 1 }, errs := min (x.errs + again.length) 65535 }
      outbox := t.outbox ++ again.map fun y => .flit p y.flit })

/-- R370, R371: what a peer's request does at its home slice: a READ returns the bytes, a WRITE stores them, an ATOMIC, a CONTRIB, a
CELLMERGE and a SLICEOP each change their word, cell or object as one access, a MONARM returns the word and takes an entry while its
comparison is false, a MONCANCEL removes the peer's entry, and a UNITOP performs a list operation whole. Each is answered, but for one
with NORESP (the model's choice, log 11). What the SUB bits of a READ mean, the raw image and the checks of a write, is the model's
choice (log 25), and so is the SLICEOP with SUB 3 that writes back what the host shares for a fence or a launch of a peer (log 64). -/
def Obligations.PeerRequests : Prop :=
  ∀ (s s1 t : State) (p n : Nat) (f : Flit) (us : List Flit), reqSize f = some n → let a := reqAddr f
    let bs := dataOf (unitsFrom us)
    (sizeFits s1 a n = true →
      (Requested s p f [] 1 s1 → bitOf (reqSub f) 2 = false → serveCheck s1 a n true (bitOf (reqSub f) 1) = (t, none) →
        exec (.read p f) s = .next ((leaseLines t a n).replies f
          (.done [] (if n < 48 ∧ bitOf (reqSub f) 0 = false then readGlobal t a n else rawBytes t a n)))) ∧
      (Requested s p f [] 1 s1 → bitOf (reqSub f) 2 = true → serveCheck s1 a n false true = (t, none) →
        exec (.read p f) s = .next (t.replies f (.done [] (List.replicate n 0)))) ∧
      (Requested s p f us 2 s1 → serveCheck s1 a n false true = (t, none) →
        exec (.write p f us) s = .next
          ((if n < 48 then writeGlobal t a (padTo n bs) peerWriter
            else (List.range (n / 48)).foldl (fun t k => writeGlobal t (a + 48 * k) (padTo 48 (bs.drop (48 * k))) peerWriter) t).replies f
            (.done [] []))) ∧
      (Requested s p f [] 3 s1 → reqSub f < 9 → serveCheck s1 a 4 true false = (t, none) → serveCheck t a 4 true true = (t, none) →
        let old := ofBytes (readGlobal t a 4)
        let b := numAt (reqImm f) 0 8 % 2 ^ 32
        let nv := numAt (reqImm f) 8 8 % 2 ^ 32
        ∀ new, atomNew (reqSub f) 32 old b nv = some new →
        exec (.atomic p f) s = .next ((writeGlobal t a (toBytes 4 new) peerWriter).replies f (.done (toBytes 8 old) []))) ∧
      (∀ c, Requested s p f [] 4 s1 → cellFmtOf (reqSub f) = some c → serveCheck s1 a 48 true true = (t, none) →
        exec (.contrib p f) s = .next
          ((putCell t a ((Cell.read (rawSector t a)).add (c.value (numAt (reqImm f) 0 8))) peerWriter).replies f (.done [] []))) ∧
      (Requested s p f us 5 s1 → serveCheck s1 a 48 true true = (t, none) →
        exec (.cellmerge p f us) s = .next
          ((putCell t a ((Cell.read (rawSector t a)).merge (Cell.read (padTo 48 bs))) peerWriter).replies f (.done [] []))) ∧
      (Requested s p f [] 6 s1 → serveCheck s1 a n true false = (t, none) →
        let v := ofBytes (readGlobal t a n)
        let wide := bitOf (reqSub f) 3
        let m : Monitor := { addr := BitVec.ofNat 64 a, wide, cond := BitVec.ofNat 3 (reqSub f)
                             operand := BitVec.ofNat 64 (numAt (reqImm f) 0 (if wide then 8 else 4))
                             who := .peer p (flitSrc f) (reqTag f) (numAt (reqImm f) 8 4) }
        (monTrue m.cond v m.operand.toNat = true →
          exec (.monarm p f) s = .next (t.replies f (.done (toBytes 8 v ++ [0]) []))) ∧
        (monTrue m.cond v m.operand.toNat = false → tableUsed t (sliceOf m.addr.toNat) < 128 →
          exec (.monarm p f) s = .next ((t.watching m).replies f (.done (toBytes 8 v ++ [1]) [])))) ∧
      (Requested s p f [] 8 s1 → reqSub f = 3 → fenceWriteBack s1 = (t, none) →
        exec (.sliceop p f) s = .next (t.replies f (.done [] []))) ∧
      (Requested s p f [] 8 s1 → a % 16 = 0 → serveCheck s1 a 16 true true = (t, none) →
        let b := gridAt t a
        (reqSub f = 0 → exec (.sliceop p f) s = .next
          ((writeGlobal t a ((Barrier.read (readGlobal t a 16)).apply (sliceEvent (reqImm f))).bytes peerWriter).replies f (.done [] []))) ∧
        (reqSub f = 1 → exec (.sliceop p f) s = .next
          ((putGrid t a b.arrive peerWriter).replies f (.done (toBytes 4 b.gen ++ toBytes 4 b.arrive.gen) []))) ∧
        (reqSub f = 2 → exec (.sliceop p f) s = .next
          ((putGrid t a (b.withdraw (numAt (reqImm f) 8 4)) peerWriter).replies f (.done (toBytes 4 b.gen ++ toBytes 4 b.gen) []))))) ∧
    (Requested s p f [] 7 s1 → exec (.moncancel p f) s = .next (State.replies { s1 with
      monitors := s1.monitors.filter fun m => match m.2.who with
        | .peer _ d _ num => !(d == flitSrc f && num == numAt (reqImm f) 8 4)
        | _ => true } f (.done [] []))) ∧
    (∀ c x y, Requested s p f us 9 s1 → listCtx (wordsOf 5 (reqImm f)) = some c → c.imm = true → 1 ≤ reqSub f → reqSub f ≤ 4 →
      listPerform { tag := none, gang := 0, hdr := headerOf s1 0, who := peerWriter } c (reqSub f) s1
        (wordsOf (listBlocks (reqSub f)).1 bs) = .ok (x, y) →
      exec (.unitop p f us) s = .next (x.s.replies f (.done [] (padTo 48 ((listWords (reqSub f) y).flatMap fun w => toBytes 4 w.toNat)))))

/-- R370, R371, R372: the answers of peers, each of the operation that its request asked for. A refused request waits and leaves again after 64 clk; a status that ends a write reaches
the operation that sent it; the data of a read reach the operation that reads; and a request that has no answer after 2,097,152 clk
makes its device DOWN. -/
def Obligations.PeerAnswers : Prop :=
  (∀ (s t : State) (p id : Nat) (f : Flit) (r : Request), Taken s p f [] 2 t →
    t.requests.find? (fun r => r.2.dev = flitSrc f && r.2.tag = numAt (flitBody f) 2 2) = some (id, r) →
    numAt (flitBody f) 0 1 = r.opc → (r.opc = 6 → heldDev t (flitSrc f) = false) →
    (numAt (flitBody f) 1 1 = 0xFF → r.who ≠ .cancelled → exec (.rsp p f) s = .next
      (acknowledge s { t with requests := put t.requests id { r with nacked := some t.clk } } p)) ∧
    (∀ op key, numAt (flitBody f) 1 1 ≠ 0xFF → r.opc = 2 → r.who = .engineWrite op key → exec (.rsp p f) s = .next
      (acknowledge s { t with
        requests := del t.requests id
        ops := upd t.ops op fun o => { o with remote := o.remote ++
          [{ key, status := numAt (flitBody f) 1 1, attr := numAt (flitBody f) 4 1, value := padTo 36 ((flitBody f).drop 16) }] } } p))) ∧
  (∀ (s t : State) (p id op u : Nat) (f : Flit) (r : Request), Taken s p f [] 3 t → inboundFor t p f = none →
    t.requests.find? (fun r => r.2.dev = flitSrc f && r.2.tag = numAt (flitBody f) 0 2) = some (id, r) →
    r.opc = 1 → r.size = 16 → r.status = some (0, 0) → r.units = [] → r.who = .engine op u → numAt (flitBody f) 2 2 = 0 →
    exec (.data p f) s = .next (acknowledge s { t with
      requests := del t.requests id
      ops := upd t.ops op fun o => { o with reads := o.reads ++
        [{ unit := u, status := 0, bytes := ((flitBody f).drop 4).take 16 }] } } p)) ∧
  (∀ (s : State) (id n : Nat) (r : Request), get? s.requests id = some r →
    (r.nacked = some n → n + 64 ≤ s.clk → exec (.nackResend id) s = .next
      (sendRouted { s with requests := put s.requests id { r with nacked := none } } r.dev (reqAddr (r.flits.headD [])) r.flits)) ∧
    (r.sentAt + 2097152 ≤ s.clk → (∀ w k, r.who ≠ .monitor w k ∧ r.who ≠ .dependence w k ∧ r.who ≠ .cancelled) ∨ r.status = none →
      ∃ t, exec (.requestTimeout id) s = .next t ∧ r.dev ∉ t.reach))

/-- R367, R369, R371, R372: a DOWN notice, a write of 0 to a reach bit and the loss of a device's last port make it DOWN; a write of 1
sends a PROBE, an answer to it makes the device reachable and 65,536 clk without one end it; a PROBE is answered; a port that has
trained is UP and grants credits. (That the sequence starts at 0 and that the grants are those of Config are the model's choices, DESIGN
CHOICE, log 11.) -/
def Sys2Proof.Clause.ReachabilityResults : Prop :=
  (∀ (s t : State) (p : Nat) (f : Flit), Taken s p f [] 6 t → ∃ t', exec (.down p f) s = .next t' ∧ flitSrc f ∉ t'.reach) ∧
  (∀ (s : State) (d : BitVec 7), (d ≠ s.devId → ∃ t, exec (.markDown d) s = .next t ∧ d.toNat ∉ t.reach) ∧
    exec (.markDown s.devId) s = .next s) ∧
  (∀ (s : State) (d : BitVec 7),
    (d ≠ s.devId → d.toNat ∉ s.reach → get? s.probes d.toNat = none → exec (.rejoin d) s = .next
      (sendRouted { s with probes := put s.probes d.toNat s.clk } d.toNat 0 [ownFlit s 7 d.toNat []])) ∧
    (d = s.devId ∨ d.toNat ∈ s.reach → exec (.rejoin d) s = .next s) ∧
    (∀ c, get? s.probes d.toNat = some c → c + 65536 ≤ s.clk →
      exec (.probeTimeout d) s = .next { s with probes := del s.probes d.toNat })) ∧
  (∀ (s t : State) (p : Nat) (f : Flit), Taken s p f [] 7 t → exec (.probe p f) s = .next
    (acknowledge s (sendRouted t (flitSrc f) 0 [ownFlit t 8 (flitSrc f) []]) p)) ∧
  (∀ (s t : State) (p : Nat) (f : Flit), Taken s p f [] 8 t → (get? t.probes (flitSrc f)).isSome →
    ∃ t', exec (.probeans p f) s = .next t' ∧ flitSrc f ∈ t'.reach ∧ get? t'.probes (flitSrc f) = none) ∧
  (∀ (s : State) (p : Nat), (portOf s p).up = true →
    ∃ t, exec (.portDown p) s = .next t ∧ (portOf t p).up = false ∧ ∀ d ∈ s.reach, upPorts t d = [] → d ∉ t.reach) ∧
  (∀ (s : State) (p : Nat) (peer : BitVec 7), s.live = true → (portOf s p).enable = true → (portOf s p).up = false →
    exec (.portUp p peer) s = .next (sendLocal { s with
      ports := modAt s.ports p fun x => { x with up := true, peer, nextSeq := 0, lastIn := none, unacked := [], queued := [], retrying := false }
      credits := s.credits.filter fun c => c.1 != p } p 4
        (toBytes 2 Config.requestGrant.toNat ++ toBytes 2 Config.dataGrant.toNat ++ toBytes 1 s.devId.toNat)))

/-- R203, R204, R370, R375: the messages of collectives. At rank 0 a member's data, its completed reads and its cancellation are
entered in the record of its issue; at a member the commit and the cancellation of rank 0 decide its oldest collective of the
handle, and advance the handle's count. (That a cancellation carries its status in the unit index of the message, and that of rank 0 has
rank 0, is the model's choice, DESIGN CHOICE, log 19.) -/
def Sys2Proof.Clause.CollectiveMessageResults : Prop :=
  (∀ (s t : State) (p : Nat) (f : Flit) (us : List Flit), Taken s p f us 9 t → memberFor t f = none → t.collIssues = [] →
    (rootGroup t (collKeyOf f).handle).isSome → (collGroup t (collKeyOf f).handle).made = none →
    let k := collKeyOf f
    let issue := k.issue (collRank f)
    (numAt (flitBody f) 0 1 = 0 → collUnits f ≤ (unitsFrom us).length → ∃ t', exec (.collContributionData p f us) s = .next t' ∧
      t'.collIssues = [{ issue with units := (indexed (unitsFrom us) (collUnit f)).foldl (fun x u => put x u.1 u.2) [] }]) ∧
    (numAt (flitBody f) 0 1 = 1 → us = [] → ∃ t', exec (.collReadsDone p f) s = .next t' ∧ t'.collIssues = [{ issue with ready := true }]) ∧
    (numAt (flitBody f) 0 1 = 3 → us = [] → collRank f ≠ 0 → collRank f ≠ 255 →
      ∃ t', exec (.collCancel p f) s = .next t' ∧ t'.collIssues = [{ issue with cancel := some (collUnit f) }])) ∧
  (∀ (s t : State) (p id : Nat) (f : Flit) (o : Op) (m : Member), Taken s p f [] 9 t → memberFor t f = some (id, o, m) →
    numAt (flitBody f) 0 1 = 2 →
    ∃ t', exec (.collCommit p f []) s = .next t' ∧
      (collGroup t' (collKeyOf f).handle).count = ((collGroup t (collKeyOf f).handle).count + 1) % 2 ^ 32) ∧
  (∀ (s t : State) (p id : Nat) (f : Flit) (o : Op) (m : Member), Taken s p f [] 9 t → memberFor t f = some (id, o, m) →
    numAt (flitBody f) 0 1 = 3 →
    ∃ t', exec (.collCancel p f) s = .next t' ∧
      (collGroup t' (collKeyOf f).handle).count = ((collGroup t (collKeyOf f).handle).count + 1) % 2 ^ 32)

end

namespace Sys2Proof.Machine

/-- The state after the command of the host that stood first: it waits no more, `MB_RESULT` is written, the controller as the command
leaves it. -/
def State.served (s : State) (result : Byte) (f : Mgc → Mgc) : State :=
  { s with mgc := { f { s.mgc with jobs := s.mgc.jobs.drop 1 } with result := result } }
/-- The events that carry out the commands of R382, by operation. -/
def mailboxRows : List (Nat × Instr) :=
  [(1, .sensors), (2, .log), (3, .fwstage), (4, .fwcommit), (5, .fwconfirm), (6, .attest), (7, .setcap), (8, .idcert), (9, .timecfg)]
/-- `MB_DATA` with some bytes written from its start, 3,840 bytes in all (R381). -/
def filled (buf bs : List Byte) : List Byte :=
  let old := buf.take 3840 ++ List.replicate (3840 - buf.length) 0
  bs.take 3840 ++ old.drop (bs.take 3840).length
/-- A control message on the management bus, answered under its instance and code (R383). -/
def State.controls (s : State) (f : BusFrom) (b code : Byte) (data : List Byte) : State :=
  sendMessage s f 0 ([BitVec.ofNat 8 (b.toNat % 32), code] ++ data)
/-- The events that a packet of the management bus can be. -/
def IsBusRow (p : List Byte) (i : Instr) : Prop :=
  i = .getEndpointId p ∨ i = .getMessageTypeSupport p ∨ (∃ x y, p = x ++ y ∧
    (i = .vendorDefinedMessage x y ∨ i = .getMctpVersionSupport x y ∨ i = .getVendorDefinedMessageSupport x y)) ∨
  ∃ x y z, p = x ++ y ++ z ∧ i = .setEndpointId x y z
/-- The module with everything at its reset value but what a reset of the module leaves: flash, fuses, log, the pins, what the outside
world still brings, the model's own counters, and, while power stays, the device's identity with its source of time and rate
(R366, R385, R388). -/
def State.isReset (t s : State) (powered : Bool) : Prop :=
  t = { State.reset with
    outbox := t.outbox, fresh := t.fresh, nextUid := t.nextUid, agenda := s.agenda.filter Turn.outside, planned := s.planned
    clk := if powered then s.clk else 0, linkUp := t.linkUp, mgc := t.mgc
    devId := if powered then s.devId else 0, domain := if powered then s.domain else 0
    calSrc := if powered then s.calSrc else 0, calLocked := powered && s.calLocked
    calGood := if powered then s.calGood else none, calRate := if powered then s.calRate else 0
    pwren := s.pwren, pgood := s.pgood, mrstN := s.mrstN, power := s.power, live := t.live } ∧
  t.mgc.slotA = s.mgc.slotA ∧ t.mgc.slotB = s.mgc.slotB ∧ t.mgc.fuses = s.mgc.fuses ∧ t.mgc.selected = s.mgc.selected ∧
  t.mgc.committed = s.mgc.committed ∧ t.mgc.result = 0 ∧ t.mgc.cap = 1500 ∧ t.mgc.throttle = 0 ∧ t.mgc.eid = 0 ∧ t.mgc.jobs = [] ∧
  t.mgc.owner = none ∧ t.mgc.timecfg = none

end Sys2Proof.Machine

section

open Sys2Proof Sys2Proof.Machine

/-- R377 to R380: a step of the Calends moves it forward, and one that would make it decrease is ignored; an offset measured from the
source is kept, and beyond the bound of its source it ends LOCKED; LOCKED becomes 1 when the offsets have stayed within the bound for
16 seconds of clk. On the time input, a Sync of the master is kept for its Follow_Up, the Follow_Up sends a Delay_Req, and the
Delay_Resp to it gives the offset, half of the two ways' sum being the delay. (Layouts of IEEE 1588, log 43; the rate that follows is
a free value within the limits of R377. That a step past 2 ^ 64 - 1 is ignored is the model's choice, log 51, and that a measurement with
no bound in force changes nothing its reading, DEDUCED, log 61.) -/
def Obligations.Calends : Prop :=
  ∀ (s : State), s.live = true →
    (∀ ns : Quad, exec (.calStep ns) s = .next (if s.calends.toNat + ns.toNat < 2 ^ 64 then { s with calends := s.calends + ns } else s)) ∧
    (∀ (off : Quad), s.calSrc = 1 →
      (off.toInt.natAbs ≤ 1000 → exec (.ptmResponse off) s = .next { s with calOffset := off, calGood := some (s.calGood.getD s.clk) }) ∧
      (1000 < off.toInt.natAbs → exec (.ptmResponse off) s = .next { s with calOffset := off, calGood := none, calLocked := false })) ∧
    (∀ (x y : List Byte), s.calSrc ≠ 2 ∨ s.mgc.timecfg = none → exec (.ptpEventMessage x y) s = .next s) ∧
    (∀ (c f x y : List Byte), f = x ++ y → s.calSrc = 2 → s.mgc.timecfg = some c → 18 ≤ c.length →
      (unframe c f = none → exec (.ptpEventMessage x y) s = .next s) ∧
      (∀ m, unframe c f = some m → ptpOk c m = false → exec (.ptpEventMessage x y) s = .next s) ∧
      (∀ m, unframe c f = some m → ptpOk c m = true →
        let p := s.mgc.ptp
        (ptpType m = 0xB → 64 ≤ m.length → p.master = [] → ∃ t, exec (.ptpEventMessage x y) s = .next t ∧
          t.mgc.ptp.master = ptpPort m ∧ t.mgc.ptp.rank = ptpRank m ∧ t.mgc.ptp.heard = s.clk ∧ t.calOffset = s.calOffset) ∧
        (p.master ≠ [] → ptpPort m = p.master →
          (ptpType m = 0 → bitOf (numAt m 6 1) 1 = true → exec (.ptpEventMessage x y) s = .next
            { s with mgc := { s.mgc with ptp := { p with sync := some (ptpSeq m, s.calends, ptpCorrection m) } } }) ∧
          (∀ came k, ptpType m = 8 → p.sync = some (ptpSeq m, came, k) → ∃ t d, exec (.ptpEventMessage x y) s = .next t ∧
            t.mgc.ptp.sync = none ∧ t.mgc.ptp.origin = some (BitVec.ofInt 64 (ptpTime m 34 + ptpCorrection m + k), came) ∧
            t.mgc.ptp.request = some (p.nextSeq, s.calends) ∧ t.outbox = s.outbox ++ [.lane (reframe c d)] ∧
            ptpType d = 1 ∧ ptpSeq d = p.nextSeq % 65536 ∧ d.length = 44) ∧
          (∀ t1 t2 t3, ptpType m = 9 → 54 ≤ m.length → p.origin = some (t1, t2) → p.request = some (ptpSeq m, t3) →
            (m.drop 44).take 10 = ownPort c → ∃ t, exec (.ptpEventMessage x y) s = .next t ∧
            let there := t2.toInt - t1.toInt
            let back := ptpTime m 34 - ptpCorrection m - t3.toInt
            let off := BitVec.ofInt 64 (there - (there + back) / 2)
            t.calOffset = off ∧ -200000 ≤ t.calRate.toInt ∧ t.calRate.toInt ≤ 200000 ∧ t.mgc.ptp.origin = none ∧
            (off.toInt.natAbs ≤ 100 → t.calGood = some (s.calGood.getD s.clk) ∧ t.calLocked = s.calLocked) ∧
            (100 < off.toInt.natAbs → t.calGood = none ∧ t.calLocked = false))))) ∧
    (∀ t, s.calLocked = false → s.calSrc = 1 → s.calGood = some t → t + 16800000000 ≤ s.clk →
      exec .locked s = .next { s with calLocked := true })

/-- R381, R382, R384, R385, R387, R389 to R391: a command that the host writes to `MB_CMD` waits with the operand that `MB_ARG` holds, and
is ignored while one of the host's waits; while an image runs, a command is carried out when it stands first. (The result codes while no
image runs and of an image whose header is invalid, the limit of TIMECFG's VLAN and the length that IDCERT stores are the model's, log 53;
the digest over the whole image is its choice, log 54.) -/
def Sys2Proof.Clause.MailboxResults : Prop :=
  (∀ (s : State) (v : Quad), s.live = true →
    (s.mgc.jobs = [] → exec (.registerWrite 0x40000 4 v) s = .next { s with mgc := { s.mgc with
      cmd := BitVec.ofNat 8 (v.toNat % 256), jobs := [{ op := v.toNat % 256, arg := s.mgc.arg, at_ := s.clk }] } }) ∧
    ((∃ j ∈ s.mgc.jobs, j.bus = none) → exec (.registerWrite 0x40000 4 v) s = .next s)) ∧
  (∀ (s : State), ∀ e ∈ mailboxRows, (∀ j, s.mgc.jobs.head? = some j → j.op ≠ e.1) ∨ s.power = false ∨ s.mrstN = false →
    exec e.2 s = .next s) ∧
  (∀ (s : State) (j : Job) (rest : List Job), s.power = true → s.mrstN = true → s.mgc.jobs = j :: rest → j.bus = none → j.data = [] →
    s.mgc.running = none → ∀ e ∈ mailboxRows, j.op = e.1 → exec e.2 s = .next (s.served 1 id)) ∧
  ∀ (s : State) (j : Job) (rest : List Job), s.power = true → s.mrstN = true → s.mgc.running.isSome → s.mgc.jobs = j :: rest →
    j.bus = none → j.data = [] →
    let m := s.mgc
    let active := m.running.getD m.selected
    let inactive := !active
    (j.op = 1 → exec .sensors s = .next (s.served 0 fun m =>
      { m with buf := filled m.buf (m.sample.take 0x98 ++ List.replicate (0x98 - m.sample.length) 0) })) ∧
    (j.op = 2 → exec .log s = .next (s.served 0 fun m =>
      { m with buf := filled m.buf (((m.log.filter fun r => decide (j.arg.toNat ≤ r.seq)).take 32).flatMap LogRecord.bytes) })) ∧
    (j.op = 3 → m.owner = none ∨ m.owner = some 0 → j.arg.toNat % 4 = 0 → j.arg.toNat < slotSize →
      ∃ t, exec .fwstage s = .next t ∧ t.mgc.result = 0 ∧ t.mgc.owner = some 0 ∧ t.mgc.jobs = rest ∧
        t.mgc.slot active = m.slot active ∧
        ∀ i < 3072, j.arg.toNat + i < slotSize → (t.mgc.slot inactive)[j.arg.toNat + i]? = some (m.buf.getD i 0)) ∧
    (m.owner = some 1 →
      (j.op = 3 → exec .fwstage s = .next (s.served 2 id)) ∧ (j.op = 4 → exec .fwcommit s = .next (s.served 2 id)) ∧
      (j.op = 5 → exec .fwconfirm s = .next (s.served 2 id))) ∧
    (j.op = 4 → (∀ p, m.owner = some p → p = 0) →
      (imageSigned (m.slot inactive) = true → m.fuses ≤ imageSvn (m.slot inactive) → exec .fwcommit s = .next
        (s.served 0 fun m => { m with owner := none, selected := inactive, committed := some inactive })) ∧
      (imageSigned (m.slot inactive) = false → exec .fwcommit s = .next (s.served 4 fun m => { m with owner := none })) ∧
      (imageSigned (m.slot inactive) = true → imageSvn (m.slot inactive) < m.fuses →
        exec .fwcommit s = .next (s.served 5 fun m => { m with owner := none }))) ∧
    (∀ b, j.op = 5 → m.owner = none → m.running = some b → m.committed = some b → exec .fwconfirm s = .next
      (s.served 0 fun m => { m with fuses := max m.fuses (imageSvn (m.slot b)) })) ∧
    (j.op = 6 → ∃ t, exec .attest s = .next t ∧ t.mgc.result = 0 ∧ t.mgc.buf.length = 3840 ∧ t.mgc.jobs = rest ∧
      t.mgc.buf.take 48 = m.buf.take 48 ++ List.replicate (48 - m.buf.length) 0 ∧
      (t.mgc.buf.drop 48).take 48 = sha384 ((m.slot active).take (imageLen (m.slot active))) ∧
      (t.mgc.buf.drop 0x70).take 8 = toBytes 8 s.calends.toNat) ∧
    (j.op = 7 → 300 ≤ j.arg.toNat → j.arg.toNat ≤ 1500 → ∃ t, exec .setcap s = .next t ∧ t.mgc.cap = j.arg.toNat ∧
      t.mgc.result = 0 ∧ t.mgc.jobs = rest ∧ t.mgc.log.getLast?.map (·.code) = some 7) ∧
    (j.op = 7 → j.arg.toNat < 300 ∨ 1500 < j.arg.toNat → exec .setcap s = .next (s.served 3 id)) ∧
    (j.op = 8 → exec .idcert s = .next
      (s.served 0 fun m => { m with buf := filled m.buf (toBytes 4 Config.certificate.length ++ Config.certificate) })) ∧
    (j.op = 9 → let bs := m.buf.take 64 ++ List.replicate (64 - m.buf.length) 0
     (numAt bs 0 1 ≤ 1 → numAt bs 2 2 ≤ 4094 → numAt bs 18 46 = 0 →
       exec .timecfg s = .next (s.served 0 fun m => { m with timecfg := some bs, ptp := {} })) ∧
     (1 < numAt bs 0 1 ∨ 4094 < numAt bs 2 2 ∨ numAt bs 18 46 ≠ 0 → exec .timecfg s = .next (s.served 3 id)))

/-- R384, R386: a sample keeps its readings, and the power against the cap moves the throttle level by one, between 0 and 15; at 95 °C
the level is at least 8. R385: corrected errors are counted by source and logged at most once a second. R383: the management bus
takes packets whose address and check are right, puts messages together, answers control messages, and carries mailbox commands, each
answered when it has been carried out. (Packet layouts of DSP0236 and DSP0237, log 42.) -/
def Sys2Proof.Clause.ManagementResults : Prop :=
  (∀ (s : State) (x : Sample), s.power = true → s.mgc.running.isSome →
    let t := s.mgc.throttle
    let p := (x.readings.getD 68 0).toNat
    let t1 := if s.mgc.cap * 1000 < p then min 15 (t + 1) else if 100 * p < 95 * (s.mgc.cap * 1000) then t - 1 else t
    let temp (k : Nat) : Int := signed 16 ((x.readings.getD k 0).toNat % 2 ^ 16)
    ((∀ k < 48, temp k < 95 * 16) → exec (.sensorSample x) s = .next
      { s with mgc := { s.mgc with sample := sampleBytes x t s.calends, throttle := t1 } }) ∧
    ((∃ k < 48, 95 * 16 ≤ temp k) → (∀ k < 48, temp k < 110 * 16) →
      ∃ s1, exec (.sensorSample x) s = .next s1 ∧ s1.mgc.throttle = max 8 t1 ∧ s1.mgc.sample = sampleBytes x t s.calends)) ∧
  (∀ (s : State) (n k at_ : Nat), get? s.correctedErrors n = some (k, at_) →
    (k = 0 ∨ (at_ ≠ 0 ∧ s.clk + 1 < at_ + 1050000000) → stepTurn s (.correctedLog n) = .next s) ∧
    (k ≠ 0 → at_ = 0 ∨ at_ + 1050000000 ≤ s.clk + 1 → ∃ t r, stepTurn s (.correctedLog n) = .next t ∧
      t.mgc.log.getLast? = some r ∧ r.code = 3 ∧ r.source = n ∧ r.extra = toBytes 4 k ∧ r.time = s.calends ∧
      get? t.correctedErrors n = some (0, s.clk + 1))) ∧
  (∀ (s : State) (p : List Byte), s.power = false ∨ s.mrstN = false ∨ packetOk s p = false → ∀ i, IsBusRow p i → exec i s = .next s) ∧
  (∀ (s : State) (p : List Byte), s.power = true → s.mrstN = true → packetOk s p = true → (takePacket s p).2 = none →
    ∀ i, IsBusRow p i → exec i s = .next (takePacket s p).1) ∧
  (∀ (s t : State) (p : List Byte) (f : BusFrom) (b : Byte) (data : List Byte) (code : Byte), s.power = true → s.mrstN = true →
    packetOk s p = true → takePacket s p = (t, some (f, 0 :: b :: code :: data)) → 8 ≤ f.tag → 128 ≤ b.toNat →
    (code = 1 → ∀ op eid : Byte, data = [op, eid] → op.toNat % 4 < 2 → eid ≠ 0 → eid ≠ 0xFF → ∀ x y z, p = x ++ y ++ z → exec (.setEndpointId x y z) s = .next
      (State.controls { t with mgc := { t.mgc with eid := eid } } f b 1 [0, 0, eid, 0])) ∧
    (code = 2 → exec (.getEndpointId p) s = .next (t.controls f b 2 [0, t.mgc.eid, 0, 0])) ∧
    (code = 4 → data = [0x7E] → ∀ x y, p = x ++ y → exec (.getMctpVersionSupport x y) s = .next (t.controls f b 4 [0, 1, 0xF1, 0xF3, 0xF1, 0])) ∧
    (code = 5 → exec (.getMessageTypeSupport p) s = .next (t.controls f b 5 [0, 1, 0x7E])) ∧
    (code = 6 → data = [0] → ∀ x y, p = x ++ y → exec (.getVendorDefinedMessageSupport x y) s = .next
      (t.controls f b 6 ([0, 0xFF, 0] ++ vendorPrefix ++ [0, 0])))) ∧
  (∀ (s t : State) (p : List Byte) (f : BusFrom) (m req : List Byte), s.power = true → s.mrstN = true →
    packetOk s p = true → takePacket s p = (t, some (f, m)) → messageBody 0xFE f m = some (vendorPrefix ++ req) →
    let ok := 12 ≤ req.length ∧ req.length ≤ 3852 ∧ numAt req 1 3 = 0
    (ok → t.mgc.jobs = [] → ∀ x y, p = x ++ y → exec (.vendorDefinedMessage x y) s = .next { t with mgc := { t.mgc with
      jobs := [{ op := numAt req 0 1, arg := BitVec.ofNat 64 (numAt req 4 8), data := req.drop 12, bus := some f, at_ := t.clk }] } }) ∧
    (¬ok ∨ (∃ j ∈ t.mgc.jobs, ∃ g, j.bus = some g ∧ g.eid = f.eid) → ∀ x y, p = x ++ y → exec (.vendorDefinedMessage x y) s = .next
      (sendMessage t f 0xFE (vendorPrefix ++ toBytes 1 (numAt req 0 1) ++ [1, 0, 0])))) ∧
  (∀ (s : State) (j : Job) (rest : List Job) (f : BusFrom), s.power = true → s.mrstN = true → s.mgc.running.isSome →
    s.mgc.jobs = j :: rest → j.bus = some f → j.op = 7 → j.data = [] → 300 ≤ j.arg.toNat → j.arg.toNat ≤ 1500 →
    ∃ u, exec .setcap s = .next (sendMessage u f 0xFE (vendorPrefix ++ [7, 0, 0, 0])) ∧
      u.mgc.cap = j.arg.toNat ∧ u.mgc.arg = s.mgc.arg ∧ u.mgc.result = s.mgc.result ∧ u.mgc.jobs = rest ∧ u.outbox = s.outbox)

/-- R366: a Function Level Reset ends every context and every launch, disables every queue, drops every cached line after writing it
back, and returns the registers of the queue manager, of translation, of contexts, of the fault buffer and of interrupts, the MSI-X
table included, to their reset values; the Calends with its source and rate, the device's identity, what the ports have counted, and
the controller's throttle, cap and flash stay. (The reset values of the MSI-X table are the family's, PRESUMED, log 10.) -/
def Sys2Proof.Clause.FunctionResetResults : Prop :=
  (∀ (s : State) (linkDown : Bool), s.live = true → ∃ t, exec (.functionLevelReset linkDown) s = .next t ∧
    t.contexts = [] ∧ t.launches = [] ∧ t.gangs = [] ∧ t.waves = [] ∧ t.ops = [] ∧ (∀ q, (queueOf t q).state = 0) ∧ t.l2 = [] ∧ t.tlb = [] ∧
    t.l1 = [] ∧ t.lines = [] ∧ t.maps = [] ∧ t.atsWaits = [] ∧ t.requests = [] ∧ t.unsent = [] ∧ t.far = [] ∧ t.inbound = [] ∧
    t.hostLines = [] ∧ t.atc = [] ∧ t.qmEnable = false ∧ t.haltAll = false ∧ t.qtBase = 0 ∧ t.cxBase = 0 ∧ t.ptFrame = 0 ∧ t.ptLen = 0 ∧
    t.migFrame = 0 ∧ t.migCount = 0 ∧ t.fbBase = 0 ∧ t.fbSize = 0 ∧ t.fbEnable = false ∧ t.fbWr = 0 ∧ t.fbRd = 0 ∧ t.fbOvf = 0 ∧
    t.making = none ∧ t.colBase = 0 ∧ t.colCount = 0 ∧ t.phyBase = 0 ∧ t.qmIntStat = 0 ∧ t.qmIntEn = 0 ∧ t.fxIntStat = 0 ∧ t.fxIntEn = 0 ∧
    t.vectors = [{}, {}] ∧
    t.fabEnable = false ∧ t.reach = [] ∧ t.linkUp = (s.linkUp && !linkDown) ∧ (∀ p < 16, (portOf t p).errs = (portOf s p).errs ∧
      (portOf t p).enable = false ∧ (portOf t p).up = false) ∧
    t.calends = s.calends ∧ t.calSrc = s.calSrc ∧ t.calRate = s.calRate ∧ t.devId = s.devId ∧ t.domain = s.domain ∧ t.live = true ∧
    t.mgc.throttle = s.mgc.throttle ∧ t.mgc.cap = s.mgc.cap ∧ t.mgc.slotA = s.mgc.slotA ∧ t.mgc.slotB = s.mgc.slotB ∧
    let u := endAll (disableQueues (closePorts (sendDown s)))
    let v := (u.l2.map (·.1)).foldl (fun v k => (writeBack v k).1) u
    t.dram = v.dram ∧ t.cells = v.cells ∧ t.poison = v.poison) ∧
  ∀ (s : State) (k : Nat) (d : DirtySector) (e : TlbEntry), s.dram.wf = true → get? s.l2 k = some d → d.bytes.length = 48 →
    e.write = true → e.mig = none → (∀ u ∈ secUnits s k, tlbFind s u.2 = some e) →
    (writeBack s k).2 = none ∧ get? (writeBack s k).1.l2 k = none ∧
    ∀ u ∈ secUnits s k, ∀ i < 16, (writeBack s k).1.dram.read (e.phys u.2 + i) = d.bytes.getD (u.1 + i) 0

/-- R366, R388, R389: while MRST_N is low the module is held in reset; its rising edge begins a module reset, after which the boot ROM
runs the selected slot's image; the loss of PWREN or of a rail removes die power with PGOOD low, and PWREN brings it back. (What a module reset keeps and a loss of power
loses is the model's reading, DEDUCED, log 41; that a slot boots is a premise on the signature of its image.) -/
def Sys2Proof.Clause.ModuleResetResults : Prop :=
  (∀ (s : State), s.mrstN = true → s.power = true → ∃ t, exec .mrstNDrivenLow s = .next t ∧ t.live = false ∧
    t.isReset { s with mrstN := false } true ∧ t.mgc.running = none) ∧
  (∀ (s : State), s.mrstN = false → s.power = true → s.mgc.boots s.mgc.selected = true → ∃ t, exec .mrstN s = .next t ∧ t.live = true ∧
    t.isReset { s with mrstN := true } true ∧ t.mgc.running = some s.mgc.selected ∧ t.mgc.log = s.mgc.log) ∧
  (∀ (s : State), s.pwren = true → s.power = true → ∃ t, exec .pwrenFall s = .next t ∧ t.live = false ∧
    t.isReset { s with pwren := false, power := false, pgood := false } false ∧ t.mgc.running = none ∧ t.mgc.log = []) ∧
  (∀ (s : State), s.power = true → ∃ t, exec .railOutOfTolerance s = .next t ∧ t.live = false ∧
    t.isReset { s with power := false, pgood := false } false ∧ t.mgc.log = []) ∧
  (∀ (s : State), s.pwren = false → s.mrstN = true → s.mgc.boots s.mgc.selected = true → ∃ t, exec .pwrenRise s = .next t ∧
    t.live = true ∧ t.isReset { s with pwren := true, power := true, pgood := true } false ∧ t.mgc.running = some s.mgc.selected)

end

namespace Sys2Proof.Machine

/-! ## One step -/

/-- The instruction whose opcode parcel `p` stands at `i.opc`, as the decoder reads its bytes, with the state that fetching its other
parcels leaves and its next address (R123 to R125, R129, R141). -/
inductive Here.Body (h : Here) (s : State) (i : Issue) (p : Half) : State → Issue → Fetched → Prop where
  | word (t : State) (q : Half) (x : Instr) : fetchParcel s h (i.opc + 2) = .ok (t, q) → decode (bytesOf [p, q]) = some (x, 4) →
      h.Body s i p t { i with next := i.opc + 4 } (.instr x)
  | wordLiteral (t t1 t2 : State) (q a b : Half) (x : Instr) : fetchParcel s h (i.opc + 2) = .ok (t, q) →
      fetchParcel t h (i.opc + 4) = .ok (t1, a) → fetchParcel t1 h (i.opc + 6) = .ok (t2, b) →
      decode (bytesOf [p, q, a, b]) = some (x, 8) → h.Body s i p t2 { i with next := i.opc + 8, lit := a ++ b } (.instr x)
  | unassigned (t : State) (q : Half) : major p < 62 → fetchParcel s h (i.opc + 2) = .ok (t, q) → hasLiteral (p ++ q) = false →
      decode (bytesOf [p, q]) = none → h.Body s i p t { i with next := i.opc + 4 } (.unassigned (p ++ q))
  | dictionary (k : BitVec 10) : decode (bytesOf [p]) = some (.dictionaryParcel k, 2) →
      (∀ w, h.dictionary[k.toNat]? = some w → hasLiteral w = false) →
      h.Body s i p s { i with next := i.opc + 2 } (.instr (.dictionaryParcel k))
  | dictionaryLiteral (k : BitVec 10) (w : Word) (t t1 : State) (a b : Half) :
      decode (bytesOf [p]) = some (.dictionaryParcel k, 2) → h.dictionary[k.toNat]? = some w → hasLiteral w = true →
      fetchParcel s h (i.opc + 2) = .ok (t, a) → fetchParcel t h (i.opc + 4) = .ok (t1, b) →
      h.Body s i p t1 { i with next := i.opc + 6, lit := a ++ b } (.instr (.dictionaryParcel k))
/-- What stands at the program counter, performed: an instruction, or the trap of a word that no row assigns (R141). -/
def Fetched.run (x : Fetched) (s : State) : Host.Outcome State Fault Refusal :=
  match x with
  | .instr i => exec i s
  | .unassigned v => execIllegalInstruction v s

/-- Words written out field by field from R131 to R140, the words that R124, R162 and the spec's own examples give
among them. -/
def wordTable : List (Word × Instr) := [
  (0b000000_0000101_0000010_0000011_001_1_0, .addB32 ⟨5, 2, 3, 1, true, none⟩),            -- TRI, the word 0x0028_2066 of R124
  (0b010010_011_1_101_0000111_0001001_010_0_1, .cmpN32 ⟨3, true, 5, 7, 9, 2, false, none⟩), -- TRI with the dst of R134
  (0b010101_0000001_0000010_000_00_10_00101, .shrS32Imm ⟨1, 2, 0, 5⟩),                     -- RRI, R136
  (0b010111_0001000_011_1111111111111110, .movB32Imm ⟨8, 3, 0xFFFE⟩),                      -- RI
  (0b011001_0000011_0001100_001_1_00000100, .popcB32 ⟨3, 12, 1, true, none⟩),              -- DUO
  (0b011100_010_1111000_1111111111100000, .br ⟨2, 0xFFE0⟩),                                -- BRA, L = 120
  (0b011101_0000000_0000000_000_0_00000011, .exit 0),                                      -- 0x7400_0003 of R162
  (0b101000_0000100_0000101_000_0_100_00010, .fmulF32Rm ⟨4, 5, 0, false, 4, none⟩),        -- FLT, R137
  (0b101011_0000110_0000111_000_0_001_10001, .cvtBf16F32 ⟨6, 7, 0, false, 1, true, none⟩), -- FLT, FN bit 4
  (0b101101_0000001_0000010_0000011_000_0_1, .shflxB32 ⟨1, 2, 3, 0, false, none⟩),         -- TRI, X = 1
  (0b110000_0001000_0001010_100_0_101_11110, .stg ⟨8, 10, 4, false, 5, 30⟩),               -- MEM
  (0b110101_0000010_0000100_000_1_0_1_00_1001, .atom ⟨2, 4, 0, true, true, 0, 9⟩),         -- DUO, R138
  (0b111000_001000_000100_001000_001100_00, .collRed ⟨4, 8, 12⟩),                          -- ASY
  (0b111001_0000_001010_00010_0010100_0010, .bwait ⟨10, 2, 20, true, false⟩),              -- WAIT, 0xE40A_1142 of the spec's example
  (0b111010_0100_10_01_1101_1_001110_001111_0, .mmaF16 ⟨2, 1, 13, true, 14, 15⟩),          -- MAT, R140
  (0b111011_01100_0000111_0000000_000010_0, .rmapinv ⟨7, 2⟩),                              -- GFX
  (0b111100_000000_0000000_0000000_000101, .trap 5)]                                       -- SYS, 0xF000_0005 of the spec's example

/-- Between two steps no instruction is being issued, and no peer waits to hear of a word that its monitor has seen. -/
def Settled (s : State) : Prop :=
  s.issue = none ∧ ∀ m ∈ s.monitors, ∀ port dev tag num, m.2.who = .peer port dev tag num → m.2.woken = none

end Sys2Proof.Machine

section

open Sys2Proof Sys2Proof.Machine

/-- R22 to R25, R123 to R129: the turn of a wave that can issue serves the group that its holder chooses and performs what the decoder
reads at the group's program counter, with the prefix before it when there is one; the step of a turn that the clk has come to is that
turn. -/
def Sys2Proof.Clause.StepRunsDecodedInstruction : Prop :=
  ∀ (s s0 : State) (w k : Nat) (v : Wave) (pc : Quad) (h : Here), nextTurn (planned s) = (s0, .issue w) → mayIssue s0 w true = true →
    let s1 := raiseUrgency s0 w
    get? s1.waves w = some v → v.holder = some k →
    let f := v.fibres.getD k Fibre.blank
    f.choose = some pc →
    let i := issueAt w k (f.groupAt f.issuing pc) f.inTrap pc
    let s2 : State := { s1 with issue := some i }
    hereOf s2 = some h → heldByTrial h.l f pc = false →
    let f1 : Fibre := { (f.serve pc i.lanes).countScout with
      urgency := 0, urgent := false, trialed := none, safe := if f.retry.isSome then f.safe else s1.safe }
    let s3 := modFibre s2 w k fun _ => f1
    let h1 := { h with f := f1 }
    ∀ (t : State) (p : Half), fetchParcel s3 h1 pc = .ok (t, p) →
      (∀ t' j x, major p ≠ 62 → h1.Body t i p t' j x → step s = thenDo endTurn (x.run { t' with issue := some j })) ∧
      (∀ u q t' j x, major p = 62 → p.extractLsb' 3 7 = 0 → fetchParcel t h1 (pc + 2) = .ok (u, q) → major q ≠ 62 →
        h1.Body u { i with opc := pc + 2, swp := p.getLsbD 0, hint := (p.extractLsb' 1 2).toNat } q t' j x →
        step s = thenDo endTurn (x.run { t' with issue := some j }))

/-- R22, R30, R64, R332, R341, R382: a clk's turns come in their order: of those that stand in the agenda before the clk's end one of least rank is
next, of several the first, but for one of the others that goes before it: a queue's disable before a doorbell write of that queue (R332), and
an issue that may store to the register aperture before one that may not (R64); with none left the clk passes. (The ranks within a clk
are the model's, log 1.) -/
def Sys2Proof.Clause.TurnOrder : Prop :=
  ∀ (s : State), s.planned = some s.clk →
    ((splitClk s.agenda).1 = [] → ∃ t n, nextTurn (planned s) = (t, .elapse n) ∧ n ≤ 1) ∧
    (∀ as x bs later, s.agenda = as ++ x :: bs ++ later → (∀ y ∈ as ++ x :: bs, ∀ n, y ≠ .elapse n) →
      later = [] ∨ (∃ n rest, later = .elapse n :: rest) → (∀ y ∈ as, x.rank < y.rank) → (∀ y ∈ bs, x.rank ≤ y.rank) →
      ((∀ y ∈ as ++ bs, goesBefore s x y = false) → nextTurn (planned s) = ({ s with agenda := as ++ bs ++ later }, x)) ∧
      ∀ u, (as ++ bs).find? (goesBefore s x) = some u → nextTurn (planned s) = ({ s with agenda := x :: (as ++ bs).erase u ++ later }, u)) ∧
    (∀ (i : Instr) t, nextTurn (planned s) = (t, .event i) → step s = thenDo endTurn (exec i t)) ∧
    (∀ (d : Due) t, nextTurn (planned s) = (t, .due d) → step s = thenDo endTurn (stepDue t d))

/-- R128: a parcel of the code that can be read is the two bytes at its address, the low byte first (R123). -/
def Sys2Proof.Clause.ParcelFetch : Prop :=
  ∀ (s t : State) (h : Here) (a : Quad), h.inCode a.toNat = true → check s (some h.g.tag) a.toNat rightRead true false true = (t, .ok) →
    ∃ lo hi : Byte, readGlobal t a.toNat 2 = [lo, hi] ∧ fetchParcel s h a = .ok (t, hi ++ lo)

/-- R366 and the Reset columns of R329, R339, R367, R374, R377 and R381: after a module reset memory reads zero, the registers hold
their reset values, the cap is 1,500 W, and there is no work, no context, no cached line and no device reached. That the throttle level is 0 is the model's
choice (log 12). -/
def Obligations.ResetState : Prop :=
  let s := State.reset
  (∀ a, s.dram.read a = 0) ∧ s.cells = [] ∧ s.poison = [] ∧ s.l2 = [] ∧ s.l1 = [] ∧ s.lines = [] ∧ s.tlb = [] ∧ s.atc = [] ∧ s.hostLines = [] ∧ s.maps = [] ∧
  s.launches = [] ∧ s.gangs = [] ∧ s.waves = [] ∧ s.ops = [] ∧ s.contexts = [] ∧ s.queues = [] ∧
  s.calends = 0 ∧ s.calSrc = 0 ∧ s.calLocked = false ∧ s.calRate = 0 ∧
  s.qmEnable = false ∧ s.haltAll = false ∧ s.qtBase = 0 ∧ s.qmIntStat = 0 ∧ s.qmIntEn = 0 ∧
  s.cxBase = 0 ∧ s.ptFrame = 0 ∧ s.ptLen = 0 ∧ s.migFrame = 0 ∧ s.migCount = 0 ∧
  s.fbBase = 0 ∧ s.fbSize = 0 ∧ s.fbEnable = false ∧ s.fbWr = 0 ∧ s.fbRd = 0 ∧ s.fbOvf = 0 ∧ s.fxIntStat = 0 ∧ s.fxIntEn = 0 ∧
  s.phyBase = 0 ∧ s.devId = 0 ∧ s.fabEnable = false ∧ s.safe = false ∧ s.domain = 0 ∧ s.reach = [] ∧ s.colBase = 0 ∧ s.colCount = 0 ∧
  (∀ p < 16, (portOf s p).enable = false ∧ (portOf s p).up = false ∧ (portOf s p).errs = 0) ∧
  s.mgc.cmd = 0 ∧ s.mgc.arg = 0 ∧ s.mgc.result = 0 ∧ s.mgc.cap = 1500 ∧ s.mgc.throttle = 0

/-- The bytes of memory keep one form, addresses rising and no zero listed: after reset, and through every write of the module's
memory that the device makes. (The form is the model's own way of holding memory.) -/
def Sys2Proof.Clause.CanonicalMemory : Prop :=
  State.reset.dram.wf = true ∧
  (∀ (m : Memory) (a : Nat) (bs : List Byte), m.wf = true → (m.writeN a bs).wf = true) ∧
  (∀ (s : State) (a : Nat) (bs : List Byte) (who : Nat × Nat × Nat), s.dram.wf = true → (writeGlobal s a bs who).dram.wf = true) ∧
  (∀ (s : State) (k : Nat), s.dram.wf = true → (writeBack s k).1.dram.wf = true) ∧
  (∀ (s : State) (tag : Option Nat) (a need : Nat) (r w hst : Bool), s.dram.wf = true → (check s tag a need r w hst).1.dram.wf = true) ∧
  (∀ (hd : Header) (m : Memory) (a : Nat) (b : Byte), m.wf = true → (putLocalByte hd m a b).wf = true)

/-- Whatever a step does, when it answers a next state no instruction is being issued in it, and every peer whose monitor has seen
its word has been sent its answer (R113, R370). -/
def Obligations.SettledKept : Prop := Kept Settled
/-- The state after reset is settled. -/
def Obligations.SettledAtReset : Prop := Settled State.reset

/-- R123 to R142, R243: every instruction of the opcode table that has an encoding and whose fields the encoding admits is read back
from its bytes as itself, with all its operands and its length. -/
def Obligations.RoundTrip : Prop :=
  ∀ i : Instr, i.wf = true → encode i ≠ [] → decode (encode i) = some (i, (encode i).length)

/-- Words written out from the encoding tables of the spec, one for each family, and the instructions they stand for. -/
def Obligations.DecodeWords : Prop :=
  ∀ e ∈ wordTable, decode (bytesOf (splitWord e.1)) = some (e.2, 4)

/-- R164: `nop` is read from its opcode and FN when dst, a and U are 0 and only then, is 0x7400_0007 when unpredicated, advances the
group, and changes nothing else. -/
def Obligations.NopRule : Prop :=
  (∀ (s : State) (h : Here) (p : BitVec 3), Issuing s h → h.f.retry = none → exec (.nop p) s = .next (h.done s [])) ∧
  decode (bytesOf (splitWord 0x74000007)) = some (.nop 0, 4) ∧
  ∀ (w : Word) (q : BitVec 3), (fld w 26 6 = 0x1D ∧ fn8 w = 7 ∧ predA w = q) →
    (decodeWord w 0 = some (.nop q) ↔ dst w = 0 ∧ srcA w = 0 ∧ uA w = false)

/-- R124: the first parcel of an instruction word carries bits 31:16 and the second bits 15:0, a literal follows in the same order, and
the word 0x0028_2066 is stored as 0x28, 0x00, 0x66, 0x20. -/
def Obligations.ParcelOrder : Prop :=
  (∀ (w : Word), hasLiteral w = false → decode (bytesOf [w.extractLsb' 16 16, w.extractLsb' 0 16]) = if major (w.extractLsb' 16 16) = 63
    then some (.dictionaryParcel (w.extractLsb' 16 10), 2) else (decodeWord w 0).map fun i => (i, 4)) ∧
  (∀ (w l : Word), hasLiteral w = true →
    decode (bytesOf [w.extractLsb' 16 16, w.extractLsb' 0 16, l.extractLsb' 16 16, l.extractLsb' 0 16]) = (decodeWord w l).map fun i => (i, 8)) ∧
  bytesOf (splitWord 0x00282066) = [0x28, 0x00, 0x66, 0x20]

/-- R157: `mset` is opcode 0x19 with FN 16; it sets the bit of each performing strand to whether its source is not zero, in the mask
that dst names from 0 to 7, and a uniform source gives every performing lane the same bit. -/
def Obligations.MaskSetRule : Prop :=
  (∀ (w l : Word), fld w 26 6 = 0x19 → fn8 w = 16 → decodeWord w l = some (.mset (readDuo w l))) ∧
  (∀ (s : State) (h : Here) (o : Duo), Issuing s h → h.f.retry = none → h.canRead o.a o.u o.lit → o.dst.toNat < 8 →
    exec (.mset o) s = .next (h.doneMask s o.dst.toNat (h.perf o.p) fun i => h.word o.a o.u o.lit i != 0)) ∧
  (∀ (h : Here) (a : BitVec 7) (lit : Option Word) (i j : Nat), h.word a true lit i = h.word a true lit j) ∧
  (∀ (s : State) (h : Here) (o : Duo), Issuing s h → h.canRead o.a o.u o.lit → 8 ≤ o.dst.toNat →
    exec (.mset o) s = execIllegalInstruction 0 s)

end

section

open Sys2Proof

/-! ## The statements of several clauses -/

/-- Integer arithmetic, logic and shifts: results and frame (R150, R151, R152, R153, R154, R158, R159, R57, R58, R59, R52). -/
def Obligations.IntegerArithmetic : Prop :=
  Clause.IntegerResults ∧ Clause.WideIntegerResults ∧ Clause.OneSourceResults ∧ Clause.ImmediateResults

/-- Compares, mask logic and mask moves: results and frame (R134, R155, R156, R157, R150). -/
def Obligations.ComparesAndMasks : Prop :=
  Clause.CompareResults ∧ Clause.MaskResults

/-- Branches, calls, returns, exit, nop, yield and window moves, with their misaligned and window traps (R128, R130, R160, R161, R162, R163, R164, R165, R28, R45, R249). -/
def Obligations.ControlTransfers : Prop :=
  Clause.TransferResults ∧ Clause.OddTargetTraps ∧ Clause.StrandControlResults

/-- Floating addition, subtraction, multiplication, fused and rounded forms (R78, R79, R80, R81, R82, R137, R170, R171, R174). -/
def Obligations.FloatArithmetic : Prop :=
  Clause.FloatResults ∧ Clause.RoundedFloatResults

/-- Floating minimum, maximum, compares, and sign operations (R134, R172, R173, R174, R76). -/
def Obligations.FloatComparisonsAndSigns : Prop :=
  Clause.FloatMinMaxResults ∧ Clause.FloatCompareResults ∧ Clause.FloatSignResults

/-- Approximations at the points that the spec fixes, and conversions (R175, R176, R81, R137). -/
def Obligations.ApproximationsAndConversions : Prop :=
  Clause.ApproximationResults ∧ Clause.ConversionResults

/-- Shuffles, votes, scans and reductions across the lanes (R179, R180, R181, R182). -/
def Obligations.WaveOperations : Prop :=
  Clause.ShuffleResults ∧ Clause.VoteResults ∧ Clause.ScanResults

/-- Global loads and stores, and their .try forms (R185, R186, R187, R188, R189, R98, R99, R100). -/
def Obligations.GlobalAccess : Prop :=
  Clause.GlobalAccessResults ∧ Clause.LeasedReads ∧ Clause.TryAccessResults

/-- Misaligned accesses trap, and failing accesses stop without effect (R98, R186, R37, R38, R39, R40, R248). -/
def Obligations.AccessStops : Prop :=
  Clause.MisalignedAccessTraps ∧ Clause.FailingAccessStops

/-- Reading after writing in local and global memory, and the canonical form of memory (R99, R61, R62, R97, R366). -/
def Obligations.MemoryLaws : Prop :=
  Clause.LocalMemoryLaw ∧ Clause.GlobalMemoryLaw ∧ Clause.CanonicalMemory

/-- Atomic operations and the atomic instructions (R138, R190, R191, R192, R193). -/
def Obligations.Atomics : Prop :=
  Clause.AtomicOperations ∧ Clause.AtomicResults

/-- Exact-cell reductions and finalisations (R91, R93, R116, R117, R194, R195, R196). -/
def Obligations.ReductionsAndFinalisations : Prop :=
  Clause.ReductionResults ∧ Clause.FinalisationResults

/-- Traces and collectives issue (R106, R233, R202, R203, R374, R375). -/
def Obligations.TraceAndCollectiveIssues : Prop :=
  Clause.TraceIssues ∧ Clause.CollectiveIssues

/-- Asynchronous commands stall at a full counter or queue, and trap where the spec says so (R29, R106, R140, R198, R200, R202, R217). -/
def Obligations.CommandStops : Prop :=
  Clause.FullCounterStalls ∧ Clause.AsyncCommandTraps

/-- Waits on outstanding counters and on barrier objects, arrivals and expectations (R107, R108, R109, R110, R111, R31, R33). -/
def Obligations.CounterAndBarrierWaits : Prop :=
  Clause.CounterWaitResults ∧ Clause.BarrierResults

/-- Monitor waits and the grid barrier (R112, R113, R114, R212, R213, R31). -/
def Obligations.MonitorAndGridWaits : Prop :=
  Clause.MonitorResults ∧ Clause.GridBarrierResults

/-- Stage queues, fibre barriers and processions, and when each admits its fibre (R30, R115, R166, R225, R226, R227, R228). -/
def Obligations.QueueAndFibreWaits : Prop :=
  Clause.StageQueueResults ∧ Clause.FibreBarrierResults ∧ Clause.ProcessionResults ∧ Clause.AdmissionConditions

/-- Coverage masks, and the box and cost aids of tree building (R224, R236, R237, R238). -/
def Obligations.CoverageAndBvhAids : Prop :=
  Clause.CoverResults ∧ Clause.BvhAidResults ∧ Clause.SahValues ∧ Clause.NpackValues

/-- Fragment lists: the issue of their operations, what each makes of a list, and the order that they keep (R229, R230, R231, R232, R256, R56). -/
def Obligations.FragmentLists : Prop :=
  Clause.FragmentListIssues ∧ Clause.FragmentListOutcomes ∧ Clause.FragmentListOrder

/-- Texture samples issue and choose their level, the results that units owe land, and map copies end (R56, R224, R230, R239, R240, R241, R279). -/
def Obligations.SamplesAndUnitResults : Prop :=
  Clause.SampleIssues ∧ Clause.SampleLevels ∧ Clause.UnitResultsLand ∧ Clause.MapCopyResults

/-- Taking an exception and returning from it (R244, R245, R246, R247, R248, R249, R250, R252). -/
def Obligations.TrapEntryAndReturn : Prop :=
  Clause.TrapEntry ∧ Clause.SoftwareTrapAndReturn

/-- Illegal instructions and illegal operands trap (R57, R58, R59, R127, R141, R248, R249). -/
def Obligations.IllegalInstructions : Prop :=
  Clause.IllegalInstructionTraps ∧ Clause.OperandTraps

/-- System registers read and written (R51, R142, R243, R244, R245, R246, R247). -/
def Obligations.SystemRegisters : Prop :=
  Clause.SystemReadResults ∧ Clause.SystemWriteResults

/-- The marks: halt and brk, the progress counters, and check marks (R250, R253, R299, R304, R305, R306, R310). -/
def Obligations.StopsAndMarks : Prop :=
  Clause.PreciseStopResults ∧ Clause.MarkResults

/-- Waits, stalls and holds end at their condition, their deadline or their Ides point (R30, R33, R35, R36, R107, R110, R112, R113, R115, R119, R212, R226). -/
def Obligations.WaitEvents : Prop :=
  Clause.WaitConditionEvents ∧ Clause.WaitExpiryEvents

/-- Engines read their units, and copies and traces complete, towards local and global memory and with appends (R102, R105, R109, R201, R233, R235, R266, R286, R392). -/
def Obligations.EngineReadsAndCompletions : Prop :=
  Clause.UnitReadEvents ∧ Clause.CopyCompletes ∧ Clause.TraceCompletes

/-- Collectives: decisions, deadlines and the messages between members (R202, R203, R204, R370, R375, R376). -/
def Obligations.CollectiveProtocol : Prop :=
  Clause.CollectiveEvents ∧ Clause.CollectiveMessageResults

/-- The placer: what it chooses, and the state of a gang that it places (R14, R15, R20, R21, R28, R48, R49, R50, R334). -/
def Obligations.Placement : Prop :=
  Clause.PlacementChoice ∧ Clause.PlacedGangState

/-- Context installation, update, end, suspension and resumption (with the readings of logs 20 and 55) (R340, R341, R342, R343, R357). -/
def Obligations.Contexts : Prop :=
  Clause.ContextInstallation ∧ Clause.ContextCommandResults

/-- Replays, stop requests and the debugger commands (with the readings of log 55) (R39, R304, R305, R307, R341, R353). -/
def Obligations.ReplaysAndDebugger : Prop :=
  Clause.ReplayResults ∧ Clause.DebuggerCommandResults

/-- Host register writes, interrupt status and MSI-X (R329, R339, R352, R361, R362). -/
def Obligations.RegisterWritesAndInterrupts : Prop :=
  Clause.RegisterWriteResults ∧ Clause.InterruptResults

/-- The physical window, and host lines (R360, R363, R364, R365). -/
def Obligations.HostWindow : Prop :=
  Clause.HostWindowResults ∧ Clause.HostLineResults

/-- The link layer, and which devices are reached (R367, R369, R372). -/
def Obligations.LinkLayer : Prop :=
  Clause.LinkLayerResults ∧ Clause.ReachabilityResults

/-- The mailbox, the sensors, firmware and the management bus (R381, R382, R383, R384, R385, R386, R387, R389, R390, R391). -/
def Obligations.Management : Prop :=
  Clause.MailboxResults ∧ Clause.ManagementResults

/-- Function level reset, module reset and the power signals (R366, R388, R389). -/
def Obligations.Resets : Prop :=
  Clause.FunctionResetResults ∧ Clause.ModuleResetResults

/-- A step of a wave runs the instruction decoded at its program counter (R22, R24, R25, R123, R124, R125, R126, R127, R128, R129, R141). -/
def Obligations.StepRunsDecodedInstruction : Prop :=
  Clause.StepRunsDecodedInstruction ∧ Clause.TurnOrder ∧ Clause.ParcelFetch

end
end

