-- ==== Sys2Proof/Laws/Tables.lean ====
section
/-! SUPPORT. Laws of lists by index, tables by key and rows. -/

namespace Sys2Proof.Machine

variable {α : Type}

theorem modAt_modAt (l : List α) (i : Nat) (f g : α → α) : modAt (modAt l i f) i g = modAt l i fun x => g (f x) := by
  induction l generalizing i with
  | nil => rfl
  | cons a t ih => cases i with
    | zero => rfl
    | succ i => simp [modAt, ih]

@[simp] theorem modAt_length (l : List α) (i : Nat) (f : α → α) : (modAt l i f).length = l.length := by
  induction l generalizing i with
  | nil => rfl
  | cons a t ih => cases i <;> simp [modAt, ih]

theorem modAt_getElem? (l : List α) (i k : Nat) (f : α → α) :
    (modAt l i f)[k]? = if i = k then l[k]?.map f else l[k]? := by
  induction l generalizing i k with
  | nil => simp [modAt]
  | cons a t ih =>
    cases i <;> cases k <;> simp [modAt, ih]

theorem modAt_id (l : List α) (i : Nat) : modAt l i (fun x => x) = l := by
  induction l generalizing i with
  | nil => rfl
  | cons a t ih => cases i <;> simp [modAt, ih]

theorem modAt_congr (l : List α) (i : Nat) (f g : α → α) (h : ∀ x, l[i]? = some x → f x = g x) : modAt l i f = modAt l i g := by
  induction l generalizing i with
  | nil => rfl
  | cons a t ih => cases i with
    | zero => simp [modAt, h a]
    | succ i => simp only [modAt]; rw [ih i]; intro x hx; exact h x (by simpa using hx)

theorem upd_upd (t : List (Nat × α)) (i : Nat) (f g : α → α) : upd (upd t i f) i g = upd t i fun x => g (f x) := by
  simp only [upd, List.map_map]
  apply List.map_congr_left
  intro p _
  by_cases h : p.1 = i <;> simp [h]

@[simp] theorem get?_upd_self (t : List (Nat × α)) (i : Nat) (f : α → α) : get? (upd t i f) i = (get? t i).map f := by
  induction t with
  | nil => rfl
  | cons p t ih =>
    obtain ⟨k, a⟩ := p
    by_cases h : k = i
    · simp [upd, get?, h]
    · simpa [upd, get?, h] using ih

theorem get?_upd_ne (t : List (Nat × α)) (i j : Nat) (f : α → α) (h : i ≠ j) : get? (upd t i f) j = get? t j := by
  induction t with
  | nil => rfl
  | cons p t ih =>
    obtain ⟨k, a⟩ := p
    by_cases hk : k = i
    · subst hk; simpa [upd, get?, h] using ih
    · by_cases hj : k = j
      · subst hj; simp [upd, get?, hk]
      · simpa [upd, get?, hk, hj] using ih

/-- A table changed by two functions that agree on the entry of the key. -/
theorem upd_congr (t : List (Nat × α)) (i : Nat) (f g : α → α) (h : ∀ p ∈ t, p.1 = i → f p.2 = g p.2) :
    upd t i f = upd t i g := by
  apply List.map_congr_left
  intro p hp
  by_cases hk : p.1 = i
  · simp [hk, h p hp hk]
  · simp [hk]

@[simp] theorem get?_put_self (t : List (Nat × α)) (i : Nat) (a : α) : get? (put t i a) i = some a := by
  induction t with
  | nil => simp [put, get?]
  | cons p t ih =>
    obtain ⟨k, b⟩ := p
    simp only [put]
    split
    · simp [get?]
    · split
      · simp [get?]
      · rename_i h1 h2
        have : ¬ k = i := fun h => h2 h.symm
        simpa [get?, this] using ih

theorem get?_put_ne (t : List (Nat × α)) (i j : Nat) (a : α) (h : i ≠ j) : get? (put t i a) j = get? t j := by
  induction t with
  | nil => simp [put, get?, h]
  | cons p t ih =>
    obtain ⟨k, b⟩ := p
    simp only [put]
    split
    · simp [get?, h]
    · split
      · rename_i h2; subst h2; simp [get?, h]
      · simp only [get?]; rw [ih]

@[simp] theorem rowOf_length (f : Nat → α) : (rowOf f).length = 32 := by simp [rowOf, laneOrder]

theorem rowOf_getElem? (f : Nat → α) (i : Nat) (h : i < 32) : (rowOf f)[i]? = some (f i) := by
  simp [rowOf, laneOrder, h]

theorem rowOf_getD (f : Nat → α) (i : Nat) (a : α) (h : i < 32) : (rowOf f).getD i a = f i := by
  simp [List.getD_eq_getElem?_getD, rowOf_getElem? f i h]

theorem rowOf_congr (f g : Nat → α) (h : ∀ i, i < 32 → f i = g i) : rowOf f = rowOf g := by
  apply List.map_congr_left
  intro i hi
  exact h i (by simpa [laneOrder] using hi)

/-- The bits of a mask made of a test. -/
@[simp] theorem maskOf_getLsbD (f : Nat → Bool) (i : Nat) : (maskOf f).getLsbD i = (decide (i < 32) && f i) := by
  have key : ∀ (l : List Nat) (m : Lanes), (l.foldl (fun m i => if f i then m ||| (1#32 <<< i) else m) m).getLsbD i
      = (m.getLsbD i || (decide (i < 32) && l.contains i && f i)) := by
    intro l
    induction l with
    | nil => intro m; simp
    | cons a t ih =>
      intro m
      rw [List.foldl_cons, ih]
      by_cases ha : i = a
      · subst ha
        by_cases hf : f i <;> by_cases h32 : i < 32 <;> simp [hf, h32]
      · by_cases hf : f a
        · by_cases h32 : i < 32
          · by_cases hl : i < a
            · simp [hf, ha, h32, hl]
            · have h0 : ¬i - a = 0 := by omega
              simp [hf, ha, h32, hl, h0]
          · simp [hf, ha, h32]
        · simp [hf, ha]
  rw [maskOf, key]
  by_cases h32 : i < 32 <;> simp [h32, laneOrder]

end Sys2Proof.Machine
end

