-- ==== Sys2Proof/Laws/Operands.lean ====
section
/-! SUPPORT. Laws of the operand forms: what a field that can be read or written resolves to, and what a result leaves. -/

namespace Sys2Proof.Machine

variable {h : Here} {s : State}

theorem Issuing.notScouting (hi : Issuing s h) : h.scouting = false := by
  simp [Here.scouting, hi.noScout]

theorem Issuing.performing (hi : Issuing s h) (p : BitVec 3) : h.performing p = .ok (h.perf p) := by
  simp [Here.performing, hi.notScouting]

/-- What an issue of a state with a live issuer does with an instruction that completes. -/
theorem perform_ok (hi : Issuing s h) {k : Here → Except Stop State} {t : State} (hk : k h = .ok t) :
    perform s k = .next (settle h t) := by
  simp [perform, hi.here, hk]

/-- What it does with one that stops. -/
theorem perform_error (hi : Issuing s h) {k : Here → Except Stop State} {e : Stop} (hk : k h = .error e) :
    perform s k = .next (refrain h s e) := by
  simp [perform, hi.here, hk]

/-- A stop that reports nothing more, and is not issued again. -/
theorem refrain_eq {e : Stop} (hr : e.reported h s = e) (ha : e.again = false) : refrain h s e = settle h (stopped h s e) := by
  simp [refrain, hr, ha]
/-- A stop that is issued again. -/
theorem refrain_again {e : Stop} (hr : e.reported h s = e) (ha : e.again = true) : refrain h s e = stopped h s e := by
  simp [refrain, hr, ha]
theorem reported_trap {cause : Nat} {info : Quad} (hc : cause ≠ 1) : (Stop.trap cause info).reported h s = .trap cause info := by
  unfold Stop.reported
  split
  · rename_i he; simp at he; omega
  · rfl

theorem performLate_ok (hi : Issuing s h) {k : Here → Except Stop State} {t : State} (hk : k h = .ok t) :
    performLate s k = .next (settle h (syncTime h s t)) := by
  unfold performLate; exact perform_ok hi (by rw [hk]; rfl)
theorem performLate_error (hi : Issuing s h) {k : Here → Except Stop State} {e : Stop} (hk : k h = .error e) :
    performLate s k = .next (refrain h s e) := by
  unfold performLate; exact perform_error hi (by rw [hk]; rfl)

/-! ## Sources -/

theorem resolve_ready {c : Nat} (hc : h.ready c) : h.resolve c = .ok (h.regOf c) := by
  obtain ⟨hw, hp⟩ := hc
  have h2 : (h.w.pending.any fun p => p.2.writes.any fun x => x.sup == h.i.sup && x.reg == h.regOf c) = false := by
    rw [List.any_eq_false]
    intro p hpm
    rw [Bool.not_eq_true, List.any_eq_false]
    intro x hx
    simpa using hp p hpm x hx
  unfold Here.resolve
  have h1 : (if h.i.sup = true then decide (32 ≤ c)
      else decide ((h.g.hdr.winOf h.i.fibre).2 ≤ if h.i.sup = true then c else h.f.wbase + c)) = false := by
    cases hs : h.i.sup <;> simp_all
  simp only [Here.regOf] at h2 ⊢
  simp only [h1, h2]
  simp

theorem readReg_sound {c : Nat} (hc : h.ready c) (hs : h.sound c) : h.readReg c = .ok (h.regSrc (h.regOf c)) := by
  have : h.poisoned (h.regOf c) = false := hs
  simp [Here.readReg, resolve_ready hc, this, Bind.bind, Except.bind]

theorem srcUOk_canRead {c : BitVec 7} {u : Bool} {lit : Option Word} (hc : h.canRead c u lit) : h.srcUOk c u lit = true := by
  cases u
  · simp only [Here.canRead, Bool.false_eq_true, if_false, FieldOk] at hc
    obtain ⟨⟨h1, _⟩ | ⟨h1, h2⟩, _⟩ := hc
    · simp [Here.srcUOk, srcOk, h1]
    · simp [Here.srcUOk, srcOk, h1, h2]
  · simp only [Here.canRead, if_true] at hc
    simp [Here.srcUOk, Here.sregOk, hc]

theorem srcOk_canRead {c : BitVec 7} {lit : Option Word} (hc : h.canRead c false lit) : srcOk c lit = true := by
  simpa [Here.srcUOk] using srcUOk_canRead hc

/-- What a source that can be read is: its values, and no invalid half outside scout mode. -/
structure Reads {α : Type} (x : Src α) (val : Nat → α) : Prop where
  val  : x.val = val
  low  : x.low = fun _ => false
  high : x.high = fun _ => false

theorem Reads.bad {α : Type} {x : Src α} {v : Nat → α} (r : Reads x v) : x.bad = fun _ => false := by
  funext i; simp [Src.bad, r.low, r.high]

theorem Issuing.lowMark (hi : Issuing s h) (r : Nat) : h.lowMark r = fun _ => false := by
  funext i; simp [Here.lowMark, hi.noScout]
theorem Issuing.highMark (hi : Issuing s h) (r : Nat) : h.highMark r = fun _ => false := by
  funext i; simp [Here.highMark, hi.noScout]
theorem Issuing.sMark (hi : Issuing s h) (n : Nat) : h.sMark n = false := by
  simp [Here.sMark, hi.noScout]
theorem Issuing.mMark (hi : Issuing s h) (m : Nat) : h.mMark m = fun _ => false := by
  funext i; simp [Here.mMark, hi.noScout]

theorem Issuing.regSrc (hi : Issuing s h) (r : Nat) : Reads (h.regSrc r) (h.reg r) :=
  ⟨rfl, hi.lowMark r, hi.highMark r⟩
theorem Issuing.sSrc (hi : Issuing s h) (n : Nat) : Reads (h.sSrc n) (fun _ => h.sreg n) :=
  ⟨rfl, funext fun _ => hi.sMark n, funext fun _ => hi.sMark n⟩

theorem src_canRead (hi : Issuing s h) {c : BitVec 7} {lit : Option Word} (hc : h.canRead c false lit) :
    ∃ x, h.src c lit = .ok x ∧ Reads x (h.word c false lit) := by
  simp only [Here.canRead, Bool.false_eq_true, if_false] at hc
  by_cases h120 : c.toNat < 120
  · have := hi.regSrc (h.regOf c.toNat)
    refine ⟨h.regSrc (h.regOf c.toNat), by simp [Here.src, h120, readReg_sound (hc.2 h120).1 (hc.2 h120).2], ?_, this.low, this.high⟩
    funext i; simp [Here.word, h120, Here.regSrc]
  · cases lit with
    | some x => exact ⟨{ val := fun _ => x }, by simp [Here.src, h120], by funext i; simp [Here.word, h120], rfl, rfl⟩
    | none =>
      exact ⟨{ val := fun i => BitVec.ofNat 32 (h.special c.toNat i) }, by simp [Here.src, h120],
        by funext i; simp [Here.word, h120], rfl, rfl⟩

theorem srcU_canRead (hi : Issuing s h) {c : BitVec 7} {u : Bool} {lit : Option Word} (hc : h.canRead c u lit) :
    ∃ x, h.srcU c u lit = .ok x ∧ Reads x (h.word c u lit) := by
  cases u
  · simpa [Here.srcU] using src_canRead hi hc
  · have := hi.sSrc c.toNat
    exact ⟨h.sSrc c.toNat, by simp [Here.srcU], by funext i; simp [Here.word, Here.sSrc], this.low, this.high⟩

theorem pairUOk_canRead64 {c : BitVec 7} {u : Bool} {lit : Option Word} (hc : h.canRead64 c u lit) : h.pairUOk c u lit = true := by
  cases u
  · simp only [Here.canRead64, Bool.false_eq_true, if_false] at hc
    have h1 : h.srcUOk c false lit = true := by
      obtain ⟨⟨h1, _⟩ | ⟨h1, h2⟩, _⟩ := hc
      · simp [Here.srcUOk, srcOk, h1]
      · simp [Here.srcUOk, srcOk, h1, h2]
    simp only [Here.pairUOk, h1, evenOk, Bool.true_and, Bool.false_eq_true, if_false, Bool.or_eq_true, decide_eq_true_eq, beq_iff_eq]
    by_cases h120 : c.toNat < 120
    · exact .inr (hc.2 h120).1
    · exact .inl (by omega)
  · simp only [Here.canRead64, if_true] at hc
    simp [Here.pairUOk, Here.srcUOk, Here.sregOk, hc]

theorem src64_canRead (hi : Issuing s h) {c : BitVec 7} {u : Bool} {lit : Option Word} (hc : h.canRead64 c u lit) :
    ∃ x, h.src64 c u lit = .ok x ∧ Reads x (h.quad c u lit) := by
  cases u
  · simp only [Here.canRead64, Bool.false_eq_true, if_false] at hc
    by_cases h120 : c.toNat < 120
    · obtain ⟨_, ha, hb, hx, hy⟩ := hc.2 h120
      have x := hi.regSrc (h.regOf c.toNat)
      have y := hi.regSrc (h.regOf (c.toNat + 1))
      refine ⟨pairSrc (h.regSrc (h.regOf c.toNat)) (h.regSrc (h.regOf (c.toNat + 1))), ?_, ?_, ?_, rfl⟩
      · simp [Here.src64, h120, readReg_sound ha hx, readReg_sound hb hy, Bind.bind, Except.bind]
      · funext i; simp [Here.quad, h120, pairSrc, Here.regSrc, pair]
      · funext i; simp [pairSrc, x.bad, y.bad]
    · cases lit with
      | some x => exact ⟨{ val := fun _ => x.signExtend 64 }, by simp [Here.src64, h120], by funext i; simp [Here.quad, h120], rfl, rfl⟩
      | none =>
        exact ⟨{ val := fun i => BitVec.ofNat 64 (h.special c.toNat i) }, by simp [Here.src64, h120],
          by funext i; simp [Here.quad, h120], rfl, rfl⟩
  · have x := hi.sSrc c.toNat
    have y := hi.sSrc (c.toNat + 1)
    exact ⟨pairSrc (h.sSrc c.toNat) (h.sSrc (c.toNat + 1)), by simp [Here.src64], by funext i; simp [Here.quad, pairSrc, Here.sSrc, pair],
      by funext i; simp [pairSrc, x.bad, y.bad], rfl⟩

theorem evenOk_canRead64 {c : BitVec 7} {lit : Option Word} (hc : h.canRead64 c false lit) : evenOk c = true := by
  have := pairUOk_canRead64 hc
  simp [Here.pairUOk] at this
  exact this.2
theorem srcOk_canRead64 {c : BitVec 7} {lit : Option Word} (hc : h.canRead64 c false lit) : srcOk c lit = true := by
  have := pairUOk_canRead64 hc
  simp [Here.pairUOk, Here.srcUOk] at this
  exact this.1

/-! ## Destinations -/

theorem dstOk_canWrite {c : BitVec 7} (hc : h.canWrite c) : dstOk c = true := by simp [dstOk, hc.1]
theorem dst64Ok_canWrite64 {c : BitVec 7} (hc : h.canWrite64 c) : dst64Ok c = true := by
  simp only [dst64Ok, dstOk, hc.1, decide_true, Bool.true_and, evenOk, Bool.or_eq_true, decide_eq_true_eq, beq_iff_eq]
  by_cases h120 : c.toNat < 120
  · exact .inr (hc.2 h120).1
  · exact .inl (by omega)

theorem dst_canWrite {c : BitVec 7} (hc : h.canWrite c) :
    h.dst c = .ok (if c.toNat < 120 then some (h.regOf c.toNat) else none) := by
  by_cases h120 : c.toNat < 120
  · simp [Here.dst, h120, resolve_ready (hc.2 h120), Except.map]
  · simp [Here.dst, h120]

theorem dstN_canWrite64 {c : BitVec 7} (hc : h.canWrite64 c) :
    h.dstN c 2 = .ok (if c.toNat < 120 then [h.regOf c.toNat, h.regOf (c.toNat + 1)] else []) := by
  by_cases h120 : c.toNat < 120
  · obtain ⟨_, ha, hb⟩ := hc.2 h120
    have : List.range 2 = [0, 1] := rfl
    simp [Here.dstN, h120, this, resolve_ready ha, resolve_ready hb, Bind.bind, Except.bind, pure, Except.pure]
  · simp [Here.dstN, h120]

theorem oldDst_canUpdate (hi : Issuing s h) {c : BitVec 7} (hc : h.canUpdate c) :
    ∃ x, h.oldDst c = .ok x ∧ Reads x (fun i => if c.toNat < 120 then h.reg (h.regOf c.toNat) i else 0) := by
  by_cases h120 : c.toNat < 120
  · have := hi.regSrc (h.regOf c.toNat)
    exact ⟨h.regSrc (h.regOf c.toNat), by simp [Here.oldDst, h120, readReg_sound (hc.1.2 h120) (hc.2 h120)],
      by simp [h120, Here.regSrc], this.low, this.high⟩
  · exact ⟨{ val := fun _ => 0 }, by simp [Here.oldDst, h120], by simp [h120], rfl, rfl⟩

/-! ## What is left -/

theorem changed_changed (w w' : Wave → Wave) (f f' : Fibre → Fibre)
    (hw : ∀ x, (w' x).fibres = x.fibres) (hc : ∀ (x : Wave) l, w' { x with fibres := l } = { w' x with fibres := l }) :
    h.changed (h.changed s w f) w' f' = h.changed s (fun x => w' (w x)) fun x => f' (f x) := by
  unfold Here.changed
  rw [upd_upd]
  have : (fun x : Wave => ({ w' { w x with fibres := modAt (w x).fibres h.i.fibre f } with
      fibres := modAt (w' { w x with fibres := modAt (w x).fibres h.i.fibre f }).fibres h.i.fibre f' } : Wave))
      = fun x => { w' (w x) with fibres := modAt (w' (w x)).fibres h.i.fibre fun y => f' (f y) } := by
    funext x
    rw [hc, hw (w x), modAt_modAt]
  rw [← this]

/-- A write of one register outside scout mode. -/
theorem writeReg_eq (hi : Issuing s h) (t : State) (r : Nat) (lanes : Lanes) (val : Nat → Word) (low high : Nat → Bool) :
    writeReg h t r lanes val low high = h.changed t (fun w => h.written w { reg := r, lanes, val }) fun x => x := by
  have hn := hi.notScouting
  unfold writeReg Here.changed modWave Here.written
  simp only [hn, Bool.false_and, Bool.false_eq_true, if_false, modAt_id]
  cases h.i.sup <;> rfl

theorem advance_eq (t : State) :
    advance h t = h.changed t (fun x => x) fun f => f.standsAt h.i.lanes fun _ => h.i.next := rfl

theorem written_fibres (w : Wave) (x : RegWrite) : (h.written w x).fibres = w.fibres := by
  unfold Here.written; dsimp only; split <;> rfl
theorem written_with (w : Wave) (l : List Fibre) (x : RegWrite) :
    h.written { w with fibres := l } x = { h.written w x with fibres := l } := by
  unfold Here.written; dsimp only; split <;> rfl

theorem advance_changed (t : State) (w : Wave → Wave) :
    advance h (h.changed t w fun x => x) = h.changed t w fun f => f.standsAt h.i.lanes fun _ => h.i.next := by
  rw [advance_eq, changed_changed (w' := fun x => x) (hw := fun _ => rfl) (hc := fun _ _ => rfl)]

theorem advance_put32 (hi : Issuing s h) (t : State) (c : BitVec 7) (lanes : Lanes) (x : Src Word) :
    advance h (put32 h t (if c.toNat < 120 then some (h.regOf c.toNat) else none) lanes x) = h.done t (h.into c lanes x.val) := by
  by_cases h120 : c.toNat < 120
  · simp only [h120, if_true, put32, writeReg_eq hi, advance_changed, Here.done, Here.doneWith, Here.into, List.foldl]
  · simp only [h120, if_false, put32, advance_eq, Here.done, Here.doneWith, Here.into, List.foldl]

theorem high_eq (q : Quad) : q.high = (q >>> 32).setWidth 32 := by
  apply BitVec.eq_of_getLsbD_eq
  intro i hi
  simp [Quad.high, hi]

theorem advance_put64 (hi : Issuing s h) (t : State) (c : BitVec 7) (lanes : Lanes) (x : Src Quad) :
    advance h (put64 h t (if c.toNat < 120 then [h.regOf c.toNat, h.regOf (c.toNat + 1)] else []) lanes x)
      = h.done t (h.into64 c lanes x.val) := by
  by_cases h120 : c.toNat < 120
  · simp only [h120, if_true, put64, writeReg_eq hi]
    rw [changed_changed _ _ _ _ (fun _ => written_fibres _ _) (fun _ _ => written_with _ _ _), advance_changed]
    simp only [Here.done, Here.doneWith, Here.into64, h120, if_true, List.foldl, high_eq, Quad.low]
  · simp only [h120, if_false, put64, advance_eq, Here.done, Here.doneWith, Here.into64, List.foldl]

theorem mixMask_eq (lanes : Lanes) (new : Nat → Bool) (old : Lanes) :
    (old &&& ~~~lanes) ||| (maskOf new &&& lanes) = mixMask lanes new old := by
  apply BitVec.eq_of_getLsbD_eq
  intro i hi
  simp only [mixMask, maskOf_getLsbD, BitVec.getLsbD_or, BitVec.getLsbD_and, BitVec.getLsbD_not, hi, decide_true, Bool.true_and]
  cases lanes.getLsbD i <;> simp

theorem advance_fibre (t : State) (g : Fibre → Fibre) (hg : ∀ f l p, (g f).standsAt l p = g (f.standsAt l p)) :
    advance h (modFibre t h.i.wave h.i.fibre g) = h.doneWith t g [] := by
  have : modFibre t h.i.wave h.i.fibre g = h.changed t (fun x => x) g := rfl
  rw [this, advance_eq, changed_changed (w' := fun x => x) (hw := fun _ => rfl) (hc := fun _ _ => rfl)]
  simp only [hg, Here.doneWith, List.foldl]

theorem advance_wave (t : State) (g : Wave → Wave) :
    advance h (modWave t h.i.wave g) = h.changed t g fun f => f.standsAt h.i.lanes fun _ => h.i.next := by
  rw [← advance_changed]
  congr 1
  simp only [modWave, Here.changed, modAt_id]

theorem advance_writeMask (hi : Issuing s h) (t : State) (m : Nat) (lanes : Lanes) (new bad : Nat → Bool) :
    advance h (writeMask h t m lanes new bad) = h.doneMask t m lanes new := by
  have hn := hi.notScouting
  unfold writeMask Here.doneMask
  simp only [hn, Bool.false_eq_true, if_false, mixMask_eq]
  split
  · exact advance_wave _ _
  · exact advance_fibre _ _ fun _ _ _ => rfl

theorem advance_writeS (hi : Issuing s h) (t : State) (n : Nat) (x : Word) (bad : Bool) :
    advance h (writeS h t n x bad) = h.doneS t n x := by
  have hn := hi.notScouting
  unfold writeS Here.doneS
  simp only [hn, Bool.false_eq_true, if_false]
  split
  · exact advance_wave _ _
  · exact advance_fibre _ _ fun _ _ _ => rfl

end Sys2Proof.Machine
end

