-- ==== Sys2Proof/Laws/IntForms.lean ====
section
/-! SUPPORT. What each form of the integer instructions does when its fields can be read and written. -/

namespace Sys2Proof.Machine

variable {h : Here} {s : State}

theorem map2_val {α β γ : Type} {f : α → β → γ} {x : Src α} {y : Src β} {a : Nat → α} {b : Nat → β} (hx : Reads x a) (hy : Reads y b) :
    (Src.map2 f x y).val = fun i => f (a i) (b i) := by simp [Src.map2, hx.val, hy.val]
theorem map_val {α β : Type} {f : α → β} {x : Src α} {a : Nat → α} (hx : Reads x a) :
    (x.map f).val = fun i => f (a i) := by simp [Src.map, hx.val]
theorem map3_val {α β γ δ : Type} {f : α → β → γ → δ} {x : Src α} {y : Src β} {z : Src γ} {a : Nat → α} {b : Nat → β} {c : Nat → γ}
    (hx : Reads x a) (hy : Reads y b) (hz : Reads z c) : (Src.map3 f x y z).val = fun i => f (a i) (b i) (c i) := by
  simp [Src.map3, hx.val, hy.val, hz.val]

theorem triForm_done (f : Word → Word → Word) (o : Tri) (hi : Issuing s h) (ha : h.canRead o.a false none)
    (hb : h.canRead o.b o.u o.lit) (hd : h.canWrite o.dst) :
    triForm f o s = .next (settle h (h.done s (h.into o.dst (h.perf o.p) fun i => f (h.word o.a false none i) (h.word o.b o.u o.lit i)))) := by
  obtain ⟨x, hx, rx⟩ := src_canRead hi ha
  obtain ⟨y, hy, ry⟩ := srcU_canRead hi hb
  refine perform_ok hi ?_
  simp only [srcOk_canRead ha, srcUOk_canRead hb, dstOk_canWrite hd, Bool.and_self, orIllegal, if_true, hi.performing,
    dst_canWrite hd, hx, hy, Bind.bind, Except.bind, advance_put32 hi, map2_val rx ry]

theorem triAccForm_done (f : Word → Word → Word → Word) (o : Tri) (hi : Issuing s h) (ha : h.canRead o.a false none)
    (hb : h.canRead o.b o.u o.lit) (hd : h.canUpdate o.dst) :
    triAccForm f o s = .next (settle h (h.done s (h.into o.dst (h.perf o.p) fun i =>
      f (h.word o.a false none i) (h.word o.b o.u o.lit i) (h.reg (h.regOf o.dst.toNat) i)))) := by
  obtain ⟨x, hx, rx⟩ := src_canRead hi ha
  obtain ⟨y, hy, ry⟩ := srcU_canRead hi hb
  obtain ⟨z, hz, rz⟩ := oldDst_canUpdate hi hd
  refine perform_ok hi ?_
  simp only [srcOk_canRead ha, srcUOk_canRead hb, dstOk_canWrite hd.1, Bool.and_self, orIllegal, if_true, hi.performing,
    dst_canWrite hd.1, hx, hy, hz, Bind.bind, Except.bind, advance_put32 hi, map3_val rx ry rz]
  by_cases h120 : o.dst.toNat < 120 <;> simp [Here.into, h120]

theorem quadForm_done (f : Quad → Quad → Quad) (o : Tri) (hi : Issuing s h) (ha : h.canRead64 o.a false none)
    (hb : h.canRead64 o.b o.u o.lit) (hd : h.canWrite64 o.dst) :
    quadForm f o s = .next (settle h (h.done s (h.into64 o.dst (h.perf o.p) fun i => f (h.quad o.a false none i) (h.quad o.b o.u o.lit i)))) := by
  obtain ⟨x, hx, rx⟩ := src64_canRead hi ha
  obtain ⟨y, hy, ry⟩ := src64_canRead hi hb
  refine perform_ok hi ?_
  simp only [srcOk_canRead64 ha, evenOk_canRead64 ha, pairUOk_canRead64 hb, dst64Ok_canWrite64 hd, Bool.and_self, orIllegal, if_true,
    hi.performing, dstN_canWrite64 hd, hx, hy, Bind.bind, Except.bind, advance_put64 hi, map2_val rx ry]

theorem quadWordForm_done (f : Quad → Word → Quad) (o : Tri) (hi : Issuing s h) (ha : h.canRead64 o.a false none)
    (hb : h.canRead o.b o.u o.lit) (hd : h.canWrite64 o.dst) :
    quadWordForm f o s = .next (settle h (h.done s (h.into64 o.dst (h.perf o.p) fun i => f (h.quad o.a false none i) (h.word o.b o.u o.lit i)))) := by
  obtain ⟨x, hx, rx⟩ := src64_canRead hi ha
  obtain ⟨y, hy, ry⟩ := srcU_canRead hi hb
  refine perform_ok hi ?_
  simp only [srcOk_canRead64 ha, evenOk_canRead64 ha, srcUOk_canRead hb, dst64Ok_canWrite64 hd, Bool.and_self, orIllegal, if_true,
    hi.performing, dstN_canWrite64 hd, hx, hy, Bind.bind, Except.bind, advance_put64 hi, map2_val rx ry]

theorem wideForm_done (f : Word → Word → Quad) (o : Tri) (hi : Issuing s h) (ha : h.canRead o.a false none)
    (hb : h.canRead o.b o.u o.lit) (hd : h.canWrite64 o.dst) :
    wideForm f o s = .next (settle h (h.done s (h.into64 o.dst (h.perf o.p) fun i => f (h.word o.a false none i) (h.word o.b o.u o.lit i)))) := by
  obtain ⟨x, hx, rx⟩ := src_canRead hi ha
  obtain ⟨y, hy, ry⟩ := srcU_canRead hi hb
  refine perform_ok hi ?_
  simp only [srcOk_canRead ha, srcUOk_canRead hb, dst64Ok_canWrite64 hd, Bool.and_self, orIllegal, if_true, hi.performing,
    dstN_canWrite64 hd, hx, hy, Bind.bind, Except.bind, advance_put64 hi, map2_val rx ry]

theorem immForm_done (f : Word → Word) (dst a : BitVec 7) (p : BitVec 3) (hi : Issuing s h) (ha : h.canRead a false none)
    (hd : h.canWrite dst) :
    immForm f dst a p s = .next (settle h (h.done s (h.into dst (h.perf p) fun i => f (h.word a false none i)))) := by
  obtain ⟨x, hx, rx⟩ := src_canRead hi ha
  refine perform_ok hi ?_
  simp only [srcOk_canRead ha, dstOk_canWrite hd, Bool.and_self, orIllegal, if_true, hi.performing,
    dst_canWrite hd, hx, Bind.bind, Except.bind, advance_put32 hi, map_val rx]

theorem duoForm_done (f : Word → Word) (o : Duo) (hi : Issuing s h) (ha : h.canRead o.a o.u o.lit) (hd : h.canWrite o.dst) :
    duoForm f o s = .next (settle h (h.done s (h.into o.dst (h.perf o.p) fun i => f (h.word o.a o.u o.lit i)))) := by
  obtain ⟨x, hx, rx⟩ := srcU_canRead hi ha
  refine perform_ok hi ?_
  simp only [srcUOk_canRead ha, dstOk_canWrite hd, Bool.and_self, orIllegal, if_true, hi.performing,
    dst_canWrite hd, hx, Bind.bind, Except.bind, advance_put32 hi, map_val rx]

theorem duoQuadForm_done (f : Quad → Quad) (o : Duo) (hi : Issuing s h) (ha : h.canRead64 o.a o.u o.lit) (hd : h.canWrite64 o.dst) :
    duoQuadForm f o s = .next (settle h (h.done s (h.into64 o.dst (h.perf o.p) fun i => f (h.quad o.a o.u o.lit i)))) := by
  obtain ⟨x, hx, rx⟩ := src64_canRead hi ha
  refine perform_ok hi ?_
  simp only [pairUOk_canRead64 ha, dst64Ok_canWrite64 hd, Bool.and_self, orIllegal, if_true, hi.performing,
    dstN_canWrite64 hd, hx, Bind.bind, Except.bind, advance_put64 hi, map_val rx]

theorem maskForm_done (f : Bool → Bool → Bool) (o : MaskTri) (hi : Issuing s h) (hd : o.dst.toNat < 8) (ha : o.a.toNat < 8)
    (hb : o.b.toNat < 8) :
    maskForm f o s = .next (settle h (h.doneMask s o.dst.toNat (h.perf o.p) fun i =>
      f ((h.mask o.a.toNat).getLsbD i) ((h.mask o.b.toNat).getLsbD i))) := by
  refine perform_ok hi ?_
  simp only [maskOk, hd, ha, hb, decide_true, Bool.and_self, orIllegal, if_true, hi.performing, Bind.bind, Except.bind,
    advance_writeMask hi]
  rfl

theorem cmpForm_done (sgn : Bool) (o : Cmp) (hi : Issuing s h) (hc : o.cond ≠ 7) (ha : h.canRead o.a false none)
    (hb : h.canRead o.b o.u o.lit) :
    cmpForm sgn o s = .next (settle h (h.doneMask s o.mask.toNat (h.perf o.p) fun i =>
      let r := intCond sgn 32 o.cond (h.word o.a false none i).toNat (h.word o.b o.u o.lit i).toNat
      if o.acc then (h.mask o.mask.toNat).getLsbD i && r else r)) := by
  obtain ⟨x, hx, rx⟩ := src_canRead hi ha
  obtain ⟨y, hy, ry⟩ := srcU_canRead hi hb
  refine perform_ok hi ?_
  simp only [srcOk_canRead ha, srcUOk_canRead hb, bne_iff_ne.mpr hc, Bool.and_self, orIllegal, if_true, hi.performing, hx, hy,
    Bind.bind, Except.bind, putTruth, advance_writeMask hi, rx.val, ry.val]

theorem cmp64Form_done (sgn : Bool) (o : Cmp) (hi : Issuing s h) (hc : o.cond ≠ 7) (ha : h.canRead64 o.a false none)
    (hb : h.canRead64 o.b o.u o.lit) :
    cmp64Form sgn o s = .next (settle h (h.doneMask s o.mask.toNat (h.perf o.p) fun i =>
      let r := intCond sgn 64 o.cond (h.quad o.a false none i).toNat (h.quad o.b o.u o.lit i).toNat
      if o.acc then (h.mask o.mask.toNat).getLsbD i && r else r)) := by
  obtain ⟨x, hx, rx⟩ := src64_canRead hi ha
  obtain ⟨y, hy, ry⟩ := src64_canRead hi hb
  refine perform_ok hi ?_
  simp only [srcOk_canRead64 ha, evenOk_canRead64 ha, pairUOk_canRead64 hb, bne_iff_ne.mpr hc, Bool.and_self, orIllegal, if_true,
    hi.performing, hx, hy, Bind.bind, Except.bind, putTruth, advance_writeMask hi, rx.val, ry.val]

end Sys2Proof.Machine
end

