-- ==== Sys2Proof/Laws/Control.lean ====
section
/-! SUPPORT. What transfers of control do. -/

namespace Sys2Proof.Machine

variable {h : Here} {s : State}

theorem branchTarget_eq (off : BitVec 16) : branchTarget h off = h.i.opc + 2 * off.signExtend 64 := by
  unfold branchTarget
  rw [BitVec.shiftLeft_eq_mul_twoPow, BitVec.mul_comm]
  rfl

/-- Even targets in every performing lane raise no trap. -/
theorem oddTarget_even (m : Lanes) (t : Nat → Quad) (hp : ∀ i, i < 32 → m.getLsbD i → (t i).getLsbD 0 = false) :
    oddTarget m t = .ok () := by
  unfold oddTarget
  have : (lanesIn m).find? (fun i => (t i).getLsbD 0) = none := by
    rw [List.find?_eq_none]
    intro i hi
    simp only [lanesIn, laneOrder, List.mem_filter, List.mem_range] at hi
    rw [hp i hi.1 hi.2]
    exact Bool.false_ne_true
  rw [this]

theorem modFibre_eq (t : State) (g : Fibre → Fibre) : modFibre t h.i.wave h.i.fibre g = h.changed t (fun x => x) g := rfl

theorem modFibre_changed (t : State) (w : Wave → Wave) (f g : Fibre → Fibre) :
    modFibre (h.changed t w f) h.i.wave h.i.fibre g = h.changed t w fun x => g (f x) := by
  rw [modFibre_eq, changed_changed (w' := fun x => x) (hw := fun _ => rfl) (hc := fun _ _ => rfl)]

theorem transfer_changed (hi : Issuing s h) (t : State) (w : Wave → Wave) (lanes : Lanes) (kind : Nat) (target : Nat → Quad) :
    transfer h (h.changed t w fun x => x) lanes kind target =
      h.changed t w fun f => (f.standsAt h.i.lanes fun _ => h.i.next).went lanes target kind h.i.pc := by
  unfold transfer
  rw [advance_changed, modFibre_changed]
  simp only [hi.notScouting]
  rfl

theorem changed_id (s : State) : h.changed s (fun x => x) (fun x => x) = s := by
  unfold Here.changed
  simp only [modAt_id]
  simp [upd]

theorem transfer_eq (hi : Issuing s h) (t : State) (lanes : Lanes) (kind : Nat) (target : Nat → Quad) :
    transfer h t lanes kind target = h.doneWith t (·.went lanes target kind h.i.pc) [] := by
  have := transfer_changed hi t (fun x => x) lanes kind target
  rw [changed_id] at this
  exact this

theorem put64_changed (hi : Issuing s h) (t : State) (c : BitVec 7) (lanes : Lanes) (x : Src Quad) :
    put64 h t (if c.toNat < 120 then [h.regOf c.toNat, h.regOf (c.toNat + 1)] else []) lanes x
      = h.changed t (fun w => (h.into64 c lanes x.val).foldl h.written w) fun x => x := by
  by_cases h120 : c.toNat < 120
  · simp only [h120, if_true, put64, writeReg_eq hi]
    rw [changed_changed _ _ _ _ (fun _ => written_fibres _ _) (fun _ _ => written_with _ _ _)]
    simp only [Here.into64, h120, if_true, List.foldl, high_eq, Quad.low]
  · simp only [h120, if_false, put64, Here.into64, List.foldl, changed_id]

theorem put32_changed (hi : Issuing s h) (t : State) (c : BitVec 7) (lanes : Lanes) (x : Src Word) :
    put32 h t (if c.toNat < 120 then some (h.regOf c.toNat) else none) lanes x
      = h.changed t (fun w => (h.into c lanes x.val).foldl h.written w) fun x => x := by
  by_cases h120 : c.toNat < 120
  · simp only [h120, if_true, put32, writeReg_eq hi, Here.into, List.foldl]
  · simp only [h120, if_false, put32, Here.into, List.foldl, changed_id]

theorem jumpForm_done (kind : Nat) (o : Jump) (hi : Issuing s h) (ha : h.canRead64 o.a o.u o.lit)
    (he : ∀ i, i < 32 → (h.perf o.p).getLsbD i → (h.quad o.a o.u o.lit i).getLsbD 0 = false) :
    jumpForm kind o s = .next (settle h (h.doneWith s (·.went (h.perf o.p) (h.quad o.a o.u o.lit) kind h.i.pc) [])) := by
  obtain ⟨x, hx, rx⟩ := src64_canRead hi ha
  refine perform_ok hi ?_
  simp only [pairUOk_canRead64 ha, orIllegal, if_true, hi.performing, Bind.bind, Except.bind, hx, validTarget, hi.notScouting,
    Bool.false_and, Bool.false_eq_true, if_false]
  rw [rx.val, oddTarget_even _ _ he]
  simp only [transfer_eq hi]

end Sys2Proof.Machine
end

