-- ==== Sys2Proof/Laws/Numbers.lean ====
section
/-! SUPPORT. The bits that a rounding gives fit their format, so that the halves of a packed result do not touch. -/

namespace Sys2Proof.Machine

theorem Fmt.maxCode_lt (t : Fmt) : t.infCode < t.sign := by cases t <;> decide
theorem Fmt.infCode_eq (t : Fmt) : t.infCode = t.maxCode + 1 := rfl
theorem Fmt.sign_bits (t : Fmt) : 2 * t.sign = 2 ^ t.bits := by cases t <;> decide

theorem overflowCode_le (t : Fmt) (rm : Rm) (neg : Bool) : overflowCode t rm neg ≤ t.infCode := by
  have := t.infCode_eq
  cases rm <;> cases neg <;> simp [overflowCode] <;> omega

theorem ite_code_le (t : Fmt) (c o : Nat) (ho : o ≤ t.infCode) : (if t.maxCode < c then o else c) ≤ t.infCode := by
  have h2 := t.infCode_eq
  split <;> omega

theorem roundCode_le (t : Fmt) (rm : Rm) (neg : Bool) (n d : Nat) : roundCode t rm neg n d ≤ t.infCode := by
  have h1 := overflowCode_le t rm neg
  have h2 := t.infCode_eq
  unfold roundCode
  simp only
  split
  · exact h1
  · split
    · split
      · split <;> omega
      · split <;> omega
      · exact h1
    · exact ite_code_le t _ _ h1

/-- A value whose NaN payload, when it has one, lies in FP32's 22 payload bits (R74). -/
def Exact.Small : Exact → Prop
  | .nan (some p) => p < 2 ^ 22
  | _ => True

theorem nanBits_lt (t : Fmt) (neg : Bool) (p : Nat) (hp : p < 2 ^ 22) : nanBits t neg p < 2 ^ t.bits := by
  cases neg <;> cases t <;> simp [nanBits, bit, Fmt.infCode, Fmt.maxCode, Fmt.frac, Fmt.payloadShift, Fmt.sign, Fmt.bits] <;> omega

theorem saturate_le (t : Fmt) (sat : Bool) (c : Nat) (h : c ≤ t.infCode) : saturate t sat c ≤ t.infCode := by
  have := t.infCode_eq
  unfold saturate; split <;> omega

theorem roundTo_lt (t : Fmt) (rm : Rm) (sat : Bool) (x : Exact) (hx : x.Small) : roundTo t rm sat x < 2 ^ t.bits := by
  have hs := t.sign_bits
  have hm := t.maxCode_lt
  match x, hx with
  | .nan none, _ => cases t <;> simp [roundTo, Fmt.canonical, Fmt.bits]
  | .nan (some p), hp => exact nanBits_lt t false p hp
  | .inf s, _ =>
    have hb : bit s ≤ 1 := by cases s <;> decide
    have h1 : bit s * t.sign ≤ 1 * t.sign := Nat.mul_le_mul_right _ hb
    have h2 := saturate_le t sat t.infCode (Nat.le_refl _)
    simp only [roundTo]; omega
  | .fin s n d, _ =>
    have hb : bit s ≤ 1 := by cases s <;> decide
    have h1 : bit s * t.sign ≤ 1 * t.sign := Nat.mul_le_mul_right _ hb
    have h2 := saturate_le t sat _ (roundCode_le t rm s n d)
    simp only [roundTo]
    split <;> omega

theorem Fmt.value_small (t : Fmt) (x : Nat) : (t.value x).Small := by
  unfold Fmt.value
  simp only
  split
  · exact Nat.mod_lt _ (by decide)
  · split
    · trivial
    · trivial

theorem nanOf_small (x y : Exact) (hx : x.Small) (hy : y.Small) : ∀ z, nanOf [x, y] = some z → z.Small := by
  intro z hz
  cases x with
  | nan p =>
    cases y with
    | nan q =>
      cases p <;> cases q <;> simp [nanOf] at hz <;> subst hz <;> simp_all [Exact.Small] <;> omega
    | inf _ => simp [nanOf] at hz; subst hz; exact hx
    | fin _ _ _ => simp [nanOf] at hz; subst hz; exact hx
  | inf _ =>
    cases y with
    | nan q => simp [nanOf] at hz; subst hz; exact hy
    | inf _ => simp [nanOf] at hz
    | fin _ _ _ => simp [nanOf] at hz
  | fin _ _ _ =>
    cases y with
    | nan q => simp [nanOf] at hz; subst hz; exact hy
    | inf _ => simp [nanOf] at hz
    | fin _ _ _ => simp [nanOf] at hz

theorem Exact.negate_small (x : Exact) (hx : x.Small) : x.negate.Small := by
  cases x with
  | nan p => exact hx
  | inf _ => trivial
  | fin _ _ _ => trivial

theorem Exact.mul_small (x y : Exact) (hx : x.Small) (hy : y.Small) : (x.mul y).Small := by
  have := nanOf_small x y hx hy
  unfold Exact.mul
  split
  · rename_i z hz; exact this z hz
  · split
    · split <;> trivial
    · split <;> trivial
    · trivial
    · exact hx
    · exact hy

theorem Exact.add_small (down : Bool) (x y : Exact) (hx : x.Small) (hy : y.Small) : (x.add down y).Small := by
  have := nanOf_small x y hx hy
  unfold Exact.add
  split
  · rename_i z hz; exact this z hz
  · split
    · split <;> trivial
    · trivial
    · trivial
    · split
      · trivial
      · dsimp only; split <;> trivial
    · exact hx
    · exact hy

theorem Exact.div_small (x y : Exact) (hx : x.Small) (hy : y.Small) : (x.div y).Small := by
  have := nanOf_small x y hx hy
  unfold Exact.div
  split
  · rename_i z hz; exact this z hz
  · split
    · trivial
    · trivial
    · trivial
    · split
      · split <;> trivial
      · trivial
    · exact hx
    · exact hy

theorem Exact.sqrt_small (x : Exact) (hx : x.Small) : x.sqrt.Small := by
  unfold Exact.sqrt
  split
  · exact hx
  · split <;> trivial
  · split
    · trivial
    · split <;> trivial

theorem integral_small (rm : Rm) (x : Exact) (hx : x.Small) : (integral rm x).Small := by
  unfold integral
  split
  · trivial
  · exact hx

/-! ## Packed registers -/

/-- A register of two 16-bit halves put together from bits that fit. -/
theorem ofNat_halves (x y : Nat) (hx : x < 2 ^ 16) : BitVec.ofNat 32 (x + 2 ^ 16 * y) = BitVec.ofNat 16 y ++ BitVec.ofNat 16 x := by
  apply BitVec.eq_of_toNat_eq
  rw [BitVec.toNat_append, BitVec.toNat_ofNat, BitVec.toNat_ofNat, BitVec.toNat_ofNat, ← Nat.shiftLeft_add_eq_or_of_lt (Nat.mod_lt _ (by decide)),
    Nat.shiftLeft_eq]
  omega

end Sys2Proof.Machine
end

