-- ==== Sys2Proof/Laws/FloatForms.lean ====
section
/-! SUPPORT. What each form of the floating-point instructions does when its fields can be read and written. -/

namespace Sys2Proof.Machine

variable {h : Here} {s : State}

theorem markHalves_val (t : Fmt) (xs : List (Src Word)) (v : Nat → Word) : (markHalves t xs v).val = v := by
  cases t <;> rfl

theorem toNat_low (a : Word) : a.toNat % 2 ^ 16 = (a.extractLsb' 0 16).toNat := by simp
theorem toNat_high (a : Word) : a.toNat / 2 ^ 16 = (a.extractLsb' 16 16).toNat := by
  have := a.isLt
  simp [Nat.shiftRight_eq_div_pow]; omega

/-- Bits that fit the format make the halves of a packed result independent. -/
theorem lift3_halves (t : Fmt) (f : Nat → Nat → Nat → Nat) (a b c : Word)
    (hf : t ≠ .f32 → ∀ x y z, x < 2 ^ 16 → y < 2 ^ 16 → z < 2 ^ 16 → f x y z < 2 ^ 16) : lift3 t f a b c = halves t f a b c := by
  have hx (x : Word) : (x.extractLsb' 0 16).toNat < 2 ^ 16 := (x.extractLsb' 0 16).isLt
  cases t <;> first
    | rfl
    | (simp only [lift3, halves, reduceCtorEq, if_false, toNat_low, toNat_high]
       exact ofNat_halves _ _ (hf (by decide) _ _ _ (hx a) (hx b) (hx c)))
theorem lift2_halves (t : Fmt) (f : Nat → Nat → Nat) (a b c : Word)
    (hf : t ≠ .f32 → ∀ x y, x < 2 ^ 16 → y < 2 ^ 16 → f x y < 2 ^ 16) : lift2 t f a b = halves t (fun x y _ => f x y) a b c := by
  have : lift2 t f a b = lift3 t (fun x y _ => f x y) a b c := by cases t <;> rfl
  rw [this]
  exact lift3_halves t _ a b c fun ht x y _ hx hy _ => hf ht x y hx hy
theorem lift1_halves (t : Fmt) (f : Nat → Nat) (a b c : Word)
    (hf : t ≠ .f32 → ∀ x, x < 2 ^ 16 → f x < 2 ^ 16) : lift1 t f a = halves t (fun x _ _ => f x) a b c := by
  have : lift1 t f a = lift3 t (fun x _ _ => f x) a b c := by cases t <;> rfl
  rw [this]
  exact lift3_halves t _ a b c fun ht x _ _ hx _ _ => hf ht x hx

theorem rm_mode {rm : BitVec 3} {top : Nat} (ht : top ≤ 4) (hr : rm.toNat ≤ top) : h.rm top rm = .ok (h.mode rm) := by
  have h1 : ¬top < rm.toNat := by omega
  unfold Here.rm Here.mode
  rw [if_neg h1]
  have modes : ∀ x : BitVec 3, x.toNat ≤ 4 → x = 0 ∨ x = 1 ∨ x = 2 ∨ x = 3 ∨ x = 4 := by decide
  rcases modes rm (by omega) with rfl | rfl | rfl | rfl | rfl <;> rfl

theorem floatTri_done (t : Fmt) (f : Nat → Nat → Nat) (o : Tri) (hi : Issuing s h) (ha : h.canRead o.a false none)
    (hb : h.canRead o.b o.u o.lit) (hd : h.canWrite o.dst) :
    floatTri t f o s = .next (settle h (h.done s (h.into o.dst (h.perf o.p) fun i => lift2 t f (h.word o.a false none i) (h.word o.b o.u o.lit i)))) := by
  obtain ⟨x, hx, rx⟩ := src_canRead hi ha
  obtain ⟨y, hy, ry⟩ := srcU_canRead hi hb
  refine perform_ok hi ?_
  simp only [srcOk_canRead ha, srcUOk_canRead hb, dstOk_canWrite hd, Bool.and_self, orIllegal, if_true, hi.performing,
    dst_canWrite hd, hx, hy, Bind.bind, Except.bind, advance_put32 hi, markHalves_val, rx.val, ry.val]

theorem floatFma_done (t : Fmt) (o : Tri) (hi : Issuing s h) (ha : h.canRead o.a false none)
    (hb : h.canRead o.b o.u o.lit) (hd : h.canUpdate o.dst) :
    floatFma t o s = .next (settle h (h.done s (h.into o.dst (h.perf o.p) fun i =>
      lift3 t (fma t) (h.word o.a false none i) (h.word o.b o.u o.lit i) (h.reg (h.regOf o.dst.toNat) i)))) := by
  obtain ⟨x, hx, rx⟩ := src_canRead hi ha
  obtain ⟨y, hy, ry⟩ := srcU_canRead hi hb
  obtain ⟨z, hz, rz⟩ := oldDst_canUpdate hi hd
  refine perform_ok hi ?_
  simp only [srcOk_canRead ha, srcUOk_canRead hb, dstOk_canWrite hd.1, Bool.and_self, orIllegal, if_true, hi.performing,
    dst_canWrite hd.1, hx, hy, hz, Bind.bind, Except.bind, advance_put32 hi, markHalves_val, rx.val, ry.val, rz.val]
  by_cases h120 : o.dst.toNat < 120 <;> simp [Here.into, h120]

theorem floatCmp_done (t : Fmt) (o : Cmp) (hi : Issuing s h) (ha : h.canRead o.a false none) (hb : h.canRead o.b o.u o.lit) :
    floatCmp t o s = .next (settle h (h.doneMask s o.mask.toNat (h.perf o.p) fun i =>
      let r := floatCond t o.cond ((h.word o.a false none i).toNat % 2 ^ t.bits) ((h.word o.b o.u o.lit i).toNat % 2 ^ t.bits)
      if o.acc then (h.mask o.mask.toNat).getLsbD i && r else r)) := by
  obtain ⟨x, hx, rx⟩ := src_canRead hi ha
  obtain ⟨y, hy, ry⟩ := srcU_canRead hi hb
  refine perform_ok hi ?_
  simp only [srcOk_canRead ha, srcUOk_canRead hb, Bool.and_self, orIllegal, if_true, hi.performing, hx, hy,
    Bind.bind, Except.bind, putTruth, advance_writeMask hi, rx.val, ry.val]

theorem floatAcc_done (t : Fmt) (top : Nat) (f : Rm → Nat → Nat → Nat) (o : Flt) (hi : Issuing s h) (ht : top ≤ 4) (hr : o.rm.toNat ≤ top)
    (ha : h.canRead o.a o.u o.lit) (hd : h.canUpdate o.dst) :
    floatAcc t top f o s = .next (settle h (h.done s (h.into o.dst (h.perf o.p) fun i =>
      lift2 t (f (h.mode o.rm)) (h.reg (h.regOf o.dst.toNat) i) (h.word o.a o.u o.lit i)))) := by
  obtain ⟨x, hx, rx⟩ := srcU_canRead hi ha
  obtain ⟨z, hz, rz⟩ := oldDst_canUpdate hi hd
  refine perform_ok hi ?_
  simp only [rm_mode ht hr, srcUOk_canRead ha, dstOk_canWrite hd.1, Bool.and_self, orIllegal, if_true, hi.performing,
    dst_canWrite hd.1, hx, hz, Bind.bind, Except.bind, advance_put32 hi, markHalves_val, rx.val, rz.val]
  by_cases h120 : o.dst.toNat < 120 <;> simp [Here.into, h120]

theorem floatOne_done (t : Fmt) (f : Rm → Nat → Nat) (o : Flt) (hi : Issuing s h) (hr : o.rm.toNat ≤ 3)
    (ha : h.canRead o.a o.u o.lit) (hd : h.canWrite o.dst) :
    floatOne t f o s = .next (settle h (h.done s (h.into o.dst (h.perf o.p) fun i => lift1 t (f (h.mode o.rm)) (h.word o.a o.u o.lit i)))) := by
  obtain ⟨x, hx, rx⟩ := srcU_canRead hi ha
  refine perform_ok hi ?_
  simp only [rm_mode (h := h) (by decide : 3 ≤ 4) hr, srcUOk_canRead ha, dstOk_canWrite hd, Bool.and_self, orIllegal, if_true, hi.performing,
    dst_canWrite hd, hx, Bind.bind, Except.bind, advance_put32 hi, markHalves_val, rx.val]

theorem floatDuo_done (t : Fmt) (f : Nat → Nat) (o : Duo) (hi : Issuing s h) (ha : h.canRead o.a o.u o.lit) (hd : h.canWrite o.dst) :
    floatDuo t f o s = .next (settle h (h.done s (h.into o.dst (h.perf o.p) fun i => lift1 t f (h.word o.a o.u o.lit i)))) := by
  obtain ⟨x, hx, rx⟩ := srcU_canRead hi ha
  refine perform_ok hi ?_
  simp only [srcUOk_canRead ha, dstOk_canWrite hd, Bool.and_self, orIllegal, if_true, hi.performing,
    dst_canWrite hd, hx, Bind.bind, Except.bind, advance_put32 hi, markHalves_val, rx.val]

theorem floatSign_done (t : Fmt) (o : Duo) (hi : Issuing s h) (ha : h.canRead o.a o.u o.lit) (hd : h.canUpdate o.dst) :
    floatSign t o s = .next (settle h (h.done s (h.into o.dst (h.perf o.p) fun i =>
      lift2 t (fsgn t) (h.reg (h.regOf o.dst.toNat) i) (h.word o.a o.u o.lit i)))) := by
  obtain ⟨x, hx, rx⟩ := srcU_canRead hi ha
  obtain ⟨z, hz, rz⟩ := oldDst_canUpdate hi hd
  refine perform_ok hi ?_
  simp only [srcUOk_canRead ha, dstOk_canWrite hd.1, Bool.and_self, orIllegal, if_true, hi.performing,
    dst_canWrite hd.1, hx, hz, Bind.bind, Except.bind, advance_put32 hi, markHalves_val, rx.val, rz.val]
  by_cases h120 : o.dst.toNat < 120 <;> simp [Here.into, h120]

theorem narrowForm_done (t : Fmt) (o : CvtSat) (hi : Issuing s h) (hr : o.rm.toNat ≤ 4) (ha : h.canRead o.a o.u o.lit) (hd : h.canWrite o.dst) :
    narrowForm t o s = .next (settle h (h.done s (h.into o.dst (h.perf o.p) fun i =>
      BitVec.ofNat 32 (convert .f32 t (h.mode o.rm) o.sat (h.word o.a o.u o.lit i).toNat)))) := by
  obtain ⟨x, hx, rx⟩ := srcU_canRead hi ha
  refine perform_ok hi ?_
  simp only [rm_mode (h := h) (by decide : 4 ≤ 4) hr, srcUOk_canRead ha, dstOk_canWrite hd, Bool.and_self, orIllegal, if_true, hi.performing,
    dst_canWrite hd, hx, Bind.bind, Except.bind, advance_put32 hi, rx.val]

theorem widenForm_done (t : Fmt) (o : Duo) (hi : Issuing s h) (ha : h.canRead o.a o.u o.lit) (hd : h.canWrite o.dst) :
    widenForm t o s = .next (settle h (h.done s (h.into o.dst (h.perf o.p) fun i =>
      BitVec.ofNat 32 (convert t .f32 .rn false ((h.word o.a o.u o.lit i).toNat % 2 ^ t.bits))))) := by
  obtain ⟨x, hx, rx⟩ := srcU_canRead hi ha
  refine perform_ok hi ?_
  simp only [srcUOk_canRead ha, dstOk_canWrite hd, Bool.and_self, orIllegal, if_true, hi.performing,
    dst_canWrite hd, hx, Bind.bind, Except.bind, advance_put32 hi, rx.val]

theorem cvtForm_done (f : Rm → Word → Word) (o : Flt) (hi : Issuing s h) (hr : o.rm.toNat ≤ 3) (ha : h.canRead o.a o.u o.lit) (hd : h.canWrite o.dst) :
    cvtForm f o s = .next (settle h (h.done s (h.into o.dst (h.perf o.p) fun i => f (h.mode o.rm) (h.word o.a o.u o.lit i)))) := by
  obtain ⟨x, hx, rx⟩ := srcU_canRead hi ha
  refine perform_ok hi ?_
  simp only [rm_mode (h := h) (by decide : 3 ≤ 4) hr, srcUOk_canRead ha, dstOk_canWrite hd, Bool.and_self, orIllegal, if_true, hi.performing,
    dst_canWrite hd, hx, Bind.bind, Except.bind, advance_put32 hi, map_val rx]

theorem narrowIntForm_done (w : Nat) (o : CvtInt) (hi : Issuing s h) (ha : h.canRead o.a o.u o.lit) (hd : h.canWrite o.dst) :
    narrowIntForm w o s = .next (settle h (h.done s (h.into o.dst (h.perf o.p) fun i => narrowInt w o.sat (h.word o.a o.u o.lit i)))) := by
  obtain ⟨x, hx, rx⟩ := srcU_canRead hi ha
  refine perform_ok hi ?_
  simp only [srcUOk_canRead ha, dstOk_canWrite hd, Bool.and_self, orIllegal, if_true, hi.performing,
    dst_canWrite hd, hx, Bind.bind, Except.bind, advance_put32 hi, map_val rx]

end Sys2Proof.Machine
end

