-- ==== Sys2Proof/Laws/Issue.lean ====
section
/-! SUPPORT. How an asynchronous command issues: its operation put in flight, and nothing else changed. -/

namespace Sys2Proof.Machine

variable {s : State} {h : Here}

theorem firstAperture_isSome (rs : List (Nat × Nat)) : (firstAperture rs).isSome = reachesAperture rs := by
  unfold firstAperture reachesAperture
  induction rs with
  | nil => rfl
  | cons r t ih =>
    simp only [List.findSome?_cons, List.any_cons]
    have e : (((List.range r.2).map fun i => (r.1 + i) % 2 ^ 32).find? isAperture).isSome
        = (List.range r.2).any fun i => isAperture ((r.1 + i) % 2 ^ 32) := by
      rw [Bool.eq_iff_iff]; simp [List.find?_isSome]
    cases hx : ((List.range r.2).map fun i => (r.1 + i) % 2 ^ 32).find? isAperture with
    | none => rw [hx] at e; simp only [Option.isSome_none] at e; rw [← e, Bool.false_or]; exact ih
    | some v => rw [hx] at e; simp only [Option.isSome_some] at e; rw [← e]; rfl

theorem apertureStatus_eq (rs : List (Nat × Nat)) : apertureStatus rs = if reachesAperture rs then 14 else 0 := by
  simp [apertureStatus, firstAperture_isSome]

theorem barrierOperand_ok {x : Word} (hb : BarrierOk x) : barrierOperand x.toNat = .ok (barrierNamed x) := by
  unfold barrierOperand barrierNamed
  split
  · rfl
  · rename_i h1
    have : x.toNat % 16 = 0 := hb.resolve_left h1
    simp [this]

/-- What the issue of an asynchronous command leaves when it finds room (R106). -/
theorem startOp_issued (t : State) (kind : OpKind) (cls : Nat) (bar : Option Word) (status : Nat) (hr : h.room t cls) :
    startOp h t kind cls bar status = .ok (h.issued t kind cls bar status) := by
  obtain ⟨h1, h2, h3⟩ := hr
  unfold startOp
  rw [if_neg (by simpa [Fibre.count] using h1)]
  rw [if_neg (by simpa using h2)]
  rw [if_neg (by simpa using h3)]
  simp only [State.takeUid, bumpCount, advance_eq, Here.issued, modFibre, modWave, Here.changed, upd_upd, modAt_modAt, Fibre.count,
    Fibre.standsAt]
  have e : ∀ (l : List Nat) (c : Nat), (if c = cls then l.getD c 0 + 1 else l.getD c 0) = l.getD c 0 + if c = cls then 1 else 0 := by
    intro l c; split <;> rfl
  simp only [e]

end Sys2Proof.Machine
end

