-- ==== Sys2Proof/Laws/Memory.lean ====
section
/-! SUPPORT. Laws of memory: the canonical form of bytes by address, reading after writing, and accesses that are granted. -/

namespace Sys2Proof.Machine

/-! ## Bytes by address -/

theorem Memory.wfFrom_cons {lo k : Nat} {b : Byte} {t : Memory} :
    Memory.wfFrom lo ((k, b) :: t) = true ↔ (lo ≤ k ∧ b ≠ 0) ∧ Memory.wfFrom (k + 1) t = true := by
  simp only [Memory.wfFrom, Bool.and_eq_true, decide_eq_true_eq, bne_iff_ne]

theorem Memory.wfFrom_weaken {lo lo' : Nat} {m : Memory} (h : lo' ≤ lo) (hm : Memory.wfFrom lo m = true) : Memory.wfFrom lo' m = true := by
  cases m with
  | nil => rfl
  | cons p t =>
    rw [Memory.wfFrom_cons] at hm ⊢
    exact ⟨⟨by omega, hm.1.2⟩, hm.2⟩

theorem Memory.wfFrom_write (m : Memory) (lo a : Nat) (b : Byte) (hl : lo ≤ a) (hm : Memory.wfFrom lo m = true) :
    Memory.wfFrom lo (m.write a b) = true := by
  induction m generalizing lo with
  | nil =>
    simp only [Memory.write]
    split
    · rfl
    · rename_i hb; exact Memory.wfFrom_cons.mpr ⟨⟨hl, hb⟩, rfl⟩
  | cons p t ih =>
    obtain ⟨k, c⟩ := p
    have hm' := Memory.wfFrom_cons.mp hm
    simp only [Memory.write]
    split
    · rename_i hak
      split
      · exact hm
      · rename_i hb
        exact Memory.wfFrom_cons.mpr ⟨⟨hl, hb⟩, Memory.wfFrom_cons.mpr ⟨⟨hak, hm'.1.2⟩, hm'.2⟩⟩
    · split
      · split
        · exact Memory.wfFrom_weaken (by omega) hm'.2
        · rename_i hb; exact Memory.wfFrom_cons.mpr ⟨⟨hm'.1.1, hb⟩, hm'.2⟩
      · rename_i h1 h2
        exact Memory.wfFrom_cons.mpr ⟨hm'.1, ih (k + 1) (by omega) hm'.2⟩

/-- A write keeps the canonical form. -/
theorem Memory.wf_write (m : Memory) (a : Nat) (b : Byte) (hm : m.wf = true) : (m.write a b).wf = true :=
  Memory.wfFrom_write m 0 a b (Nat.zero_le _) hm

/-- A write of several bytes keeps the canonical form. -/
theorem Memory.wf_writeN (m : Memory) (a : Nat) (bs : List Byte) (hm : m.wf = true) : (m.writeN a bs).wf = true := by
  induction bs generalizing m a with
  | nil => exact hm
  | cons b t ih => exact ih _ _ (Memory.wf_write m a b hm)

/-- A line of a migrating page copied keeps the form (R348). -/
theorem wf_pullLine (s : State) (e : TlbEntry) (l : Nat) (hm : s.dram.wf = true) : (pullLine s e l).dram.wf = true := by
  cases h : e.mig with
  | none => simp only [pullLine, h, hm]
  | some j =>
    simp only [pullLine, h]
    split
    · exact hm
    · generalize s.dram.readN _ 192 = bs
      exact Memory.wf_write _ _ _ (Memory.wf_writeN _ _ _ hm)

theorem Memory.read_below (m : Memory) (lo a : Nat) (ha : a < lo) (hm : Memory.wfFrom lo m = true) : m.read a = 0 := by
  cases m with
  | nil => rfl
  | cons p t =>
    obtain ⟨k, c⟩ := p
    rw [Memory.wfFrom_cons] at hm
    have h1 : ¬k = a := by omega
    have h2 : a < k := by omega
    simp [Memory.read, h1, h2]

theorem Memory.read_write_from (m : Memory) (lo a c : Nat) (b : Byte) (hm : Memory.wfFrom lo m = true) :
    (m.write a b).read c = if c = a then b else m.read c := by
  induction m generalizing lo with
  | nil =>
    simp only [Memory.write]
    split
    · rename_i hb; subst hb; simp [Memory.read]
    · by_cases h : c = a
      · subst h; simp [Memory.read]
      · have : ¬a = c := fun x => h x.symm
        simp [Memory.read, h, this]
  | cons p t ih =>
    obtain ⟨k, x⟩ := p
    rw [Memory.wfFrom_cons] at hm
    simp only [Memory.write]
    split
    · rename_i hak
      split
      · rename_i hb
        by_cases h : c = a
        · subst h; subst hb
          have h1 : ¬k = c := by omega
          simp [Memory.read, h1, hak]
        · simp [h]
      · by_cases h : c = a
        · subst h; simp [Memory.read]
        · have h1 : ¬a = c := fun x => h x.symm
          simp only [Memory.read, h1, if_false, h]
          by_cases h2 : c < a
          · have h3 : ¬k = c := by omega
            have h4 : c < k := by omega
            simp [h2, h3, h4]
          · simp [h2]
    · split
      · rename_i h1 h2
        subst h2
        split
        · rename_i hb
          by_cases h : c = a
          · subst h; subst hb
            simp [Memory.read_below t (c + 1) c (by omega) hm.2]
          · have h3 : ¬a = c := fun x => h x.symm
            simp only [Memory.read, h3, if_false, h]
            split
            · rename_i h4; rw [Memory.read_below t (a + 1) c (by omega) hm.2]
            · rfl
        · by_cases h : c = a
          · subst h; simp [Memory.read]
          · have h3 : ¬a = c := fun x => h x.symm
            simp [Memory.read, h3, h]
      · rename_i h1 h2
        by_cases hk : k = c
        · subst hk
          have h3 : ¬k = a := fun x => h2 x.symm
          simp [Memory.read, h3]
        · simp only [Memory.read, hk, if_false]
          by_cases h4 : c < k
          · have h5 : ¬c = a := by omega
            simp [h4, h5]
          · simp only [h4, if_false]
            exact ih (k + 1) hm.2

/-- Reading after writing: the byte written at its address, every other byte as before. -/
theorem Memory.read_write (m : Memory) (a c : Nat) (b : Byte) (hm : m.wf = true) :
    (m.write a b).read c = if c = a then b else m.read c := Memory.read_write_from m 0 a c b hm

theorem Memory.read_writeN (m : Memory) (a c : Nat) (bs : List Byte) (hm : m.wf = true) :
    (m.writeN a bs).read c = if a ≤ c ∧ c < a + bs.length then bs.getD (c - a) 0 else m.read c := by
  induction bs generalizing m a with
  | nil =>
    have : ¬(a ≤ c ∧ c < a + ([] : List Byte).length) := by simp
    rw [if_neg this]; rfl
  | cons b t ih =>
    simp only [Memory.writeN, List.length_cons]
    rw [ih _ _ (Memory.wf_write m a b hm), Memory.read_write m a c b hm]
    by_cases h1 : a + 1 ≤ c ∧ c < a + 1 + t.length
    · have h2 : a ≤ c ∧ c < a + (t.length + 1) := by omega
      have h3 : c - a = (c - (a + 1)) + 1 := by omega
      rw [if_pos h1, if_pos h2, h3, List.getD_cons_succ]
    · by_cases h4 : c = a
      · subst h4
        have h2 : c ≤ c ∧ c < c + (t.length + 1) := by omega
        rw [if_neg h1, if_pos rfl, if_pos h2]; simp
      · have h2 : ¬(a ≤ c ∧ c < a + (t.length + 1)) := by omega
        rw [if_neg h1, if_neg h4, if_neg h2]

/-! ## Accesses that are granted -/

variable {h : Here} {s : State}

theorem mapM_ok {α β ε : Type} (l : List α) (f : α → Except ε β) (g : α → β) (hf : ∀ x ∈ l, f x = .ok (g x)) :
    l.mapM f = .ok (l.map g) := by
  induction l with
  | nil => rfl
  | cons a t ih =>
    rw [List.mapM_cons, hf a (List.mem_cons_self ..), ih fun x hx => hf x (List.mem_cons_of_mem _ hx)]
    rfl

theorem dstN_canWriteN {c : BitVec 7} {n : Nat} (hc : h.canWriteN c n) :
    h.dstN c n = .ok (if c.toNat < 120 then (List.range n).map fun j => h.regOf (c.toNat + j) else []) := by
  by_cases h120 : c.toNat < 120
  · simp only [Here.dstN, h120, if_true]
    exact mapM_ok _ _ _ fun j hj => resolve_ready (hc.2 h120 j (by simpa using hj))
  · simp [Here.dstN, h120]

theorem peerTargets_ok (us : List Access) : peerTargets (us.map fun u => (u, Acc.ok)) = [] := by
  have : ∀ (l : List Access) (t : List (Nat × Nat)), (l.map fun u => (u, Acc.ok)).foldl
      (fun t r => match r.2 with
        | .peer d => if t.any fun x => x.1 == r.1.addr then t else t ++ [(r.1.addr, d)]
        | _ => t) t = t := by
    intro l
    induction l with
    | nil => intro t; rfl
    | cons a l ih => intro t; rw [List.map_cons, List.foldl_cons]; exact ih t
  exact this us []

theorem foldl_here (F : Asked → Access × Acc → Asked) (hF : ∀ a u, F a (u, .ok) = { a with got := a.got ++ [(u, .here)] })
    (l : List Access) (a : Asked) :
    (l.map fun u => (u, Acc.ok)).foldl F a = { a with got := a.got ++ l.map fun u => (u, Got.here) } := by
  induction l generalizing a with
  | nil => simp
  | cons u l ih => rw [List.map_cons, List.foldl_cons, hF, ih]; simp

/-- Nobody is asked about accesses that can be made here. -/
theorem askUnits_ok (t : State) (carry : Carry) (us : List Access) :
    askUnits h t carry (us.map fun u => (u, .ok)) = { s := t, wait := false, got := us.map fun u => (u, .here) } := by
  have hm : moveAll h t carry (us.map fun u => (u, .ok)) = (t, []) := by
    unfold moveAll; rw [peerTargets_ok]; rfl
  unfold askUnits
  rw [hm, foldl_here _ (fun _ _ => rfl)]
  simp

/-- What the checks of granted accesses let through. -/
theorem examine_granted {k : Kind} {us : List Access} {t : State} (hg : h.granted s k us t) (alone : Bool) (carry : Carry) :
    examine h s k alone carry us = .ok (t, us.map fun u => (u, .here)) := by
  have ha : (us.map fun u => (u, Acc.ok)).all (fun r => r.2 == .ok) = true := by simp
  have hc : checkAlone h s k us = (t, us.map fun u => (u, .ok)) := by
    unfold checkAlone; rw [hg]; simp
  unfold examine
  rw [hg, hc]
  simp only [ha, askUnits_ok, if_true, Bool.false_eq_true, if_false]
  split <;> rfl

theorem deciding_here (us : List Access) : deciding (us.map fun u => (u, Got.here)) = none := by
  unfold deciding
  simp only [List.findSome?_eq_none_iff, List.mem_map]
  rintro _ ⟨u, _, rfl⟩
  rfl

theorem aligned_ok (us : List Access) (n : Nat) (hu : ∀ u ∈ us, u.addr % n = 0) : aligned us n = .ok ⟨⟩ := by
  unfold aligned
  have : us.find? (fun u => u.addr % n != 0) = none := by
    rw [List.find?_eq_none]; intro u hm; simp [hu u hm]
  rw [this]

/-- The value of a lane in a table made of the lanes of a mask. -/
theorem byLane_lanes {α : Type} (lanes : Lanes) (v : Nat → α) (d : α) (i : Nat) (hi : i < 32) (hl : lanes.getLsbD i = true) :
    byLane ((lanesIn lanes).map fun k => (k, v k)) d i = v i := by
  have key : ∀ l : List Nat, i ∈ l → get? (l.map fun k => (k, v k)) i = some (v i) := by
    intro l
    induction l with
    | nil => simp
    | cons a t ih =>
      intro hm
      by_cases h : a = i
      · subst h; simp [get?]
      · have : i ∈ t := by
          rcases List.mem_cons.mp hm with rfl | h'
          · exact absurd rfl h
          · exact h'
        simp [get?, h, ih this]
  unfold byLane
  rw [key _ (by simp [lanesIn, laneOrder, hi, hl])]
  rfl

theorem written_congr (w : Wave) (r : Nat) (lanes : Lanes) (v v' : Nat → Word)
    (hv : ∀ i, i < 32 → lanes.getLsbD i = true → v i = v' i) :
    h.written w { reg := r, lanes, val := v } = h.written w { reg := r, lanes, val := v' } := by
  have : (fun old : Row => rowOf fun i => if lanes.getLsbD i then v i else old.getD i 0)
      = fun old => rowOf fun i => if lanes.getLsbD i then v' i else old.getD i 0 := by
    funext old
    apply rowOf_congr
    intro i hi
    by_cases hl : lanes.getLsbD i = true
    · simp only [hl, if_true, hv i hi hl]
    · simp only [hl]; rfl
  simp only [Here.written, this]

end Sys2Proof.Machine
end

