-- ==== Sys2Proof/Laws/MemForms.lean ====
section
/-! SUPPORT. Sizes, loaded values and the registers a load writes. -/

namespace Sys2Proof.Machine

variable {h : Here} {s : State}

/-- Sizes and registers as R133 gives them. -/
theorem sz_bytes (sz : BitVec 3) : sz ≠ 7 → szBytes sz = memBytes sz := by revert sz; decide
theorem sz_regs (sz : BitVec 3) : sz ≠ 7 → szRegs sz = memWords sz := by revert sz; decide
theorem loadWord_eq (sz : BitVec 3) (x j : Nat) : loadWord sz x j = extended sz x j := by
  have hs : sz = 0 ∨ sz = 1 ∨ sz = 2 ∨ sz = 3 ∨ sz = 4 ∨ sz = 5 ∨ sz = 6 ∨ sz = 7 := by revert sz; decide
  have e8 : BitVec.ofInt 32 (signed (8*1) x) = (BitVec.ofNat 8 x).signExtend 32 := by
    rw [BitVec.signExtend, BitVec.toInt_eq_toNat_cond]
    simp [signed]
  have e16 : BitVec.ofInt 32 (signed (8*2) x) = (BitVec.ofNat 16 x).signExtend 32 := by
    rw [BitVec.signExtend, BitVec.toInt_eq_toNat_cond]
    simp [signed]
  rcases hs with rfl|rfl|rfl|rfl|rfl|rfl|rfl|rfl
  · rfl
  · exact e8
  · rfl
  · exact e16
  all_goals rfl
/-- A loaded value written to its registers, outside scout mode. -/
theorem putLoad_eq (hi : Issuing s h) (sz : BitVec 3) (lanes : Lanes) (x : Nat → Nat) (bad : Nat → Bool) (rs : List Nat) (k : Nat) :
    ∀ t, (rs.zipIdx k).foldl (fun s r => writeReg h s r.1 lanes (fun i => loadWord sz (x i) r.2) bad bad) t
     = h.changed t (fun w => ((rs.zipIdx k).map fun r => ({ reg := r.1, lanes, val := fun i => extended sz (x i) r.2 } : RegWrite)).foldl h.written w) fun x => x := by
  induction rs generalizing k with
  | nil => intro t; simp [changed_id]
  | cons a l ih =>
    intro t
    rw [List.zipIdx_cons, List.foldl_cons, ih, writeReg_eq hi, changed_changed]
    · simp only [List.map_cons, List.foldl_cons, loadWord_eq]
    · intro w; generalize ((l.zipIdx (k+1)).map _) = ws
      induction ws generalizing w with
      | nil => rfl
      | cons b t ih => rw [List.foldl_cons, ih, written_fibres]
    · intro w ls; generalize ((l.zipIdx (k+1)).map _) = ws
      induction ws generalizing w with
      | nil => rfl
      | cons b t ih => rw [List.foldl_cons, written_with, ih, List.foldl_cons]

theorem allLanes_and (m : Lanes) : m &&& ~~~(0 : Lanes) = m := by
  apply BitVec.eq_of_getLsbD_eq
  intro i hi
  simp only [BitVec.getLsbD_and, BitVec.getLsbD_not, hi, decide_true, Bool.true_and]
  simp

end Sys2Proof.Machine
end

