-- ==== Sys2Proof/Laws/PerInstr.lean ====
section
/-! SUPPORT. That decoding undoes encoding, constructor by constructor: the fields of each format read back from its word, and one
lemma for each constructor of Instr. -/

namespace Sys2Proof.Laws.RoundTrip
open Sys2Proof

theorem parcels_bytes (ps : List Half) : parcelsOf (bytesOf ps) = ps := by
  induction ps with
  | nil => rfl
  | cons p t ih =>
    have e : p.extractLsb' 8 8 ++ p.extractLsb' 0 8 = p := by
      apply BitVec.eq_of_getLsbD_eq
      intro i hi
      rw [BitVec.getLsbD_append]
      by_cases h : i < 8
      · simp [h]
      · have : i - 8 < 8 := by omega
        have : 8 + (i - 8) = i := by omega
        simp [*]
    simp only [bytesOf, List.flatMap_cons, List.cons_append, List.nil_append, parcelsOf] at ih ⊢
    rw [ih, e]

theorem join_split (w : Word) : joinParcels (fld w 16 16) (fld w 0 16) = w := by
  apply BitVec.eq_of_getLsbD_eq
  intro i hi
  simp only [joinParcels, fld]
  rw [BitVec.getLsbD_append]
  by_cases h : i < 16
  · simp [h]
  · have : i - 16 < 16 := by omega
    have : 16 + (i - 16) = i := by omega
    simp [*]

theorem major_split (w : Word) : major (fld w 16 16) = (fld w 26 6).toNat := by
  unfold major fld
  congr 1
  apply BitVec.eq_of_getLsbD_eq
  intro i hi
  simp [hi, show 10 + i < 16 by omega, show 16 + (10 + i) = 26 + i by omega]

theorem bytes_length (ps : List Half) : (bytesOf ps).length = 2 * ps.length := by
  induction ps with
  | nil => rfl
  | cons p t ih => simp only [bytesOf, List.flatMap_cons, List.length_append, List.length_cons, List.length_nil] at ih ⊢; omega

/-- An instruction that has a word is read back, if its word has the literal that it carries and stands for it. -/
theorem of_word {i : Instr} {w : Word} (hk : ∀ k, i ≠ .dictionaryParcel k) (he : encodeWord i = some w) (h63 : (fld w 26 6).toNat ≠ 63)
    (hl : hasLiteral w = (literalOf i).isSome) (hw : decodeWord w ((literalOf i).getD 0) = some i) :
    decode (encode i) = some (i, (encode i).length) := by
  have hp : encodeParcels i = splitWord w ++ (match literalOf i with | some l => splitWord l | none => []) := by
    unfold encodeParcels
    split
    · exact absurd rfl (hk _)
    · exact congrArg (fun o => match o with | none => [] | some w => splitWord w ++ (match literalOf i with | some l => splitWord l | none => [])) he
  have hd : decodeParcels (encodeParcels i) = some (i, (encodeParcels i).length) := by
    rw [hp]
    cases hc : literalOf i with
    | none =>
      rw [hc] at hl hw
      simp only [splitWord, List.append_nil, decodeParcels, major_split, if_neg h63, join_split, hl, Option.isSome_none, Bool.false_eq_true,
        if_false, List.length_cons, List.length_nil]
      rw [show decodeWord w 0 = some i from hw]; rfl
    | some l =>
      rw [hc] at hl hw
      simp only [splitWord, List.cons_append, List.nil_append, decodeParcels, major_split, if_neg h63, join_split, hl, Option.isSome_some,
        if_true, List.length_cons, List.length_nil]
      rw [show decodeWord w l = some i from hw]; rfl
  simp only [encode, decode, parcels_bytes, hd, bytes_length]
  rfl

/-! ## The fields of the formats -/

theorem bit0 (y : BitVec 1) : y[0] = (y == 1#1) := by revert y; decide
theorem tri_op (op : BitVec 6) (o : Tri) (xx : BitVec 1) : fld (triWord op o xx) 26 6 = op := by
  show BitVec.extractLsb' (n := 6+7+7+7+3+1+1) 26 6 (op ++ o.dst ++ o.a ++ o.b ++ o.p ++ BitVec.ofBool o.u ++ xx) = _
  simp (disch := decide) only [BitVec.extractLsb'_append_eq_of_le]
  simp
theorem tri_dst (op : BitVec 6) (o : Tri) (xx : BitVec 1) : dst (triWord op o xx) = o.dst := by
  show BitVec.extractLsb' (n := 6+7+7+7+3+1+1) 19 7 (op ++ o.dst ++ o.a ++ o.b ++ o.p ++ BitVec.ofBool o.u ++ xx) = _
  simp (disch := decide) only [BitVec.extractLsb'_append_eq_of_le, BitVec.extractLsb'_append_eq_of_add_le]
  simp
theorem tri_a (op : BitVec 6) (o : Tri) (xx : BitVec 1) : srcA (triWord op o xx) = o.a := by
  show BitVec.extractLsb' (n := 6+7+7+7+3+1+1) 12 7 (op ++ o.dst ++ o.a ++ o.b ++ o.p ++ BitVec.ofBool o.u ++ xx) = _
  simp (disch := decide) only [BitVec.extractLsb'_append_eq_of_le, BitVec.extractLsb'_append_eq_of_add_le]
  simp
theorem tri_b (op : BitVec 6) (o : Tri) (xx : BitVec 1) : fld (triWord op o xx) 5 7 = o.b := by
  show BitVec.extractLsb' (n := 6+7+7+7+3+1+1) 5 7 (op ++ o.dst ++ o.a ++ o.b ++ o.p ++ BitVec.ofBool o.u ++ xx) = _
  simp (disch := decide) only [BitVec.extractLsb'_append_eq_of_le, BitVec.extractLsb'_append_eq_of_add_le]
  simp
theorem tri_p (op : BitVec 6) (o : Tri) (xx : BitVec 1) : fld (triWord op o xx) 2 3 = o.p := by
  show BitVec.extractLsb' (n := 6+7+7+7+3+1+1) 2 3 (op ++ o.dst ++ o.a ++ o.b ++ o.p ++ BitVec.ofBool o.u ++ xx) = _
  simp (disch := decide) only [BitVec.extractLsb'_append_eq_of_le, BitVec.extractLsb'_append_eq_of_add_le]
  simp
theorem tri_u (op : BitVec 6) (o : Tri) (xx : BitVec 1) : u (triWord op o xx) = o.u := by
  show BitVec.getLsbD (w := 6+7+7+7+3+1+1) (op ++ o.dst ++ o.a ++ o.b ++ o.p ++ BitVec.ofBool o.u ++ xx) 1 = _
  simp (disch := decide) only [BitVec.getLsbD_append]
  simp
theorem tri_x (op : BitVec 6) (o : Tri) (xx : BitVec 1) : x (triWord op o xx) = (xx == 1#1) := by
  show BitVec.getLsbD (w := 6+7+7+7+3+1+1) (op ++ o.dst ++ o.a ++ o.b ++ o.p ++ BitVec.ofBool o.u ++ xx) 0 = _
  simp (disch := decide) only [BitVec.getLsbD_append]
  simp [bit0]
theorem cmp_op (op : BitVec 6) (o : Cmp) (xx : BitVec 1) : fld (cmpWord op o xx) 26 6 = op := by
  show BitVec.extractLsb' (n := 6+3+1+3+7+7+3+1+1) 26 6 (op ++ o.cond ++ BitVec.ofBool o.acc ++ o.mask ++ o.a ++ o.b ++ o.p ++ BitVec.ofBool o.u ++ xx) = _
  simp (disch := decide) only [BitVec.extractLsb'_append_eq_of_le]
  simp
theorem cmp_cond (op : BitVec 6) (o : Cmp) (xx : BitVec 1) : fld (cmpWord op o xx) 23 3 = o.cond := by
  show BitVec.extractLsb' (n := 6+3+1+3+7+7+3+1+1) 23 3 (op ++ o.cond ++ BitVec.ofBool o.acc ++ o.mask ++ o.a ++ o.b ++ o.p ++ BitVec.ofBool o.u ++ xx) = _
  simp (disch := decide) only [BitVec.extractLsb'_append_eq_of_le, BitVec.extractLsb'_append_eq_of_add_le]
  simp
theorem cmp_acc (op : BitVec 6) (o : Cmp) (xx : BitVec 1) : BitVec.getLsbD (cmpWord op o xx) 22 = o.acc := by
  show BitVec.getLsbD (w := 6+3+1+3+7+7+3+1+1) (op ++ o.cond ++ BitVec.ofBool o.acc ++ o.mask ++ o.a ++ o.b ++ o.p ++ BitVec.ofBool o.u ++ xx) 22 = _
  simp (disch := decide) only [BitVec.getLsbD_append]
  simp
theorem cmp_mask (op : BitVec 6) (o : Cmp) (xx : BitVec 1) : fld (cmpWord op o xx) 19 3 = o.mask := by
  show BitVec.extractLsb' (n := 6+3+1+3+7+7+3+1+1) 19 3 (op ++ o.cond ++ BitVec.ofBool o.acc ++ o.mask ++ o.a ++ o.b ++ o.p ++ BitVec.ofBool o.u ++ xx) = _
  simp (disch := decide) only [BitVec.extractLsb'_append_eq_of_le, BitVec.extractLsb'_append_eq_of_add_le]
  simp
theorem cmp_a (op : BitVec 6) (o : Cmp) (xx : BitVec 1) : srcA (cmpWord op o xx) = o.a := by
  show BitVec.extractLsb' (n := 6+3+1+3+7+7+3+1+1) 12 7 (op ++ o.cond ++ BitVec.ofBool o.acc ++ o.mask ++ o.a ++ o.b ++ o.p ++ BitVec.ofBool o.u ++ xx) = _
  simp (disch := decide) only [BitVec.extractLsb'_append_eq_of_le, BitVec.extractLsb'_append_eq_of_add_le]
  simp
theorem cmp_b (op : BitVec 6) (o : Cmp) (xx : BitVec 1) : fld (cmpWord op o xx) 5 7 = o.b := by
  show BitVec.extractLsb' (n := 6+3+1+3+7+7+3+1+1) 5 7 (op ++ o.cond ++ BitVec.ofBool o.acc ++ o.mask ++ o.a ++ o.b ++ o.p ++ BitVec.ofBool o.u ++ xx) = _
  simp (disch := decide) only [BitVec.extractLsb'_append_eq_of_le, BitVec.extractLsb'_append_eq_of_add_le]
  simp
theorem cmp_p (op : BitVec 6) (o : Cmp) (xx : BitVec 1) : fld (cmpWord op o xx) 2 3 = o.p := by
  show BitVec.extractLsb' (n := 6+3+1+3+7+7+3+1+1) 2 3 (op ++ o.cond ++ BitVec.ofBool o.acc ++ o.mask ++ o.a ++ o.b ++ o.p ++ BitVec.ofBool o.u ++ xx) = _
  simp (disch := decide) only [BitVec.extractLsb'_append_eq_of_le, BitVec.extractLsb'_append_eq_of_add_le]
  simp
theorem cmp_u (op : BitVec 6) (o : Cmp) (xx : BitVec 1) : u (cmpWord op o xx) = o.u := by
  show BitVec.getLsbD (w := 6+3+1+3+7+7+3+1+1) (op ++ o.cond ++ BitVec.ofBool o.acc ++ o.mask ++ o.a ++ o.b ++ o.p ++ BitVec.ofBool o.u ++ xx) 1 = _
  simp (disch := decide) only [BitVec.getLsbD_append]
  simp
theorem cmp_x (op : BitVec 6) (o : Cmp) (xx : BitVec 1) : x (cmpWord op o xx) = (xx == 1#1) := by
  show BitVec.getLsbD (w := 6+3+1+3+7+7+3+1+1) (op ++ o.cond ++ BitVec.ofBool o.acc ++ o.mask ++ o.a ++ o.b ++ o.p ++ BitVec.ofBool o.u ++ xx) 0 = _
  simp (disch := decide) only [BitVec.getLsbD_append]
  simp [bit0]
theorem mask_op (op : BitVec 6) (o : MaskTri) (xx : BitVec 1) : fld (maskWord op o xx) 26 6 = op := by
  show BitVec.extractLsb' (n := 6+7+7+7+3+1+1) 26 6 (op ++ o.dst ++ o.a ++ o.b ++ o.p ++ 0#1 ++ xx) = _
  simp (disch := decide) only [BitVec.extractLsb'_append_eq_of_le]
  simp
theorem mask_dst (op : BitVec 6) (o : MaskTri) (xx : BitVec 1) : dst (maskWord op o xx) = o.dst := by
  show BitVec.extractLsb' (n := 6+7+7+7+3+1+1) 19 7 (op ++ o.dst ++ o.a ++ o.b ++ o.p ++ 0#1 ++ xx) = _
  simp (disch := decide) only [BitVec.extractLsb'_append_eq_of_le, BitVec.extractLsb'_append_eq_of_add_le]
  simp
theorem mask_a (op : BitVec 6) (o : MaskTri) (xx : BitVec 1) : srcA (maskWord op o xx) = o.a := by
  show BitVec.extractLsb' (n := 6+7+7+7+3+1+1) 12 7 (op ++ o.dst ++ o.a ++ o.b ++ o.p ++ 0#1 ++ xx) = _
  simp (disch := decide) only [BitVec.extractLsb'_append_eq_of_le, BitVec.extractLsb'_append_eq_of_add_le]
  simp
theorem mask_b (op : BitVec 6) (o : MaskTri) (xx : BitVec 1) : fld (maskWord op o xx) 5 7 = o.b := by
  show BitVec.extractLsb' (n := 6+7+7+7+3+1+1) 5 7 (op ++ o.dst ++ o.a ++ o.b ++ o.p ++ 0#1 ++ xx) = _
  simp (disch := decide) only [BitVec.extractLsb'_append_eq_of_le, BitVec.extractLsb'_append_eq_of_add_le]
  simp
theorem mask_p (op : BitVec 6) (o : MaskTri) (xx : BitVec 1) : fld (maskWord op o xx) 2 3 = o.p := by
  show BitVec.extractLsb' (n := 6+7+7+7+3+1+1) 2 3 (op ++ o.dst ++ o.a ++ o.b ++ o.p ++ 0#1 ++ xx) = _
  simp (disch := decide) only [BitVec.extractLsb'_append_eq_of_le, BitVec.extractLsb'_append_eq_of_add_le]
  simp
theorem mask_u (op : BitVec 6) (o : MaskTri) (xx : BitVec 1) : u (maskWord op o xx) = false := by
  show BitVec.getLsbD (w := 6+7+7+7+3+1+1) (op ++ o.dst ++ o.a ++ o.b ++ o.p ++ 0#1 ++ xx) 1 = _
  simp (disch := decide) only [BitVec.getLsbD_append]
  simp
theorem mask_x (op : BitVec 6) (o : MaskTri) (xx : BitVec 1) : x (maskWord op o xx) = (xx == 1#1) := by
  show BitVec.getLsbD (w := 6+7+7+7+3+1+1) (op ++ o.dst ++ o.a ++ o.b ++ o.p ++ 0#1 ++ xx) 0 = _
  simp (disch := decide) only [BitVec.getLsbD_append]
  simp [bit0]
theorem duo_op (op : BitVec 6) (d a : BitVec 7) (p : BitVec 3) (uu : Bool) (fn : BitVec 8) : fld (duoWord op d a p uu fn) 26 6 = op := by
  show BitVec.extractLsb' (n := 6+7+7+3+1+8) 26 6 (op ++ d ++ a ++ p ++ BitVec.ofBool uu ++ fn) = _
  simp (disch := decide) only [BitVec.extractLsb'_append_eq_of_le]
  simp
theorem duo_dst (op : BitVec 6) (d a : BitVec 7) (p : BitVec 3) (uu : Bool) (fn : BitVec 8) : dst (duoWord op d a p uu fn) = d := by
  show BitVec.extractLsb' (n := 6+7+7+3+1+8) 19 7 (op ++ d ++ a ++ p ++ BitVec.ofBool uu ++ fn) = _
  simp (disch := decide) only [BitVec.extractLsb'_append_eq_of_le, BitVec.extractLsb'_append_eq_of_add_le]
  simp
theorem duo_a (op : BitVec 6) (d a : BitVec 7) (p : BitVec 3) (uu : Bool) (fn : BitVec 8) : srcA (duoWord op d a p uu fn) = a := by
  show BitVec.extractLsb' (n := 6+7+7+3+1+8) 12 7 (op ++ d ++ a ++ p ++ BitVec.ofBool uu ++ fn) = _
  simp (disch := decide) only [BitVec.extractLsb'_append_eq_of_le, BitVec.extractLsb'_append_eq_of_add_le]
  simp
theorem duo_p (op : BitVec 6) (d a : BitVec 7) (p : BitVec 3) (uu : Bool) (fn : BitVec 8) : predA (duoWord op d a p uu fn) = p := by
  show BitVec.extractLsb' (n := 6+7+7+3+1+8) 9 3 (op ++ d ++ a ++ p ++ BitVec.ofBool uu ++ fn) = _
  simp (disch := decide) only [BitVec.extractLsb'_append_eq_of_le, BitVec.extractLsb'_append_eq_of_add_le]
  simp
theorem duo_u (op : BitVec 6) (d a : BitVec 7) (p : BitVec 3) (uu : Bool) (fn : BitVec 8) : uA (duoWord op d a p uu fn) = uu := by
  show BitVec.getLsbD (w := 6+7+7+3+1+8) (op ++ d ++ a ++ p ++ BitVec.ofBool uu ++ fn) 8 = _
  simp (disch := decide) only [BitVec.getLsbD_append]
  simp
theorem duo_fn (op : BitVec 6) (d a : BitVec 7) (p : BitVec 3) (uu : Bool) (fn : BitVec 8) : fn8 (duoWord op d a p uu fn) = fn := by
  show BitVec.extractLsb' (n := 6+7+7+3+1+8) 0 8 (op ++ d ++ a ++ p ++ BitVec.ofBool uu ++ fn) = _
  simp (disch := decide) only [BitVec.extractLsb'_append_eq_of_add_le]
  simp
theorem flt_op (op : BitVec 6) (d a : BitVec 7) (p : BitVec 3) (uu : Bool) (r : BitVec 3) (fn : BitVec 5) : fld (fltWord op d a p uu r fn) 26 6 = op := by
  show BitVec.extractLsb' (n := 6+7+7+3+1+3+5) 26 6 (op ++ d ++ a ++ p ++ BitVec.ofBool uu ++ r ++ fn) = _
  simp (disch := decide) only [BitVec.extractLsb'_append_eq_of_le]
  simp
theorem flt_dst (op : BitVec 6) (d a : BitVec 7) (p : BitVec 3) (uu : Bool) (r : BitVec 3) (fn : BitVec 5) : dst (fltWord op d a p uu r fn) = d := by
  show BitVec.extractLsb' (n := 6+7+7+3+1+3+5) 19 7 (op ++ d ++ a ++ p ++ BitVec.ofBool uu ++ r ++ fn) = _
  simp (disch := decide) only [BitVec.extractLsb'_append_eq_of_le, BitVec.extractLsb'_append_eq_of_add_le]
  simp
theorem flt_a (op : BitVec 6) (d a : BitVec 7) (p : BitVec 3) (uu : Bool) (r : BitVec 3) (fn : BitVec 5) : srcA (fltWord op d a p uu r fn) = a := by
  show BitVec.extractLsb' (n := 6+7+7+3+1+3+5) 12 7 (op ++ d ++ a ++ p ++ BitVec.ofBool uu ++ r ++ fn) = _
  simp (disch := decide) only [BitVec.extractLsb'_append_eq_of_le, BitVec.extractLsb'_append_eq_of_add_le]
  simp
theorem flt_p (op : BitVec 6) (d a : BitVec 7) (p : BitVec 3) (uu : Bool) (r : BitVec 3) (fn : BitVec 5) : predA (fltWord op d a p uu r fn) = p := by
  show BitVec.extractLsb' (n := 6+7+7+3+1+3+5) 9 3 (op ++ d ++ a ++ p ++ BitVec.ofBool uu ++ r ++ fn) = _
  simp (disch := decide) only [BitVec.extractLsb'_append_eq_of_le, BitVec.extractLsb'_append_eq_of_add_le]
  simp
theorem flt_u (op : BitVec 6) (d a : BitVec 7) (p : BitVec 3) (uu : Bool) (r : BitVec 3) (fn : BitVec 5) : uA (fltWord op d a p uu r fn) = uu := by
  show BitVec.getLsbD (w := 6+7+7+3+1+3+5) (op ++ d ++ a ++ p ++ BitVec.ofBool uu ++ r ++ fn) 8 = _
  simp (disch := decide) only [BitVec.getLsbD_append]
  simp
theorem flt_rm (op : BitVec 6) (d a : BitVec 7) (p : BitVec 3) (uu : Bool) (r : BitVec 3) (fn : BitVec 5) : rm (fltWord op d a p uu r fn) = r := by
  show BitVec.extractLsb' (n := 6+7+7+3+1+3+5) 5 3 (op ++ d ++ a ++ p ++ BitVec.ofBool uu ++ r ++ fn) = _
  simp (disch := decide) only [BitVec.extractLsb'_append_eq_of_le, BitVec.extractLsb'_append_eq_of_add_le]
  simp
theorem flt_fn (op : BitVec 6) (d a : BitVec 7) (p : BitVec 3) (uu : Bool) (r : BitVec 3) (fn : BitVec 5) : fn5 (fltWord op d a p uu r fn) = fn := by
  show BitVec.extractLsb' (n := 6+7+7+3+1+3+5) 0 5 (op ++ d ++ a ++ p ++ BitVec.ofBool uu ++ r ++ fn) = _
  simp (disch := decide) only [BitVec.extractLsb'_append_eq_of_add_le]
  simp
theorem cvt_sat (op : BitVec 6) (d a : BitVec 7) (p : BitVec 3) (uu : Bool) (r : BitVec 3) (sat : Bool) (fn : BitVec 4) : satBit (fltWord op d a p uu r (BitVec.ofBool sat ++ fn)) = sat := by
  show BitVec.getLsbD (w := 6+7+7+3+1+3+(1+4)) (op ++ d ++ a ++ p ++ BitVec.ofBool uu ++ r ++ (BitVec.ofBool sat ++ fn)) 4 = _
  simp (disch := decide) only [BitVec.getLsbD_append]
  simp
theorem cvt_fn (op : BitVec 6) (d a : BitVec 7) (p : BitVec 3) (uu : Bool) (r : BitVec 3) (sat : Bool) (fn : BitVec 4) : fn4 (fltWord op d a p uu r (BitVec.ofBool sat ++ fn)) = fn := by
  show BitVec.extractLsb' (n := 6+7+7+3+1+3+(1+4)) 0 4 (op ++ d ++ a ++ p ++ BitVec.ofBool uu ++ r ++ (BitVec.ofBool sat ++ fn)) = _
  simp (disch := decide) only [BitVec.extractLsb'_append_eq_of_add_le]
  simp
theorem cvz_sat (op : BitVec 6) (d a : BitVec 7) (p : BitVec 3) (uu : Bool) (r : BitVec 3) (fn : BitVec 4) : satBit (fltWord op d a p uu r (0#1 ++ fn)) = false := by
  show BitVec.getLsbD (w := 6+7+7+3+1+3+(1+4)) (op ++ d ++ a ++ p ++ BitVec.ofBool uu ++ r ++ (0#1 ++ fn)) 4 = _
  simp (disch := decide) only [BitVec.getLsbD_append]
  simp
theorem cvz_fn (op : BitVec 6) (d a : BitVec 7) (p : BitVec 3) (uu : Bool) (r : BitVec 3) (fn : BitVec 4) : fn4 (fltWord op d a p uu r (0#1 ++ fn)) = fn := by
  show BitVec.extractLsb' (n := 6+7+7+3+1+3+(1+4)) 0 4 (op ++ d ++ a ++ p ++ BitVec.ofBool uu ++ r ++ (0#1 ++ fn)) = _
  simp (disch := decide) only [BitVec.extractLsb'_append_eq_of_add_le]
  simp
theorem rri_op (op : BitVec 6) (d a : BitVec 7) (p : BitVec 3) (imm : BitVec 9) : fld (rriWord op d a p imm) 26 6 = op := by
  show BitVec.extractLsb' (n := 6+7+7+3+9) 26 6 (op ++ d ++ a ++ p ++ imm) = _
  simp (disch := decide) only [BitVec.extractLsb'_append_eq_of_le]
  simp
theorem rri_dst (op : BitVec 6) (d a : BitVec 7) (p : BitVec 3) (imm : BitVec 9) : dst (rriWord op d a p imm) = d := by
  show BitVec.extractLsb' (n := 6+7+7+3+9) 19 7 (op ++ d ++ a ++ p ++ imm) = _
  simp (disch := decide) only [BitVec.extractLsb'_append_eq_of_le, BitVec.extractLsb'_append_eq_of_add_le]
  simp
theorem rri_a (op : BitVec 6) (d a : BitVec 7) (p : BitVec 3) (imm : BitVec 9) : srcA (rriWord op d a p imm) = a := by
  show BitVec.extractLsb' (n := 6+7+7+3+9) 12 7 (op ++ d ++ a ++ p ++ imm) = _
  simp (disch := decide) only [BitVec.extractLsb'_append_eq_of_le, BitVec.extractLsb'_append_eq_of_add_le]
  simp
theorem rri_p (op : BitVec 6) (d a : BitVec 7) (p : BitVec 3) (imm : BitVec 9) : predA (rriWord op d a p imm) = p := by
  show BitVec.extractLsb' (n := 6+7+7+3+9) 9 3 (op ++ d ++ a ++ p ++ imm) = _
  simp (disch := decide) only [BitVec.extractLsb'_append_eq_of_le, BitVec.extractLsb'_append_eq_of_add_le]
  simp
theorem rri_imm (op : BitVec 6) (d a : BitVec 7) (p : BitVec 3) (imm : BitVec 9) : fld (rriWord op d a p imm) 0 9 = imm := by
  show BitVec.extractLsb' (n := 6+7+7+3+9) 0 9 (op ++ d ++ a ++ p ++ imm) = _
  simp (disch := decide) only [BitVec.extractLsb'_append_eq_of_add_le]
  simp
theorem shift_k (op : BitVec 6) (d a : BitVec 7) (p : BitVec 3) (k : BitVec 4) (n : BitVec 5) : fld (rriWord op d a p (k ++ n)) 5 4 = k := by
  show BitVec.extractLsb' (n := 6+7+7+3+(4+5)) 5 4 (op ++ d ++ a ++ p ++ (k ++ n)) = _
  simp (disch := decide) only [BitVec.extractLsb'_append_eq_of_le, BitVec.extractLsb'_append_eq_of_add_le]
  simp
theorem shift_n (op : BitVec 6) (d a : BitVec 7) (p : BitVec 3) (k : BitVec 4) (n : BitVec 5) : fld (rriWord op d a p (k ++ n)) 0 5 = n := by
  show BitVec.extractLsb' (n := 6+7+7+3+(4+5)) 0 5 (op ++ d ++ a ++ p ++ (k ++ n)) = _
  simp (disch := decide) only [BitVec.extractLsb'_append_eq_of_add_le]
  simp
theorem ri_op (op : BitVec 6) (d : BitVec 7) (p : BitVec 3) (imm : BitVec 16) : fld ((op ++ d ++ p ++ imm : Word)) 26 6 = op := by
  show BitVec.extractLsb' (n := 6+7+3+16) 26 6 (op ++ d ++ p ++ imm) = _
  simp (disch := decide) only [BitVec.extractLsb'_append_eq_of_le]
  simp
theorem ri_dst (op : BitVec 6) (d : BitVec 7) (p : BitVec 3) (imm : BitVec 16) : dst ((op ++ d ++ p ++ imm : Word)) = d := by
  show BitVec.extractLsb' (n := 6+7+3+16) 19 7 (op ++ d ++ p ++ imm) = _
  simp (disch := decide) only [BitVec.extractLsb'_append_eq_of_le, BitVec.extractLsb'_append_eq_of_add_le]
  simp
theorem ri_p (op : BitVec 6) (d : BitVec 7) (p : BitVec 3) (imm : BitVec 16) : fld ((op ++ d ++ p ++ imm : Word)) 16 3 = p := by
  show BitVec.extractLsb' (n := 6+7+3+16) 16 3 (op ++ d ++ p ++ imm) = _
  simp (disch := decide) only [BitVec.extractLsb'_append_eq_of_le, BitVec.extractLsb'_append_eq_of_add_le]
  simp
theorem ri_imm (op : BitVec 6) (d : BitVec 7) (p : BitVec 3) (imm : BitVec 16) : fld ((op ++ d ++ p ++ imm : Word)) 0 16 = imm := by
  show BitVec.extractLsb' (n := 6+7+3+16) 0 16 (op ++ d ++ p ++ imm) = _
  simp (disch := decide) only [BitVec.extractLsb'_append_eq_of_add_le]
  simp
theorem bra_op (op : BitVec 6) (p : BitVec 3) (k : BitVec 7) (off : BitVec 16) : fld ((op ++ p ++ k ++ off : Word)) 26 6 = op := by
  show BitVec.extractLsb' (n := 6+3+7+16) 26 6 (op ++ p ++ k ++ off) = _
  simp (disch := decide) only [BitVec.extractLsb'_append_eq_of_le]
  simp
theorem bra_p (op : BitVec 6) (p : BitVec 3) (k : BitVec 7) (off : BitVec 16) : fld ((op ++ p ++ k ++ off : Word)) 23 3 = p := by
  show BitVec.extractLsb' (n := 6+3+7+16) 23 3 (op ++ p ++ k ++ off) = _
  simp (disch := decide) only [BitVec.extractLsb'_append_eq_of_le, BitVec.extractLsb'_append_eq_of_add_le]
  simp
theorem bra_k (op : BitVec 6) (p : BitVec 3) (k : BitVec 7) (off : BitVec 16) : fld ((op ++ p ++ k ++ off : Word)) 16 7 = k := by
  show BitVec.extractLsb' (n := 6+3+7+16) 16 7 (op ++ p ++ k ++ off) = _
  simp (disch := decide) only [BitVec.extractLsb'_append_eq_of_le, BitVec.extractLsb'_append_eq_of_add_le]
  simp
theorem bra_off (op : BitVec 6) (p : BitVec 3) (k : BitVec 7) (off : BitVec 16) : fld ((op ++ p ++ k ++ off : Word)) 0 16 = off := by
  show BitVec.extractLsb' (n := 6+3+7+16) 0 16 (op ++ p ++ k ++ off) = _
  simp (disch := decide) only [BitVec.extractLsb'_append_eq_of_add_le]
  simp
theorem mem_op (op : BitVec 6) (o : Mem) : fld (memWord op o) 26 6 = op := by
  show BitVec.extractLsb' (n := 6+7+7+3+1+3+5) 26 6 (op ++ o.d ++ o.a ++ o.p ++ BitVec.ofBool o.u ++ o.sz ++ o.off) = _
  simp (disch := decide) only [BitVec.extractLsb'_append_eq_of_le]
  simp
theorem mem_dst (op : BitVec 6) (o : Mem) : dst (memWord op o) = o.d := by
  show BitVec.extractLsb' (n := 6+7+7+3+1+3+5) 19 7 (op ++ o.d ++ o.a ++ o.p ++ BitVec.ofBool o.u ++ o.sz ++ o.off) = _
  simp (disch := decide) only [BitVec.extractLsb'_append_eq_of_le, BitVec.extractLsb'_append_eq_of_add_le]
  simp
theorem mem_a (op : BitVec 6) (o : Mem) : srcA (memWord op o) = o.a := by
  show BitVec.extractLsb' (n := 6+7+7+3+1+3+5) 12 7 (op ++ o.d ++ o.a ++ o.p ++ BitVec.ofBool o.u ++ o.sz ++ o.off) = _
  simp (disch := decide) only [BitVec.extractLsb'_append_eq_of_le, BitVec.extractLsb'_append_eq_of_add_le]
  simp
theorem mem_p (op : BitVec 6) (o : Mem) : predA (memWord op o) = o.p := by
  show BitVec.extractLsb' (n := 6+7+7+3+1+3+5) 9 3 (op ++ o.d ++ o.a ++ o.p ++ BitVec.ofBool o.u ++ o.sz ++ o.off) = _
  simp (disch := decide) only [BitVec.extractLsb'_append_eq_of_le, BitVec.extractLsb'_append_eq_of_add_le]
  simp
theorem mem_u (op : BitVec 6) (o : Mem) : uA (memWord op o) = o.u := by
  show BitVec.getLsbD (w := 6+7+7+3+1+3+5) (op ++ o.d ++ o.a ++ o.p ++ BitVec.ofBool o.u ++ o.sz ++ o.off) 8 = _
  simp (disch := decide) only [BitVec.getLsbD_append]
  simp
theorem mem_sz (op : BitVec 6) (o : Mem) : fld (memWord op o) 5 3 = o.sz := by
  show BitVec.extractLsb' (n := 6+7+7+3+1+3+5) 5 3 (op ++ o.d ++ o.a ++ o.p ++ BitVec.ofBool o.u ++ o.sz ++ o.off) = _
  simp (disch := decide) only [BitVec.extractLsb'_append_eq_of_le, BitVec.extractLsb'_append_eq_of_add_le]
  simp
theorem mem_off (op : BitVec 6) (o : Mem) : fld (memWord op o) 0 5 = o.off := by
  show BitVec.extractLsb' (n := 6+7+7+3+1+3+5) 0 5 (op ++ o.d ++ o.a ++ o.p ++ BitVec.ofBool o.u ++ o.sz ++ o.off) = _
  simp (disch := decide) only [BitVec.extractLsb'_append_eq_of_add_le]
  simp
theorem atom_z (op : BitVec 6) (d a : BitVec 7) (p : BitVec 3) (uu : Bool) (loc : Bool) (width : BitVec 2) (oper : BitVec 4) : BitVec.getLsbD (duoWord op d a p uu (0#1 ++ BitVec.ofBool loc ++ width ++ oper)) 7 = false := by
  show BitVec.getLsbD (w := 6+7+7+3+1+(1+1+2+4)) (op ++ d ++ a ++ p ++ BitVec.ofBool uu ++ (0#1 ++ BitVec.ofBool loc ++ width ++ oper)) 7 = _
  simp (disch := decide) only [BitVec.getLsbD_append]
  simp
theorem atom_loc (op : BitVec 6) (d a : BitVec 7) (p : BitVec 3) (uu : Bool) (loc : Bool) (width : BitVec 2) (oper : BitVec 4) : BitVec.getLsbD (duoWord op d a p uu (0#1 ++ BitVec.ofBool loc ++ width ++ oper)) 6 = loc := by
  show BitVec.getLsbD (w := 6+7+7+3+1+(1+1+2+4)) (op ++ d ++ a ++ p ++ BitVec.ofBool uu ++ (0#1 ++ BitVec.ofBool loc ++ width ++ oper)) 6 = _
  simp (disch := decide) only [BitVec.getLsbD_append]
  simp
theorem atom_width (op : BitVec 6) (d a : BitVec 7) (p : BitVec 3) (uu : Bool) (loc : Bool) (width : BitVec 2) (oper : BitVec 4) : fld (duoWord op d a p uu (0#1 ++ BitVec.ofBool loc ++ width ++ oper)) 4 2 = width := by
  show BitVec.extractLsb' (n := 6+7+7+3+1+(1+1+2+4)) 4 2 (op ++ d ++ a ++ p ++ BitVec.ofBool uu ++ (0#1 ++ BitVec.ofBool loc ++ width ++ oper)) = _
  simp (disch := decide) only [BitVec.extractLsb'_append_eq_of_le, BitVec.extractLsb'_append_eq_of_add_le]
  simp
theorem atom_oper (op : BitVec 6) (d a : BitVec 7) (p : BitVec 3) (uu : Bool) (loc : Bool) (width : BitVec 2) (oper : BitVec 4) : fld (duoWord op d a p uu (0#1 ++ BitVec.ofBool loc ++ width ++ oper)) 0 4 = oper := by
  show BitVec.extractLsb' (n := 6+7+7+3+1+(1+1+2+4)) 0 4 (op ++ d ++ a ++ p ++ BitVec.ofBool uu ++ (0#1 ++ BitVec.ofBool loc ++ width ++ oper)) = _
  simp (disch := decide) only [BitVec.extractLsb'_append_eq_of_add_le]
  simp
theorem asy_op (op fn sa sb sc : BitVec 6) : fld ((op ++ fn ++ sa ++ sb ++ sc ++ 0#2 : Word)) 26 6 = op := by
  show BitVec.extractLsb' (n := 6+6+6+6+6+2) 26 6 (op ++ fn ++ sa ++ sb ++ sc ++ 0#2) = _
  simp (disch := decide) only [BitVec.extractLsb'_append_eq_of_le]
  simp
theorem asy_fn (op fn sa sb sc : BitVec 6) : fn6Asy ((op ++ fn ++ sa ++ sb ++ sc ++ 0#2 : Word)) = fn := by
  show BitVec.extractLsb' (n := 6+6+6+6+6+2) 20 6 (op ++ fn ++ sa ++ sb ++ sc ++ 0#2) = _
  simp (disch := decide) only [BitVec.extractLsb'_append_eq_of_le, BitVec.extractLsb'_append_eq_of_add_le]
  simp
theorem asy_sa (op fn sa sb sc : BitVec 6) : fld ((op ++ fn ++ sa ++ sb ++ sc ++ 0#2 : Word)) 14 6 = sa := by
  show BitVec.extractLsb' (n := 6+6+6+6+6+2) 14 6 (op ++ fn ++ sa ++ sb ++ sc ++ 0#2) = _
  simp (disch := decide) only [BitVec.extractLsb'_append_eq_of_le, BitVec.extractLsb'_append_eq_of_add_le]
  simp
theorem asy_sb (op fn sa sb sc : BitVec 6) : fld ((op ++ fn ++ sa ++ sb ++ sc ++ 0#2 : Word)) 8 6 = sb := by
  show BitVec.extractLsb' (n := 6+6+6+6+6+2) 8 6 (op ++ fn ++ sa ++ sb ++ sc ++ 0#2) = _
  simp (disch := decide) only [BitVec.extractLsb'_append_eq_of_le, BitVec.extractLsb'_append_eq_of_add_le]
  simp
theorem asy_sc (op fn sa sb sc : BitVec 6) : fld ((op ++ fn ++ sa ++ sb ++ sc ++ 0#2 : Word)) 2 6 = sc := by
  show BitVec.extractLsb' (n := 6+6+6+6+6+2) 2 6 (op ++ fn ++ sa ++ sb ++ sc ++ 0#2) = _
  simp (disch := decide) only [BitVec.extractLsb'_append_eq_of_le, BitVec.extractLsb'_append_eq_of_add_le]
  simp
theorem asy_z (op fn sa sb sc : BitVec 6) : fld ((op ++ fn ++ sa ++ sb ++ sc ++ 0#2 : Word)) 0 2 = 0#2 := by
  show BitVec.extractLsb' (n := 6+6+6+6+6+2) 0 2 (op ++ fn ++ sa ++ sb ++ sc ++ 0#2) = _
  simp (disch := decide) only [BitVec.extractLsb'_append_eq_of_add_le]
  simp
theorem wait_op (fn : BitVec 4) (st : BitVec 6) (dl : BitVec 5) (a : BitVec 7) (k : BitVec 4) : fld (waitWord fn st dl a k) 26 6 = 0x39#6 := by
  show BitVec.extractLsb' (n := 6+4+6+5+7+4) 26 6 (0x39#6 ++ fn ++ st ++ dl ++ a ++ k) = _
  simp (disch := decide) only [BitVec.extractLsb'_append_eq_of_le]
  simp
theorem wait_fn (fn : BitVec 4) (st : BitVec 6) (dl : BitVec 5) (a : BitVec 7) (k : BitVec 4) : fld (waitWord fn st dl a k) 22 4 = fn := by
  show BitVec.extractLsb' (n := 6+4+6+5+7+4) 22 4 (0x39#6 ++ fn ++ st ++ dl ++ a ++ k) = _
  simp (disch := decide) only [BitVec.extractLsb'_append_eq_of_le, BitVec.extractLsb'_append_eq_of_add_le]
  simp
theorem wait_st (fn : BitVec 4) (st : BitVec 6) (dl : BitVec 5) (a : BitVec 7) (k : BitVec 4) : fld (waitWord fn st dl a k) 16 6 = st := by
  show BitVec.extractLsb' (n := 6+4+6+5+7+4) 16 6 (0x39#6 ++ fn ++ st ++ dl ++ a ++ k) = _
  simp (disch := decide) only [BitVec.extractLsb'_append_eq_of_le, BitVec.extractLsb'_append_eq_of_add_le]
  simp
theorem wait_dl (fn : BitVec 4) (st : BitVec 6) (dl : BitVec 5) (a : BitVec 7) (k : BitVec 4) : fld (waitWord fn st dl a k) 11 5 = dl := by
  show BitVec.extractLsb' (n := 6+4+6+5+7+4) 11 5 (0x39#6 ++ fn ++ st ++ dl ++ a ++ k) = _
  simp (disch := decide) only [BitVec.extractLsb'_append_eq_of_le, BitVec.extractLsb'_append_eq_of_add_le]
  simp
theorem wait_a (fn : BitVec 4) (st : BitVec 6) (dl : BitVec 5) (a : BitVec 7) (k : BitVec 4) : fld (waitWord fn st dl a k) 4 7 = a := by
  show BitVec.extractLsb' (n := 6+4+6+5+7+4) 4 7 (0x39#6 ++ fn ++ st ++ dl ++ a ++ k) = _
  simp (disch := decide) only [BitVec.extractLsb'_append_eq_of_le, BitVec.extractLsb'_append_eq_of_add_le]
  simp
theorem wait_k (fn : BitVec 4) (st : BitVec 6) (dl : BitVec 5) (a : BitVec 7) (k : BitVec 4) : fld (waitWord fn st dl a k) 0 4 = k := by
  show BitVec.extractLsb' (n := 6+4+6+5+7+4) 0 4 (0x39#6 ++ fn ++ st ++ dl ++ a ++ k) = _
  simp (disch := decide) only [BitVec.extractLsb'_append_eq_of_add_le]
  simp
theorem wait6_z (fn : BitVec 4) (st : BitVec 6) (dl : BitVec 5) (a : BitVec 6) (k : BitVec 4) : BitVec.getLsbD (waitWord fn st dl (0#1 ++ a) k) 10 = false := by
  show BitVec.getLsbD (w := 6+4+6+5+(1+6)+4) (0x39#6 ++ fn ++ st ++ dl ++ (0#1 ++ a) ++ k) 10 = _
  simp (disch := decide) only [BitVec.getLsbD_append]
  simp
theorem wait6_a (fn : BitVec 4) (st : BitVec 6) (dl : BitVec 5) (a : BitVec 6) (k : BitVec 4) : fld (waitWord fn st dl (0#1 ++ a) k) 4 6 = a := by
  show BitVec.extractLsb' (n := 6+4+6+5+(1+6)+4) 4 6 (0x39#6 ++ fn ++ st ++ dl ++ (0#1 ++ a) ++ k) = _
  simp (disch := decide) only [BitVec.extractLsb'_append_eq_of_le, BitVec.extractLsb'_append_eq_of_add_le]
  simp
theorem bwait_z (fn : BitVec 4) (st : BitVec 6) (dl : BitVec 5) (a : BitVec 7) (x y : Bool) : fld (waitWord fn st dl a (0#2 ++ BitVec.ofBool x ++ BitVec.ofBool y)) 2 2 = 0#2 := by
  show BitVec.extractLsb' (n := 6+4+6+5+7+(2+1+1)) 2 2 (0x39#6 ++ fn ++ st ++ dl ++ a ++ (0#2 ++ BitVec.ofBool x ++ BitVec.ofBool y)) = _
  simp (disch := decide) only [BitVec.extractLsb'_append_eq_of_le, BitVec.extractLsb'_append_eq_of_add_le]
  simp
theorem bwait_x (fn : BitVec 4) (st : BitVec 6) (dl : BitVec 5) (a : BitVec 7) (x y : Bool) : BitVec.getLsbD (waitWord fn st dl a (0#2 ++ BitVec.ofBool x ++ BitVec.ofBool y)) 1 = x := by
  show BitVec.getLsbD (w := 6+4+6+5+7+(2+1+1)) (0x39#6 ++ fn ++ st ++ dl ++ a ++ (0#2 ++ BitVec.ofBool x ++ BitVec.ofBool y)) 1 = _
  simp (disch := decide) only [BitVec.getLsbD_append]
  simp
theorem bwait_y (fn : BitVec 4) (st : BitVec 6) (dl : BitVec 5) (a : BitVec 7) (x y : Bool) : BitVec.getLsbD (waitWord fn st dl a (0#2 ++ BitVec.ofBool x ++ BitVec.ofBool y)) 0 = y := by
  show BitVec.getLsbD (w := 6+4+6+5+7+(2+1+1)) (0x39#6 ++ fn ++ st ++ dl ++ a ++ (0#2 ++ BitVec.ofBool x ++ BitVec.ofBool y)) 0 = _
  simp (disch := decide) only [BitVec.getLsbD_append]
  simp
theorem monw_x (fn : BitVec 4) (st : BitVec 6) (dl : BitVec 5) (a : BitVec 7) (x : Bool) (c : BitVec 3) : BitVec.getLsbD (waitWord fn st dl a (BitVec.ofBool x ++ c)) 3 = x := by
  show BitVec.getLsbD (w := 6+4+6+5+7+(1+3)) (0x39#6 ++ fn ++ st ++ dl ++ a ++ (BitVec.ofBool x ++ c)) 3 = _
  simp (disch := decide) only [BitVec.getLsbD_append]
  simp
theorem monw_c (fn : BitVec 4) (st : BitVec 6) (dl : BitVec 5) (a : BitVec 7) (x : Bool) (c : BitVec 3) : fld (waitWord fn st dl a (BitVec.ofBool x ++ c)) 0 3 = c := by
  show BitVec.extractLsb' (n := 6+4+6+5+7+(1+3)) 0 3 (0x39#6 ++ fn ++ st ++ dl ++ a ++ (BitVec.ofBool x ++ c)) = _
  simp (disch := decide) only [BitVec.extractLsb'_append_eq_of_add_le]
  simp
theorem wz_z (fn : BitVec 4) (a : BitVec 7) (k : BitVec 4) : fld (waitWord fn 0 0 a k) 11 11 = 0#11 := by
  apply BitVec.eq_of_getLsbD_eq
  intro i hi
  show BitVec.getLsbD (BitVec.extractLsb' (n := 6+4+6+5+7+4) 11 11 (0x39#6 ++ fn ++ (0#6) ++ (0#5) ++ a ++ k)) i = _
  simp only [BitVec.getLsbD_extractLsb', BitVec.getLsbD_append]
  repeat' split
  all_goals first | omega | simp [hi]
theorem waitc_op (st : BitVec 6) (dl : BitVec 5) (n : BitVec 8) (c : BitVec 3) : fld ((0x39#6 ++ 1#4 ++ st ++ dl ++ n ++ c : Word)) 26 6 = 0x39#6 := by
  show BitVec.extractLsb' (n := 6+4+6+5+8+3) 26 6 (0x39#6 ++ 1#4 ++ st ++ dl ++ n ++ c) = _
  simp (disch := decide) only [BitVec.extractLsb'_append_eq_of_le]
  simp
theorem waitc_fn (st : BitVec 6) (dl : BitVec 5) (n : BitVec 8) (c : BitVec 3) : fld ((0x39#6 ++ 1#4 ++ st ++ dl ++ n ++ c : Word)) 22 4 = 1#4 := by
  show BitVec.extractLsb' (n := 6+4+6+5+8+3) 22 4 (0x39#6 ++ 1#4 ++ st ++ dl ++ n ++ c) = _
  simp (disch := decide) only [BitVec.extractLsb'_append_eq_of_le, BitVec.extractLsb'_append_eq_of_add_le]
  simp
theorem waitc_st (st : BitVec 6) (dl : BitVec 5) (n : BitVec 8) (c : BitVec 3) : fld ((0x39#6 ++ 1#4 ++ st ++ dl ++ n ++ c : Word)) 16 6 = st := by
  show BitVec.extractLsb' (n := 6+4+6+5+8+3) 16 6 (0x39#6 ++ 1#4 ++ st ++ dl ++ n ++ c) = _
  simp (disch := decide) only [BitVec.extractLsb'_append_eq_of_le, BitVec.extractLsb'_append_eq_of_add_le]
  simp
theorem waitc_dl (st : BitVec 6) (dl : BitVec 5) (n : BitVec 8) (c : BitVec 3) : fld ((0x39#6 ++ 1#4 ++ st ++ dl ++ n ++ c : Word)) 11 5 = dl := by
  show BitVec.extractLsb' (n := 6+4+6+5+8+3) 11 5 (0x39#6 ++ 1#4 ++ st ++ dl ++ n ++ c) = _
  simp (disch := decide) only [BitVec.extractLsb'_append_eq_of_le, BitVec.extractLsb'_append_eq_of_add_le]
  simp
theorem waitc_n (st : BitVec 6) (dl : BitVec 5) (n : BitVec 8) (c : BitVec 3) : fld ((0x39#6 ++ 1#4 ++ st ++ dl ++ n ++ c : Word)) 3 8 = n := by
  show BitVec.extractLsb' (n := 6+4+6+5+8+3) 3 8 (0x39#6 ++ 1#4 ++ st ++ dl ++ n ++ c) = _
  simp (disch := decide) only [BitVec.extractLsb'_append_eq_of_le, BitVec.extractLsb'_append_eq_of_add_le]
  simp
theorem waitc_c (st : BitVec 6) (dl : BitVec 5) (n : BitVec 8) (c : BitVec 3) : fld ((0x39#6 ++ 1#4 ++ st ++ dl ++ n ++ c : Word)) 0 3 = c := by
  show BitVec.extractLsb' (n := 6+4+6+5+8+3) 0 3 (0x39#6 ++ 1#4 ++ st ++ dl ++ n ++ c) = _
  simp (disch := decide) only [BitVec.extractLsb'_append_eq_of_add_le]
  simp
theorem mat_op (fn : BitVec 4) (m n : BitVec 2) (k : BitVec 4) (sp : Bool) (sa sb : BitVec 6) : fld (matWord fn m n k sp sa sb) 26 6 = 0x3A#6 := by
  show BitVec.extractLsb' (n := 6+4+2+2+4+1+6+6+1) 26 6 (0x3A#6 ++ fn ++ m ++ n ++ k ++ BitVec.ofBool sp ++ sa ++ sb ++ 0#1) = _
  simp (disch := decide) only [BitVec.extractLsb'_append_eq_of_le]
  simp
theorem mat_fn (fn : BitVec 4) (m n : BitVec 2) (k : BitVec 4) (sp : Bool) (sa sb : BitVec 6) : fn4Mat (matWord fn m n k sp sa sb) = fn := by
  show BitVec.extractLsb' (n := 6+4+2+2+4+1+6+6+1) 22 4 (0x3A#6 ++ fn ++ m ++ n ++ k ++ BitVec.ofBool sp ++ sa ++ sb ++ 0#1) = _
  simp (disch := decide) only [BitVec.extractLsb'_append_eq_of_le, BitVec.extractLsb'_append_eq_of_add_le]
  simp
theorem mat_m (fn : BitVec 4) (m n : BitVec 2) (k : BitVec 4) (sp : Bool) (sa sb : BitVec 6) : fld (matWord fn m n k sp sa sb) 20 2 = m := by
  show BitVec.extractLsb' (n := 6+4+2+2+4+1+6+6+1) 20 2 (0x3A#6 ++ fn ++ m ++ n ++ k ++ BitVec.ofBool sp ++ sa ++ sb ++ 0#1) = _
  simp (disch := decide) only [BitVec.extractLsb'_append_eq_of_le, BitVec.extractLsb'_append_eq_of_add_le]
  simp
theorem mat_n (fn : BitVec 4) (m n : BitVec 2) (k : BitVec 4) (sp : Bool) (sa sb : BitVec 6) : fld (matWord fn m n k sp sa sb) 18 2 = n := by
  show BitVec.extractLsb' (n := 6+4+2+2+4+1+6+6+1) 18 2 (0x3A#6 ++ fn ++ m ++ n ++ k ++ BitVec.ofBool sp ++ sa ++ sb ++ 0#1) = _
  simp (disch := decide) only [BitVec.extractLsb'_append_eq_of_le, BitVec.extractLsb'_append_eq_of_add_le]
  simp
theorem mat_k (fn : BitVec 4) (m n : BitVec 2) (k : BitVec 4) (sp : Bool) (sa sb : BitVec 6) : fld (matWord fn m n k sp sa sb) 14 4 = k := by
  show BitVec.extractLsb' (n := 6+4+2+2+4+1+6+6+1) 14 4 (0x3A#6 ++ fn ++ m ++ n ++ k ++ BitVec.ofBool sp ++ sa ++ sb ++ 0#1) = _
  simp (disch := decide) only [BitVec.extractLsb'_append_eq_of_le, BitVec.extractLsb'_append_eq_of_add_le]
  simp
theorem mat_sp (fn : BitVec 4) (m n : BitVec 2) (k : BitVec 4) (sp : Bool) (sa sb : BitVec 6) : BitVec.getLsbD (matWord fn m n k sp sa sb) 13 = sp := by
  show BitVec.getLsbD (w := 6+4+2+2+4+1+6+6+1) (0x3A#6 ++ fn ++ m ++ n ++ k ++ BitVec.ofBool sp ++ sa ++ sb ++ 0#1) 13 = _
  simp (disch := decide) only [BitVec.getLsbD_append]
  simp
theorem mat_sa (fn : BitVec 4) (m n : BitVec 2) (k : BitVec 4) (sp : Bool) (sa sb : BitVec 6) : fld (matWord fn m n k sp sa sb) 7 6 = sa := by
  show BitVec.extractLsb' (n := 6+4+2+2+4+1+6+6+1) 7 6 (0x3A#6 ++ fn ++ m ++ n ++ k ++ BitVec.ofBool sp ++ sa ++ sb ++ 0#1) = _
  simp (disch := decide) only [BitVec.extractLsb'_append_eq_of_le, BitVec.extractLsb'_append_eq_of_add_le]
  simp
theorem mat_sb (fn : BitVec 4) (m n : BitVec 2) (k : BitVec 4) (sp : Bool) (sa sb : BitVec 6) : fld (matWord fn m n k sp sa sb) 1 6 = sb := by
  show BitVec.extractLsb' (n := 6+4+2+2+4+1+6+6+1) 1 6 (0x3A#6 ++ fn ++ m ++ n ++ k ++ BitVec.ofBool sp ++ sa ++ sb ++ 0#1) = _
  simp (disch := decide) only [BitVec.extractLsb'_append_eq_of_le, BitVec.extractLsb'_append_eq_of_add_le]
  simp
theorem mat_z (fn : BitVec 4) (m n : BitVec 2) (k : BitVec 4) (sp : Bool) (sa sb : BitVec 6) : BitVec.getLsbD (matWord fn m n k sp sa sb) 0 = false := by
  show BitVec.getLsbD (w := 6+4+2+2+4+1+6+6+1) (0x3A#6 ++ fn ++ m ++ n ++ k ++ BitVec.ofBool sp ++ sa ++ sb ++ 0#1) 0 = _
  simp (disch := decide) only [BitVec.getLsbD_append]
  simp
theorem mat3_z (fn : BitVec 4) (m n : BitVec 2) (k : BitVec 3) (sp : Bool) (sa sb : BitVec 6) : BitVec.getLsbD (matWord fn m n (0#1 ++ k) sp sa sb) 17 = false := by
  show BitVec.getLsbD (w := 6+4+2+2+(1+3)+1+6+6+1) (0x3A#6 ++ fn ++ m ++ n ++ (0#1 ++ k) ++ BitVec.ofBool sp ++ sa ++ sb ++ 0#1) 17 = _
  simp (disch := decide) only [BitVec.getLsbD_append]
  simp
theorem mat3_k (fn : BitVec 4) (m n : BitVec 2) (k : BitVec 3) (sp : Bool) (sa sb : BitVec 6) : fld (matWord fn m n (0#1 ++ k) sp sa sb) 14 3 = k := by
  show BitVec.extractLsb' (n := 6+4+2+2+(1+3)+1+6+6+1) 14 3 (0x3A#6 ++ fn ++ m ++ n ++ (0#1 ++ k) ++ BitVec.ofBool sp ++ sa ++ sb ++ 0#1) = _
  simp (disch := decide) only [BitVec.extractLsb'_append_eq_of_le, BitVec.extractLsb'_append_eq_of_add_le]
  simp
theorem matz_z (fn : BitVec 4) (m n : BitVec 2) (sa sb : BitVec 6) : fld (matWord fn m n 0 false sa sb) 13 5 = 0#5 := by
  apply BitVec.eq_of_getLsbD_eq
  intro i hi
  show BitVec.getLsbD (BitVec.extractLsb' (n := 6+4+2+2+4+1+6+6+1) 13 5 (0x3A#6 ++ fn ++ m ++ n ++ (0#4) ++ 0#1 ++ sa ++ sb ++ 0#1)) i = _
  simp only [BitVec.getLsbD_extractLsb', BitVec.getLsbD_append]
  repeat' split
  all_goals first | omega | simp [hi]
theorem gfx_op (fn : BitVec 5) (d a : BitVec 7) (s : BitVec 6) : fld (gfxWord fn d a s) 26 6 = 0x3B#6 := by
  show BitVec.extractLsb' (n := 6+5+7+7+6+1) 26 6 (0x3B#6 ++ fn ++ d ++ a ++ s ++ 0#1) = _
  simp (disch := decide) only [BitVec.extractLsb'_append_eq_of_le]
  simp
theorem gfx_fn (fn : BitVec 5) (d a : BitVec 7) (s : BitVec 6) : fn5Gfx (gfxWord fn d a s) = fn := by
  show BitVec.extractLsb' (n := 6+5+7+7+6+1) 21 5 (0x3B#6 ++ fn ++ d ++ a ++ s ++ 0#1) = _
  simp (disch := decide) only [BitVec.extractLsb'_append_eq_of_le, BitVec.extractLsb'_append_eq_of_add_le]
  simp
theorem gfx_d (fn : BitVec 5) (d a : BitVec 7) (s : BitVec 6) : fld (gfxWord fn d a s) 14 7 = d := by
  show BitVec.extractLsb' (n := 6+5+7+7+6+1) 14 7 (0x3B#6 ++ fn ++ d ++ a ++ s ++ 0#1) = _
  simp (disch := decide) only [BitVec.extractLsb'_append_eq_of_le, BitVec.extractLsb'_append_eq_of_add_le]
  simp
theorem gfx_a (fn : BitVec 5) (d a : BitVec 7) (s : BitVec 6) : fld (gfxWord fn d a s) 7 7 = a := by
  show BitVec.extractLsb' (n := 6+5+7+7+6+1) 7 7 (0x3B#6 ++ fn ++ d ++ a ++ s ++ 0#1) = _
  simp (disch := decide) only [BitVec.extractLsb'_append_eq_of_le, BitVec.extractLsb'_append_eq_of_add_le]
  simp
theorem gfx_s (fn : BitVec 5) (d a : BitVec 7) (s : BitVec 6) : fld (gfxWord fn d a s) 1 6 = s := by
  show BitVec.extractLsb' (n := 6+5+7+7+6+1) 1 6 (0x3B#6 ++ fn ++ d ++ a ++ s ++ 0#1) = _
  simp (disch := decide) only [BitVec.extractLsb'_append_eq_of_le, BitVec.extractLsb'_append_eq_of_add_le]
  simp
theorem gfx_z (fn : BitVec 5) (d a : BitVec 7) (s : BitVec 6) : BitVec.getLsbD (gfxWord fn d a s) 0 = false := by
  show BitVec.getLsbD (w := 6+5+7+7+6+1) (0x3B#6 ++ fn ++ d ++ a ++ s ++ 0#1) 0 = _
  simp (disch := decide) only [BitVec.getLsbD_append]
  simp
theorem sys_op (fn : BitVec 6) (d : BitVec 7) (r : BitVec 13) : fld (sysWord fn d r) 26 6 = 0x3C#6 := by
  show BitVec.extractLsb' (n := 6+6+7+13) 26 6 (0x3C#6 ++ fn ++ d ++ r) = _
  simp (disch := decide) only [BitVec.extractLsb'_append_eq_of_le]
  simp
theorem sys_fn (fn : BitVec 6) (d : BitVec 7) (r : BitVec 13) : fn6Asy (sysWord fn d r) = fn := by
  show BitVec.extractLsb' (n := 6+6+7+13) 20 6 (0x3C#6 ++ fn ++ d ++ r) = _
  simp (disch := decide) only [BitVec.extractLsb'_append_eq_of_le, BitVec.extractLsb'_append_eq_of_add_le]
  simp
theorem sys_d (fn : BitVec 6) (d : BitVec 7) (r : BitVec 13) : fld (sysWord fn d r) 13 7 = d := by
  show BitVec.extractLsb' (n := 6+6+7+13) 13 7 (0x3C#6 ++ fn ++ d ++ r) = _
  simp (disch := decide) only [BitVec.extractLsb'_append_eq_of_le, BitVec.extractLsb'_append_eq_of_add_le]
  simp
theorem sys_r (fn : BitVec 6) (d : BitVec 7) (r : BitVec 13) : fld (sysWord fn d r) 0 13 = r := by
  show BitVec.extractLsb' (n := 6+6+7+13) 0 13 (0x3C#6 ++ fn ++ d ++ r) = _
  simp (disch := decide) only [BitVec.extractLsb'_append_eq_of_add_le]
  simp
theorem sys6_z (fn : BitVec 6) (n : BitVec 6) : fld (sysWord fn 0 (0#7 ++ n)) 6 14 = 0#14 := by
  apply BitVec.eq_of_getLsbD_eq
  intro i hi
  show BitVec.getLsbD (BitVec.extractLsb' (n := 6+6+7+(7+6)) 6 14 (0x3C#6 ++ fn ++ (0#7) ++ (0#7 ++ n))) i = _
  simp only [BitVec.getLsbD_extractLsb', BitVec.getLsbD_append]
  repeat' split
  all_goals first | omega | simp [hi]
theorem sys6_n (fn : BitVec 6) (n : BitVec 6) : fld (sysWord fn 0 (0#7 ++ n)) 0 6 = n := by
  apply BitVec.eq_of_getLsbD_eq
  intro i hi
  show BitVec.getLsbD (BitVec.extractLsb' (n := 6+6+7+(7+6)) 0 6 (0x3C#6 ++ fn ++ (0#7) ++ (0#7 ++ n))) i = _
  simp only [BitVec.getLsbD_extractLsb', BitVec.getLsbD_append]
  repeat' split
  all_goals first | omega | simp [hi]
theorem sys2_z (fn : BitVec 6) (n : BitVec 2) : fld (sysWord fn 0 (0#11 ++ n)) 2 18 = 0#18 := by
  apply BitVec.eq_of_getLsbD_eq
  intro i hi
  show BitVec.getLsbD (BitVec.extractLsb' (n := 6+6+7+(11+2)) 2 18 (0x3C#6 ++ fn ++ (0#7) ++ (0#11 ++ n))) i = _
  simp only [BitVec.getLsbD_extractLsb', BitVec.getLsbD_append]
  repeat' split
  all_goals first | omega | simp [hi]
theorem sys2_n (fn : BitVec 6) (n : BitVec 2) : fld (sysWord fn 0 (0#11 ++ n)) 0 2 = n := by
  apply BitVec.eq_of_getLsbD_eq
  intro i hi
  show BitVec.getLsbD (BitVec.extractLsb' (n := 6+6+7+(11+2)) 0 2 (0x3C#6 ++ fn ++ (0#7) ++ (0#11 ++ n))) i = _
  simp only [BitVec.getLsbD_extractLsb', BitVec.getLsbD_append]
  repeat' split
  all_goals first | omega | simp [hi]
theorem sysz_z (fn : BitVec 6) : fld (sysWord fn 0 0) 0 20 = 0#20 := by
  apply BitVec.eq_of_getLsbD_eq
  intro i hi
  show BitVec.getLsbD (BitVec.extractLsb' (n := 6+6+7+13) 0 20 (0x3C#6 ++ fn ++ (0#7) ++ (0#13))) i = _
  simp only [BitVec.getLsbD_extractLsb', BitVec.getLsbD_append]
  repeat' split
  all_goals first | omega | simp [hi]
theorem dict_major (k : BitVec 10) : major (63#6 ++ k : Half) = 63 := by
  show (BitVec.extractLsb' (n := 6+10) 10 6 (63#6 ++ k)).toNat = 63
  simp (disch := decide) only [BitVec.extractLsb'_append_eq_of_le]
  simp
theorem dict_index (k : BitVec 10) : (63#6 ++ k : Half).extractLsb' 0 10 = k := by
  show BitVec.extractLsb' (n := 6+10) 0 10 (63#6 ++ k) = k
  simp (disch := decide) only [BitVec.extractLsb'_append_eq_of_add_le]
  simp

theorem literal_isSome (a : BitVec 7) (u : Bool) (l : Word) : (literal a u l).isSome = (a == 126#7 && !u) := by
  unfold literal
  by_cases h : a = 126#7 <;> cases u <;> simp [h]
theorem literal_some {a : BitVec 7} {u : Bool} {lit : Option Word} (h : literalOk a u lit = true) : lit.isSome = (a == 126#7 && !u) := by
  simpa [literalOk] using h
theorem literal_eq {a : BitVec 7} {u : Bool} {lit : Option Word} (h : lit.isSome = (a == 126#7 && !u)) : literal a u (lit.getD 0) = lit := by
  unfold literal
  cases lit <;> cases u <;> simp_all

/-! ## The formats -/

/-- An instruction of a format without a literal. -/
theorem plain {i : Instr} {w : Word} {op : BitVec 6} (hk : ∀ k, i ≠ .dictionaryParcel k) (he : encodeWord i = some w) (ho : fld w 26 6 = op)
    (hn : op.toNat ≠ 63) (ht : isTri op.toNat = false) (hd : isDuo op.toNat = false) (hl : literalOf i = none)
    (hw : decodeMajor op.toNat w 0 = some i) : decode (encode i) = some (i, (encode i).length) := by
  refine of_word hk he (by rw [ho]; exact hn) ?_ ?_
  · simp [hasLiteral, ho, ht, hd, hl]
  · rw [hl, decodeWord, ho]; exact hw

/-- An instruction of TRI, whose literal field is b. -/
theorem tri {i : Instr} {op : BitVec 6} {o : Tri} {xx : BitVec 1} (hk : ∀ k, i ≠ .dictionaryParcel k)
    (he : encodeWord i = some (triWord op o xx)) (hn : op.toNat ≠ 63) (ht : isTri op.toNat = true) (hd : isDuo op.toNat = false)
    (hl : literalOf i = o.lit) (hok : literalOk o.b o.u o.lit = true)
    (hw : ∀ w l, x w = (xx == 1#1) → readTri w l = o → decodeMajor op.toNat w l = some i) :
    decode (encode i) = some (i, (encode i).length) := by
  refine of_word hk he (by rw [tri_op]; exact hn) ?_ ?_
  · simp [hasLiteral, tri_op, tri_b, tri_u, ht, hd, hl, literal_some hok]
  · rw [hl, decodeWord, tri_op]
    refine hw _ _ (tri_x ..) ?_
    rw [readTri, tri_dst, tri_a, tri_b, tri_p, tri_u, literal_eq (literal_some hok)]

/-- A compare. -/
theorem cmp {i : Instr} {op : BitVec 6} {o : Cmp} {xx : BitVec 1} (hk : ∀ k, i ≠ .dictionaryParcel k)
    (he : encodeWord i = some (cmpWord op o xx)) (hn : op.toNat ≠ 63) (ht : isTri op.toNat = true) (hd : isDuo op.toNat = false)
    (hl : literalOf i = o.lit) (hok : literalOk o.b o.u o.lit = true)
    (hw : ∀ w l, x w = (xx == 1#1) → readCmp w l = o → decodeMajor op.toNat w l = some i) :
    decode (encode i) = some (i, (encode i).length) := by
  refine of_word hk he (by rw [cmp_op]; exact hn) ?_ ?_
  · simp [hasLiteral, cmp_op, cmp_b, cmp_u, ht, hd, hl, literal_some hok]
  · rw [hl, decodeWord, cmp_op]
    refine hw _ _ (cmp_x ..) ?_
    rw [readCmp, cmp_cond, cmp_acc, cmp_mask, cmp_a, cmp_b, cmp_p, cmp_u, literal_eq (literal_some hok)]

/-- Mask logic: field values above 7 are left to the meanings, and 126 is followed by a literal that nothing reads. -/
theorem mask {i : Instr} {op : BitVec 6} {o : MaskTri} {xx : BitVec 1} (hk : ∀ k, i ≠ .dictionaryParcel k)
    (he : encodeWord i = some (maskWord op o xx)) (hn : op.toNat ≠ 63) (ht : isTri op.toNat = true) (hd : isDuo op.toNat = false)
    (hl : literalOf i = literal o.b false 0)
    (hw : ∀ w l, x w = (xx == 1#1) → u w = false → readMaskTri w = o → decodeMajor op.toNat w l = some i) :
    decode (encode i) = some (i, (encode i).length) := by
  refine of_word hk he (by rw [mask_op]; exact hn) ?_ ?_
  · simp [hasLiteral, mask_op, mask_b, mask_u, ht, hd, hl, literal_isSome]
  · rw [decodeWord, mask_op]
    exact hw _ _ (mask_x ..) (mask_u ..) (by rw [readMaskTri, mask_dst, mask_a, mask_b, mask_p])

/-- An instruction of DUO, whose literal field is a when U is 0. -/
theorem duo {i : Instr} {op : BitVec 6} {d a : BitVec 7} {p : BitVec 3} {uu : Bool} {fn : BitVec 8} {lit : Option Word}
    (hk : ∀ k, i ≠ .dictionaryParcel k) (he : encodeWord i = some (duoWord op d a p uu fn)) (hn : op.toNat ≠ 63)
    (ht : isTri op.toNat = false) (hd : isDuo op.toNat = true) (hl : literalOf i = lit) (hs : lit.isSome = (a == 126#7 && !uu))
    (hw : ∀ w l, dst w = d → srcA w = a → predA w = p → uA w = uu → fn8 w = fn → readDuo w l = ⟨d, a, p, uu, lit⟩ →
      readDuoPlain w = ⟨d, a, p⟩ → readJump w l = ⟨a, p, uu, lit⟩ → readWindowMove w l = ⟨a, uu, lit⟩ → decodeMajor op.toNat w l = some i) :
    decode (encode i) = some (i, (encode i).length) := by
  refine of_word hk he (by rw [duo_op]; exact hn) ?_ ?_
  · simp [hasLiteral, duo_op, duo_a, duo_u, ht, hd, hl, hs]
  · rw [hl, decodeWord, duo_op]
    refine hw _ _ (duo_dst ..) (duo_a ..) (duo_p ..) (duo_u ..) (duo_fn ..) ?_ ?_ ?_ ?_
    · rw [readDuo, duo_dst, duo_a, duo_p, duo_u, literal_eq hs]
    · rw [readDuoPlain, duo_dst, duo_a, duo_p]
    · rw [readJump, duo_a, duo_p, duo_u, literal_eq hs]
    · rw [readWindowMove, duo_a, duo_u, literal_eq hs]

/-- An instruction of FLT, whose literal field is a when U is 0. -/
theorem flt {i : Instr} {op : BitVec 6} {d a : BitVec 7} {p : BitVec 3} {uu : Bool} {r : BitVec 3} {fn : BitVec 5} {lit : Option Word}
    (hk : ∀ k, i ≠ .dictionaryParcel k) (he : encodeWord i = some (fltWord op d a p uu r fn)) (hn : op.toNat ≠ 63)
    (ht : isTri op.toNat = false) (hd : isDuo op.toNat = true) (hl : literalOf i = lit) (hs : lit.isSome = (a == 126#7 && !uu))
    (hw : ∀ w l, rm w = r → fn5 w = fn → readFlt w l = ⟨d, a, p, uu, r, lit⟩ → readDuo w l = ⟨d, a, p, uu, lit⟩ →
      decodeMajor op.toNat w l = some i) :
    decode (encode i) = some (i, (encode i).length) := by
  refine of_word hk he (by rw [flt_op]; exact hn) ?_ ?_
  · simp [hasLiteral, flt_op, flt_a, flt_u, ht, hd, hl, hs]
  · rw [hl, decodeWord, flt_op]
    refine hw _ _ (flt_rm ..) (flt_fn ..) ?_ ?_
    · rw [readFlt, flt_dst, flt_a, flt_p, flt_u, flt_rm, literal_eq hs]
    · rw [readDuo, flt_dst, flt_a, flt_p, flt_u, literal_eq hs]

/-- A conversion: the FN of FLT holds `.sat` above the four bits that name it (R137). -/
theorem cvt {i : Instr} {d a : BitVec 7} {p : BitVec 3} {uu : Bool} {r : BitVec 3} {sat : Bool} {fn : BitVec 4} {lit : Option Word}
    (hk : ∀ k, i ≠ .dictionaryParcel k) (he : encodeWord i = some (fltWord 0x2B#6 d a p uu r (BitVec.ofBool sat ++ fn)))
    (hl : literalOf i = lit) (hs : lit.isSome = (a == 126#7 && !uu))
    (hw : ∀ w l, rm w = r → satBit w = sat → fn4 w = fn → readFlt w l = ⟨d, a, p, uu, r, lit⟩ → readDuo w l = ⟨d, a, p, uu, lit⟩ →
      readCvtSat w l = ⟨d, a, p, uu, r, sat, lit⟩ → readCvtInt w l = ⟨d, a, p, uu, sat, lit⟩ → decodeCvt w l = some i) :
    decode (encode i) = some (i, (encode i).length) := by
  refine of_word hk he (by rw [flt_op]; decide) ?_ ?_
  · simp [hasLiteral, flt_op, flt_a, flt_u, isTri, isDuo, hl, hs]
  · rw [hl, decodeWord, flt_op]
    refine hw _ _ (flt_rm ..) (cvt_sat ..) (cvt_fn ..) ?_ ?_ ?_ ?_
    · rw [readFlt, flt_dst, flt_a, flt_p, flt_u, flt_rm, literal_eq hs]
    · rw [readDuo, flt_dst, flt_a, flt_p, flt_u, literal_eq hs]
    · rw [readCvtSat, flt_dst, flt_a, flt_p, flt_u, flt_rm, cvt_sat, literal_eq hs]
    · rw [readCvtInt, flt_dst, flt_a, flt_p, flt_u, cvt_sat, literal_eq hs]

/-! ## The constructors -/

/-- Decoding undoes encoding: every operand at every value that the encoding admits, and the length. -/
def Statement (i : Instr) : Prop := i.wf = true → encode i ≠ [] → decode (encode i) = some (i, (encode i).length)

/-- A step that has no word. -/
theorem no_word {i : Instr} (h : encode i = []) : Statement i := fun _ hn => absurd h hn

theorem addB32 (o : Tri) : Statement (.addB32 o) :=
  fun h _ => tri (by intro k e; cases e) rfl (by decide) rfl rfl rfl h fun w l h1 h2 => by show some (if x w then _ else _) = _; rw [h1, h2]; rfl
theorem subB32 (o : Tri) : Statement (.subB32 o) :=
  fun h _ => tri (by intro k e; cases e) rfl (by decide) rfl rfl rfl h fun w l h1 h2 => by show some (if x w then _ else _) = _; rw [h1, h2]; rfl
theorem mulB32 (o : Tri) : Statement (.mulB32 o) :=
  fun h _ => tri (by intro k e; cases e) rfl (by decide) rfl rfl rfl h fun w l h1 h2 => by show some (if x w then _ else _) = _; rw [h1, h2]; rfl
theorem madB32 (o : Tri) : Statement (.madB32 o) :=
  fun h _ => tri (by intro k e; cases e) rfl (by decide) rfl rfl rfl h fun w l h1 h2 => by show some (if x w then _ else _) = _; rw [h1, h2]; rfl
theorem mulhiS32 (o : Tri) : Statement (.mulhiS32 o) :=
  fun h _ => tri (by intro k e; cases e) rfl (by decide) rfl rfl rfl h fun w l h1 h2 => by show some (if x w then _ else _) = _; rw [h1, h2]; rfl
theorem mulhiN32 (o : Tri) : Statement (.mulhiN32 o) :=
  fun h _ => tri (by intro k e; cases e) rfl (by decide) rfl rfl rfl h fun w l h1 h2 => by show some (if x w then _ else _) = _; rw [h1, h2]; rfl
theorem andB32 (o : Tri) : Statement (.andB32 o) :=
  fun h _ => tri (by intro k e; cases e) rfl (by decide) rfl rfl rfl h fun w l h1 h2 => by show some (if x w then _ else _) = _; rw [h1, h2]; rfl
theorem orB32 (o : Tri) : Statement (.orB32 o) :=
  fun h _ => tri (by intro k e; cases e) rfl (by decide) rfl rfl rfl h fun w l h1 h2 => by show some (if x w then _ else _) = _; rw [h1, h2]; rfl
theorem xorB32 (o : Tri) : Statement (.xorB32 o) :=
  fun h _ => tri (by intro k e; cases e) rfl (by decide) rfl rfl rfl h fun w l h1 h2 => by show some (if x w then _ else _) = _; rw [h1, h2]; rfl
theorem andnB32 (o : Tri) : Statement (.andnB32 o) :=
  fun h _ => tri (by intro k e; cases e) rfl (by decide) rfl rfl rfl h fun w l h1 h2 => by show some (if x w then _ else _) = _; rw [h1, h2]; rfl
theorem shlB32 (o : Tri) : Statement (.shlB32 o) :=
  fun h _ => tri (by intro k e; cases e) rfl (by decide) rfl rfl rfl h fun w l h1 h2 => by show some (if x w then _ else _) = _; rw [h1, h2]; rfl
theorem shrN32 (o : Tri) : Statement (.shrN32 o) :=
  fun h _ => tri (by intro k e; cases e) rfl (by decide) rfl rfl rfl h fun w l h1 h2 => by show some (if x w then _ else _) = _; rw [h1, h2]; rfl
theorem shrS32 (o : Tri) : Statement (.shrS32 o) :=
  fun h _ => tri (by intro k e; cases e) rfl (by decide) rfl rfl rfl h fun w l h1 h2 => by show some (if x w then _ else _) = _; rw [h1, h2]; rfl
theorem rotlB32 (o : Tri) : Statement (.rotlB32 o) :=
  fun h _ => tri (by intro k e; cases e) rfl (by decide) rfl rfl rfl h fun w l h1 h2 => by show some (if x w then _ else _) = _; rw [h1, h2]; rfl
theorem minS32 (o : Tri) : Statement (.minS32 o) :=
  fun h _ => tri (by intro k e; cases e) rfl (by decide) rfl rfl rfl h fun w l h1 h2 => by show some (if x w then _ else _) = _; rw [h1, h2]; rfl
theorem maxS32 (o : Tri) : Statement (.maxS32 o) :=
  fun h _ => tri (by intro k e; cases e) rfl (by decide) rfl rfl rfl h fun w l h1 h2 => by show some (if x w then _ else _) = _; rw [h1, h2]; rfl
theorem minN32 (o : Tri) : Statement (.minN32 o) :=
  fun h _ => tri (by intro k e; cases e) rfl (by decide) rfl rfl rfl h fun w l h1 h2 => by show some (if x w then _ else _) = _; rw [h1, h2]; rfl
theorem maxN32 (o : Tri) : Statement (.maxN32 o) :=
  fun h _ => tri (by intro k e; cases e) rfl (by decide) rfl rfl rfl h fun w l h1 h2 => by show some (if x w then _ else _) = _; rw [h1, h2]; rfl
theorem addsS32 (o : Tri) : Statement (.addsS32 o) :=
  fun h _ => tri (by intro k e; cases e) rfl (by decide) rfl rfl rfl h fun w l h1 h2 => by show some (if x w then _ else _) = _; rw [h1, h2]; rfl
theorem subsS32 (o : Tri) : Statement (.subsS32 o) :=
  fun h _ => tri (by intro k e; cases e) rfl (by decide) rfl rfl rfl h fun w l h1 h2 => by show some (if x w then _ else _) = _; rw [h1, h2]; rfl
theorem addsN32 (o : Tri) : Statement (.addsN32 o) :=
  fun h _ => tri (by intro k e; cases e) rfl (by decide) rfl rfl rfl h fun w l h1 h2 => by show some (if x w then _ else _) = _; rw [h1, h2]; rfl
theorem subsN32 (o : Tri) : Statement (.subsN32 o) :=
  fun h _ => tri (by intro k e; cases e) rfl (by decide) rfl rfl rfl h fun w l h1 h2 => by show some (if x w then _ else _) = _; rw [h1, h2]; rfl
theorem bfxN32 (o : Tri) : Statement (.bfxN32 o) :=
  fun h _ => tri (by intro k e; cases e) rfl (by decide) rfl rfl rfl h fun w l h1 h2 => by show some (if x w then _ else _) = _; rw [h1, h2]; rfl
theorem bfxS32 (o : Tri) : Statement (.bfxS32 o) :=
  fun h _ => tri (by intro k e; cases e) rfl (by decide) rfl rfl rfl h fun w l h1 h2 => by show some (if x w then _ else _) = _; rw [h1, h2]; rfl
theorem bfiB32 (o : Tri) : Statement (.bfiB32 o) :=
  fun h _ => tri (by intro k e; cases e) rfl (by decide) rfl rfl rfl h fun w l h1 h2 => by show some (if x w then _ else _) = _; rw [h1, h2]; rfl
theorem absdN32 (o : Tri) : Statement (.absdN32 o) :=
  fun h _ => tri (by intro k e; cases e) rfl (by decide) rfl rfl rfl h fun w l h1 h2 => by show some (if x w then _ else _) = _; rw [h1, h2]; rfl
theorem addN64 (o : Tri) : Statement (.addN64 o) :=
  fun h _ => tri (by intro k e; cases e) rfl (by decide) rfl rfl rfl h fun w l h1 h2 => by show some (if x w then _ else _) = _; rw [h1, h2]; rfl
theorem subN64 (o : Tri) : Statement (.subN64 o) :=
  fun h _ => tri (by intro k e; cases e) rfl (by decide) rfl rfl rfl h fun w l h1 h2 => by show some (if x w then _ else _) = _; rw [h1, h2]; rfl
theorem mulN64 (o : Tri) : Statement (.mulN64 o) :=
  fun h _ => tri (by intro k e; cases e) rfl (by decide) rfl rfl rfl h fun w l h1 h2 => by show some (if x w then _ else _) = _; rw [h1, h2]; rfl
theorem mulwN32 (o : Tri) : Statement (.mulwN32 o) :=
  fun h _ => tri (by intro k e; cases e) rfl (by decide) rfl rfl rfl h fun w l h1 h2 => by show some (if x w then _ else _) = _; rw [h1, h2]; rfl
theorem mulwS32 (o : Tri) : Statement (.mulwS32 o) :=
  fun h _ => tri (by intro k e; cases e) rfl (by decide) rfl rfl rfl h fun w l h1 h2 => by show some (if x w then _ else _) = _; rw [h1, h2]; rfl
theorem addaS64 (o : Tri) : Statement (.addaS64 o) :=
  fun h _ => tri (by intro k e; cases e) rfl (by decide) rfl rfl rfl h fun w l h1 h2 => by show some (if x w then _ else _) = _; rw [h1, h2]; rfl
theorem shlN64 (o : Tri) : Statement (.shlN64 o) :=
  fun h _ => tri (by intro k e; cases e) rfl (by decide) rfl rfl rfl h fun w l h1 h2 => by show some (if x w then _ else _) = _; rw [h1, h2]; rfl
theorem shrN64 (o : Tri) : Statement (.shrN64 o) :=
  fun h _ => tri (by intro k e; cases e) rfl (by decide) rfl rfl rfl h fun w l h1 h2 => by show some (if x w then _ else _) = _; rw [h1, h2]; rfl
theorem shrS64 (o : Tri) : Statement (.shrS64 o) :=
  fun h _ => tri (by intro k e; cases e) rfl (by decide) rfl rfl rfl h fun w l h1 h2 => by show some (if x w then _ else _) = _; rw [h1, h2]; rfl
theorem rotlN64 (o : Tri) : Statement (.rotlN64 o) :=
  fun h _ => tri (by intro k e; cases e) rfl (by decide) rfl rfl rfl h fun w l h1 h2 => by show some (if x w then _ else _) = _; rw [h1, h2]; rfl
theorem cmpS32 (o : Cmp) : Statement (.cmpS32 o) :=
  fun h _ => cmp (by intro k e; cases e) rfl (by decide) rfl rfl rfl h fun w l h1 h2 => by show some (if x w then _ else _) = _; rw [h1, h2]; rfl
theorem cmpN32 (o : Cmp) : Statement (.cmpN32 o) :=
  fun h _ => cmp (by intro k e; cases e) rfl (by decide) rfl rfl rfl h fun w l h1 h2 => by show some (if x w then _ else _) = _; rw [h1, h2]; rfl
theorem cmpS64 (o : Cmp) : Statement (.cmpS64 o) :=
  fun h _ => cmp (by intro k e; cases e) rfl (by decide) rfl rfl rfl h fun w l h1 h2 => by show some (if x w then _ else _) = _; rw [h1, h2]; rfl
theorem cmpN64 (o : Cmp) : Statement (.cmpN64 o) :=
  fun h _ => cmp (by intro k e; cases e) rfl (by decide) rfl rfl rfl h fun w l h1 h2 => by show some (if x w then _ else _) = _; rw [h1, h2]; rfl
theorem addB32Imm (o : Rri) : Statement (.addB32Imm o) :=
  fun h _ => plain (by intro k e; cases e) rfl (rri_op ..) (by decide) rfl rfl rfl (by
    show some _ = _; rw [rri_dst, rri_a, rri_p, rri_imm])
theorem shlB32Imm (o : ShiftImm) : Statement (.shlB32Imm o) :=
  fun h _ => plain (by intro k e; cases e) rfl (rri_op ..) (by decide) rfl rfl rfl (by
    show decodeShiftImm _ = _; unfold decodeShiftImm; rw [rri_dst, rri_a, rri_p, shift_k, shift_n]; rfl)
theorem shrN32Imm (o : ShiftImm) : Statement (.shrN32Imm o) :=
  fun h _ => plain (by intro k e; cases e) rfl (rri_op ..) (by decide) rfl rfl rfl (by
    show decodeShiftImm _ = _; unfold decodeShiftImm; rw [rri_dst, rri_a, rri_p, shift_k, shift_n]; rfl)
theorem shrS32Imm (o : ShiftImm) : Statement (.shrS32Imm o) :=
  fun h _ => plain (by intro k e; cases e) rfl (rri_op ..) (by decide) rfl rfl rfl (by
    show decodeShiftImm _ = _; unfold decodeShiftImm; rw [rri_dst, rri_a, rri_p, shift_k, shift_n]; rfl)
theorem addN64Imm (o : Rri) : Statement (.addN64Imm o) :=
  fun h _ => plain (by intro k e; cases e) rfl (rri_op ..) (by decide) rfl rfl rfl (by
    show some _ = _; rw [rri_dst, rri_a, rri_p, rri_imm])
theorem movB32Imm (o : Ri) : Statement (.movB32Imm o) :=
  fun h _ => plain (by intro k e; cases e) rfl (ri_op ..) (by decide) rfl rfl rfl (by
    show some _ = _; rw [ri_dst, ri_p, ri_imm])
theorem movB32ImmS (o : Ri) : Statement (.movB32ImmS o) :=
  fun h _ => plain (by intro k e; cases e) rfl (ri_op ..) (by decide) rfl rfl rfl (by
    show some _ = _; rw [ri_dst, ri_p, ri_imm])
theorem movB32 (o : Duo) : Statement (.movB32 o) :=
  fun h _ => duo (by intro k e; cases e) rfl (by decide) rfl rfl rfl (literal_some h) fun w l d a p u f r pl j m => by
    show decodeDuo19 w l = _; unfold decodeDuo19; rw [f, r]; rfl
theorem notB32 (o : Duo) : Statement (.notB32 o) :=
  fun h _ => duo (by intro k e; cases e) rfl (by decide) rfl rfl rfl (literal_some h) fun w l d a p u f r pl j m => by
    show decodeDuo19 w l = _; unfold decodeDuo19; rw [f, r]; rfl
theorem negS32 (o : Duo) : Statement (.negS32 o) :=
  fun h _ => duo (by intro k e; cases e) rfl (by decide) rfl rfl rfl (literal_some h) fun w l d a p u f r pl j m => by
    show decodeDuo19 w l = _; unfold decodeDuo19; rw [f, r]; rfl
theorem absS32 (o : Duo) : Statement (.absS32 o) :=
  fun h _ => duo (by intro k e; cases e) rfl (by decide) rfl rfl rfl (literal_some h) fun w l d a p u f r pl j m => by
    show decodeDuo19 w l = _; unfold decodeDuo19; rw [f, r]; rfl
theorem popcB32 (o : Duo) : Statement (.popcB32 o) :=
  fun h _ => duo (by intro k e; cases e) rfl (by decide) rfl rfl rfl (literal_some h) fun w l d a p u f r pl j m => by
    show decodeDuo19 w l = _; unfold decodeDuo19; rw [f, r]; rfl
theorem clzB32 (o : Duo) : Statement (.clzB32 o) :=
  fun h _ => duo (by intro k e; cases e) rfl (by decide) rfl rfl rfl (literal_some h) fun w l d a p u f r pl j m => by
    show decodeDuo19 w l = _; unfold decodeDuo19; rw [f, r]; rfl
theorem ctzB32 (o : Duo) : Statement (.ctzB32 o) :=
  fun h _ => duo (by intro k e; cases e) rfl (by decide) rfl rfl rfl (literal_some h) fun w l d a p u f r pl j m => by
    show decodeDuo19 w l = _; unfold decodeDuo19; rw [f, r]; rfl
theorem brevB32 (o : Duo) : Statement (.brevB32 o) :=
  fun h _ => duo (by intro k e; cases e) rfl (by decide) rfl rfl rfl (literal_some h) fun w l d a p u f r pl j m => by
    show decodeDuo19 w l = _; unfold decodeDuo19; rw [f, r]; rfl
theorem sxbS32 (o : Duo) : Statement (.sxbS32 o) :=
  fun h _ => duo (by intro k e; cases e) rfl (by decide) rfl rfl rfl (literal_some h) fun w l d a p u f r pl j m => by
    show decodeDuo19 w l = _; unfold decodeDuo19; rw [f, r]; rfl
theorem sxhS32 (o : Duo) : Statement (.sxhS32 o) :=
  fun h _ => duo (by intro k e; cases e) rfl (by decide) rfl rfl rfl (literal_some h) fun w l d a p u f r pl j m => by
    show decodeDuo19 w l = _; unfold decodeDuo19; rw [f, r]; rfl
theorem div3N32 (o : Duo) : Statement (.div3N32 o) :=
  fun h _ => duo (by intro k e; cases e) rfl (by decide) rfl rfl rfl (literal_some h) fun w l d a p u f r pl j m => by
    show decodeDuo19 w l = _; unfold decodeDuo19; rw [f, r]; rfl
theorem mod3N32 (o : Duo) : Statement (.mod3N32 o) :=
  fun h _ => duo (by intro k e; cases e) rfl (by decide) rfl rfl rfl (literal_some h) fun w l d a p u f r pl j m => by
    show decodeDuo19 w l = _; unfold decodeDuo19; rw [f, r]; rfl
theorem movN64 (o : Duo) : Statement (.movN64 o) :=
  fun h _ => duo (by intro k e; cases e) rfl (by decide) rfl rfl rfl (literal_some h) fun w l d a p u f r pl j m => by
    show decodeDuo19 w l = _; unfold decodeDuo19; rw [f, r]; rfl
theorem negS64 (o : Duo) : Statement (.negS64 o) :=
  fun h _ => duo (by intro k e; cases e) rfl (by decide) rfl rfl rfl (literal_some h) fun w l d a p u f r pl j m => by
    show decodeDuo19 w l = _; unfold decodeDuo19; rw [f, r]; rfl
theorem div3N64 (o : Duo) : Statement (.div3N64 o) :=
  fun h _ => duo (by intro k e; cases e) rfl (by decide) rfl rfl rfl (literal_some h) fun w l d a p u f r pl j m => by
    show decodeDuo19 w l = _; unfold decodeDuo19; rw [f, r]; rfl
theorem mod3N64 (o : Duo) : Statement (.mod3N64 o) :=
  fun h _ => duo (by intro k e; cases e) rfl (by decide) rfl rfl rfl (literal_some h) fun w l d a p u f r pl j m => by
    show decodeDuo19 w l = _; unfold decodeDuo19; rw [f, r]; rfl
theorem mset (o : Duo) : Statement (.mset o) :=
  fun h _ => duo (by intro k e; cases e) rfl (by decide) rfl rfl rfl (literal_some h) fun w l d a p u f r pl j m => by
    show decodeDuo19 w l = _; unfold decodeDuo19; rw [f, r]; rfl
theorem mget (o : DuoPlain) : Statement (.mget o) :=
  fun h _ => duo (by intro k e; cases e) rfl (by decide) rfl rfl rfl (literal_isSome ..) fun w l d a p u f r pl j m => by
    show decodeDuo19 w l = _; unfold decodeDuo19; rw [f, u, pl]; rfl
theorem mand (o : MaskTri) : Statement (.mand o) :=
  fun _ _ => mask (by intro k e; cases e) rfl (by decide) rfl rfl rfl fun w l h1 h2 h3 => by
    show (if u w then _ else some (if x w then _ else _)) = _; rw [h1, h2, h3]; rfl
theorem mor (o : MaskTri) : Statement (.mor o) :=
  fun _ _ => mask (by intro k e; cases e) rfl (by decide) rfl rfl rfl fun w l h1 h2 h3 => by
    show (if u w then _ else some (if x w then _ else _)) = _; rw [h1, h2, h3]; rfl
theorem mxor (o : MaskTri) : Statement (.mxor o) :=
  fun _ _ => mask (by intro k e; cases e) rfl (by decide) rfl rfl rfl fun w l h1 h2 h3 => by
    show (if u w then _ else some (if x w then _ else _)) = _; rw [h1, h2, h3]; rfl
theorem mandn (o : MaskTri) : Statement (.mandn o) :=
  fun _ _ => mask (by intro k e; cases e) rfl (by decide) rfl rfl rfl fun w l h1 h2 h3 => by
    show (if u w then _ else some (if x w then _ else _)) = _; rw [h1, h2, h3]; rfl
theorem br (o : Br) : Statement (.br o) :=
  fun h _ => plain (by intro k e; cases e) rfl (bra_op ..) (by decide) rfl rfl rfl (by
    show some (if _ = _ then _ else _) = _; rw [bra_k, bra_p, bra_off]; rfl)
theorem call (o : Call) : Statement (.call o) :=
  fun h _ => plain (by intro k e; cases e) rfl (bra_op ..) (by decide) rfl rfl rfl (by
    show some (if _ = _ then _ else _) = _; rw [bra_k, bra_p, bra_off]; exact congrArg some (if_neg (bne_iff_ne.mp h)))
theorem jmp (o : Jump) : Statement (.jmp o) :=
  fun h _ => duo (by intro k e; cases e) rfl (by decide) rfl rfl rfl (literal_some h) fun w l d a p u f r pl j m => by
    show decodeJump w l = _; unfold decodeJump; rw [f, d, j]; rfl
theorem ret (o : Jump) : Statement (.ret o) :=
  fun h _ => duo (by intro k e; cases e) rfl (by decide) rfl rfl rfl (literal_some h) fun w l d a p u f r pl j m => by
    show decodeJump w l = _; unfold decodeJump; rw [f, d, j]; rfl
theorem calli (o : Duo) : Statement (.calli o) :=
  fun h _ => duo (by intro k e; cases e) rfl (by decide) rfl rfl rfl (literal_some h) fun w l d a p u f r pl j m => by
    show decodeJump w l = _; unfold decodeJump; rw [f, r]; rfl
theorem exit (p : BitVec 3) : Statement (.exit p) :=
  fun h _ => duo (by intro k e; cases e) rfl (by decide) rfl rfl rfl rfl fun w l d a p u f r pl j m => by
    show decodeJump w l = _; unfold decodeJump; rw [f, d, a, u, p]; rfl
theorem yield (p : BitVec 3) : Statement (.yield p) :=
  fun h _ => duo (by intro k e; cases e) rfl (by decide) rfl rfl rfl rfl fun w l d a p u f r pl j m => by
    show decodeJump w l = _; unfold decodeJump; rw [f, d, a, u, p]; rfl
theorem wbase (o : WindowMove) : Statement (.wbase o) :=
  fun h _ => duo (by intro k e; cases e) rfl (by decide) rfl rfl rfl (literal_some h) fun w l d a p u f r pl j m => by
    show decodeJump w l = _; unfold decodeJump; rw [f, d, p, m]; rfl
theorem wbadd (o : WindowMove) : Statement (.wbadd o) :=
  fun h _ => duo (by intro k e; cases e) rfl (by decide) rfl rfl rfl (literal_some h) fun w l d a p u f r pl j m => by
    show decodeJump w l = _; unfold decodeJump; rw [f, d, p, m]; rfl
theorem nop (p : BitVec 3) : Statement (.nop p) :=
  fun h _ => duo (by intro k e; cases e) rfl (by decide) rfl rfl rfl rfl fun w l d a p u f r pl j m => by
    show decodeJump w l = _; unfold decodeJump; rw [f, d, a, u, p]; rfl
theorem faddF32 (o : Tri) : Statement (.faddF32 o) :=
  fun h _ => tri (by intro k e; cases e) rfl (by decide) rfl rfl rfl h fun w l h1 h2 => by show some (if x w then _ else _) = _; rw [h1, h2]; rfl
theorem fmulF32 (o : Tri) : Statement (.fmulF32 o) :=
  fun h _ => tri (by intro k e; cases e) rfl (by decide) rfl rfl rfl h fun w l h1 h2 => by show some (if x w then _ else _) = _; rw [h1, h2]; rfl
theorem ffmaF32 (o : Tri) : Statement (.ffmaF32 o) :=
  fun h _ => tri (by intro k e; cases e) rfl (by decide) rfl rfl rfl h fun w l h1 h2 => by show some (if x w then _ else _) = _; rw [h1, h2]; rfl
theorem fsubF32 (o : Tri) : Statement (.fsubF32 o) :=
  fun h _ => tri (by intro k e; cases e) rfl (by decide) rfl rfl rfl h fun w l h1 h2 => by show some (if x w then _ else _) = _; rw [h1, h2]; rfl
theorem fminF32 (o : Tri) : Statement (.fminF32 o) :=
  fun h _ => tri (by intro k e; cases e) rfl (by decide) rfl rfl rfl h fun w l h1 h2 => by show some (if x w then _ else _) = _; rw [h1, h2]; rfl
theorem fmaxF32 (o : Tri) : Statement (.fmaxF32 o) :=
  fun h _ => tri (by intro k e; cases e) rfl (by decide) rfl rfl rfl h fun w l h1 h2 => by show some (if x w then _ else _) = _; rw [h1, h2]; rfl
theorem faddF16 (o : Tri) : Statement (.faddF16 o) :=
  fun h _ => tri (by intro k e; cases e) rfl (by decide) rfl rfl rfl h fun w l h1 h2 => by show some (if x w then _ else _) = _; rw [h1, h2]; rfl
theorem fmulF16 (o : Tri) : Statement (.fmulF16 o) :=
  fun h _ => tri (by intro k e; cases e) rfl (by decide) rfl rfl rfl h fun w l h1 h2 => by show some (if x w then _ else _) = _; rw [h1, h2]; rfl
theorem ffmaF16 (o : Tri) : Statement (.ffmaF16 o) :=
  fun h _ => tri (by intro k e; cases e) rfl (by decide) rfl rfl rfl h fun w l h1 h2 => by show some (if x w then _ else _) = _; rw [h1, h2]; rfl
theorem fsubF16 (o : Tri) : Statement (.fsubF16 o) :=
  fun h _ => tri (by intro k e; cases e) rfl (by decide) rfl rfl rfl h fun w l h1 h2 => by show some (if x w then _ else _) = _; rw [h1, h2]; rfl
theorem fminF16 (o : Tri) : Statement (.fminF16 o) :=
  fun h _ => tri (by intro k e; cases e) rfl (by decide) rfl rfl rfl h fun w l h1 h2 => by show some (if x w then _ else _) = _; rw [h1, h2]; rfl
theorem fmaxF16 (o : Tri) : Statement (.fmaxF16 o) :=
  fun h _ => tri (by intro k e; cases e) rfl (by decide) rfl rfl rfl h fun w l h1 h2 => by show some (if x w then _ else _) = _; rw [h1, h2]; rfl
theorem faddBf16 (o : Tri) : Statement (.faddBf16 o) :=
  fun h _ => tri (by intro k e; cases e) rfl (by decide) rfl rfl rfl h fun w l h1 h2 => by show some (if x w then _ else _) = _; rw [h1, h2]; rfl
theorem fmulBf16 (o : Tri) : Statement (.fmulBf16 o) :=
  fun h _ => tri (by intro k e; cases e) rfl (by decide) rfl rfl rfl h fun w l h1 h2 => by show some (if x w then _ else _) = _; rw [h1, h2]; rfl
theorem ffmaBf16 (o : Tri) : Statement (.ffmaBf16 o) :=
  fun h _ => tri (by intro k e; cases e) rfl (by decide) rfl rfl rfl h fun w l h1 h2 => by show some (if x w then _ else _) = _; rw [h1, h2]; rfl
theorem fsubBf16 (o : Tri) : Statement (.fsubBf16 o) :=
  fun h _ => tri (by intro k e; cases e) rfl (by decide) rfl rfl rfl h fun w l h1 h2 => by show some (if x w then _ else _) = _; rw [h1, h2]; rfl
theorem fminBf16 (o : Tri) : Statement (.fminBf16 o) :=
  fun h _ => tri (by intro k e; cases e) rfl (by decide) rfl rfl rfl h fun w l h1 h2 => by show some (if x w then _ else _) = _; rw [h1, h2]; rfl
theorem fmaxBf16 (o : Tri) : Statement (.fmaxBf16 o) :=
  fun h _ => tri (by intro k e; cases e) rfl (by decide) rfl rfl rfl h fun w l h1 h2 => by show some (if x w then _ else _) = _; rw [h1, h2]; rfl
theorem fcmpF32 (o : Cmp) : Statement (.fcmpF32 o) :=
  fun h _ => cmp (by intro k e; cases e) rfl (by decide) rfl rfl rfl h fun w l h1 h2 => by show some (if x w then _ else _) = _; rw [h1, h2]; rfl
theorem fcmpF16 (o : Cmp) : Statement (.fcmpF16 o) :=
  fun h _ => cmp (by intro k e; cases e) rfl (by decide) rfl rfl rfl h fun w l h1 h2 => by show some (if x w then _ else _) = _; rw [h1, h2]; rfl
theorem faddF32Rm (o : Flt) : Statement (.faddF32Rm o) :=
  fun h _ => flt (by intro k e; cases e) rfl (by decide) rfl rfl rfl (literal_some h) fun w l r f fl du => by
    show decodeF32 w l = _; unfold decodeF32; rw [f, fl]; rfl
theorem fsubF32Rm (o : Flt) : Statement (.fsubF32Rm o) :=
  fun h _ => flt (by intro k e; cases e) rfl (by decide) rfl rfl rfl (literal_some h) fun w l r f fl du => by
    show decodeF32 w l = _; unfold decodeF32; rw [f, fl]; rfl
theorem fmulF32Rm (o : Flt) : Statement (.fmulF32Rm o) :=
  fun h _ => flt (by intro k e; cases e) rfl (by decide) rfl rfl rfl (literal_some h) fun w l r f fl du => by
    show decodeF32 w l = _; unfold decodeF32; rw [f, fl]; rfl
theorem fdivF32 (o : Flt) : Statement (.fdivF32 o) :=
  fun h _ => flt (by intro k e; cases e) rfl (by decide) rfl rfl rfl (literal_some h) fun w l r f fl du => by
    show decodeF32 w l = _; unfold decodeF32; rw [f, fl]; rfl
theorem fsqrtF32 (o : Flt) : Statement (.fsqrtF32 o) :=
  fun h _ => flt (by intro k e; cases e) rfl (by decide) rfl rfl rfl (literal_some h) fun w l r f fl du => by
    show decodeF32 w l = _; unfold decodeF32; rw [f, fl]; rfl
theorem frndF32 (o : Flt) : Statement (.frndF32 o) :=
  fun h _ => flt (by intro k e; cases e) rfl (by decide) rfl rfl rfl (literal_some h) fun w l r f fl du => by
    show decodeF32 w l = _; unfold decodeF32; rw [f, fl]; rfl
theorem frcp (o : Duo) : Statement (.frcp o) :=
  fun h _ => flt (by intro k e; cases e) rfl (by decide) rfl rfl rfl (literal_some h) fun w l r f fl du => by
    show decodeF32 w l = _; unfold decodeF32; rw [f, r, du]; rfl
theorem frsq (o : Duo) : Statement (.frsq o) :=
  fun h _ => flt (by intro k e; cases e) rfl (by decide) rfl rfl rfl (literal_some h) fun w l r f fl du => by
    show decodeF32 w l = _; unfold decodeF32; rw [f, r, du]; rfl
theorem fex2 (o : Duo) : Statement (.fex2 o) :=
  fun h _ => flt (by intro k e; cases e) rfl (by decide) rfl rfl rfl (literal_some h) fun w l r f fl du => by
    show decodeF32 w l = _; unfold decodeF32; rw [f, r, du]; rfl
theorem flg2 (o : Duo) : Statement (.flg2 o) :=
  fun h _ => flt (by intro k e; cases e) rfl (by decide) rfl rfl rfl (literal_some h) fun w l r f fl du => by
    show decodeF32 w l = _; unfold decodeF32; rw [f, r, du]; rfl
theorem fsin (o : Duo) : Statement (.fsin o) :=
  fun h _ => flt (by intro k e; cases e) rfl (by decide) rfl rfl rfl (literal_some h) fun w l r f fl du => by
    show decodeF32 w l = _; unfold decodeF32; rw [f, r, du]; rfl
theorem fcos (o : Duo) : Statement (.fcos o) :=
  fun h _ => flt (by intro k e; cases e) rfl (by decide) rfl rfl rfl (literal_some h) fun w l r f fl du => by
    show decodeF32 w l = _; unfold decodeF32; rw [f, r, du]; rfl
theorem fabsF32 (o : Duo) : Statement (.fabsF32 o) :=
  fun h _ => flt (by intro k e; cases e) rfl (by decide) rfl rfl rfl (literal_some h) fun w l r f fl du => by
    show decodeF32 w l = _; unfold decodeF32; rw [f, r, du]; rfl
theorem fnegF32 (o : Duo) : Statement (.fnegF32 o) :=
  fun h _ => flt (by intro k e; cases e) rfl (by decide) rfl rfl rfl (literal_some h) fun w l r f fl du => by
    show decodeF32 w l = _; unfold decodeF32; rw [f, r, du]; rfl
theorem fsgnF32 (o : Duo) : Statement (.fsgnF32 o) :=
  fun h _ => flt (by intro k e; cases e) rfl (by decide) rfl rfl rfl (literal_some h) fun w l r f fl du => by
    show decodeF32 w l = _; unfold decodeF32; rw [f, r, du]; rfl
theorem faddF16Rm (o : Flt) : Statement (.faddF16Rm o) :=
  fun h _ => flt (by intro k e; cases e) rfl (by decide) rfl rfl rfl (literal_some h) fun w l r f fl du => by
    show decodeF16 w l = _; unfold decodeF16; rw [f, fl]; rfl
theorem fsubF16Rm (o : Flt) : Statement (.fsubF16Rm o) :=
  fun h _ => flt (by intro k e; cases e) rfl (by decide) rfl rfl rfl (literal_some h) fun w l r f fl du => by
    show decodeF16 w l = _; unfold decodeF16; rw [f, fl]; rfl
theorem fmulF16Rm (o : Flt) : Statement (.fmulF16Rm o) :=
  fun h _ => flt (by intro k e; cases e) rfl (by decide) rfl rfl rfl (literal_some h) fun w l r f fl du => by
    show decodeF16 w l = _; unfold decodeF16; rw [f, fl]; rfl
theorem fdivF16 (o : Flt) : Statement (.fdivF16 o) :=
  fun h _ => flt (by intro k e; cases e) rfl (by decide) rfl rfl rfl (literal_some h) fun w l r f fl du => by
    show decodeF16 w l = _; unfold decodeF16; rw [f, fl]; rfl
theorem fsqrtF16 (o : Flt) : Statement (.fsqrtF16 o) :=
  fun h _ => flt (by intro k e; cases e) rfl (by decide) rfl rfl rfl (literal_some h) fun w l r f fl du => by
    show decodeF16 w l = _; unfold decodeF16; rw [f, fl]; rfl
theorem frndF16 (o : Flt) : Statement (.frndF16 o) :=
  fun h _ => flt (by intro k e; cases e) rfl (by decide) rfl rfl rfl (literal_some h) fun w l r f fl du => by
    show decodeF16 w l = _; unfold decodeF16; rw [f, fl]; rfl
theorem fabsF16 (o : Duo) : Statement (.fabsF16 o) :=
  fun h _ => flt (by intro k e; cases e) rfl (by decide) rfl rfl rfl (literal_some h) fun w l r f fl du => by
    show decodeF16 w l = _; unfold decodeF16; rw [f, r, du]; rfl
theorem fnegF16 (o : Duo) : Statement (.fnegF16 o) :=
  fun h _ => flt (by intro k e; cases e) rfl (by decide) rfl rfl rfl (literal_some h) fun w l r f fl du => by
    show decodeF16 w l = _; unfold decodeF16; rw [f, r, du]; rfl
theorem fsgnF16 (o : Duo) : Statement (.fsgnF16 o) :=
  fun h _ => flt (by intro k e; cases e) rfl (by decide) rfl rfl rfl (literal_some h) fun w l r f fl du => by
    show decodeF16 w l = _; unfold decodeF16; rw [f, r, du]; rfl
theorem faddBf16Rm (o : Flt) : Statement (.faddBf16Rm o) :=
  fun h _ => flt (by intro k e; cases e) rfl (by decide) rfl rfl rfl (literal_some h) fun w l r f fl du => by
    show decodeBf16 w l = _; unfold decodeBf16; rw [f, fl]; rfl
theorem fsubBf16Rm (o : Flt) : Statement (.fsubBf16Rm o) :=
  fun h _ => flt (by intro k e; cases e) rfl (by decide) rfl rfl rfl (literal_some h) fun w l r f fl du => by
    show decodeBf16 w l = _; unfold decodeBf16; rw [f, fl]; rfl
theorem fmulBf16Rm (o : Flt) : Statement (.fmulBf16Rm o) :=
  fun h _ => flt (by intro k e; cases e) rfl (by decide) rfl rfl rfl (literal_some h) fun w l r f fl du => by
    show decodeBf16 w l = _; unfold decodeBf16; rw [f, fl]; rfl
theorem fdivBf16 (o : Flt) : Statement (.fdivBf16 o) :=
  fun h _ => flt (by intro k e; cases e) rfl (by decide) rfl rfl rfl (literal_some h) fun w l r f fl du => by
    show decodeBf16 w l = _; unfold decodeBf16; rw [f, fl]; rfl
theorem fsqrtBf16 (o : Flt) : Statement (.fsqrtBf16 o) :=
  fun h _ => flt (by intro k e; cases e) rfl (by decide) rfl rfl rfl (literal_some h) fun w l r f fl du => by
    show decodeBf16 w l = _; unfold decodeBf16; rw [f, fl]; rfl
theorem frndBf16 (o : Flt) : Statement (.frndBf16 o) :=
  fun h _ => flt (by intro k e; cases e) rfl (by decide) rfl rfl rfl (literal_some h) fun w l r f fl du => by
    show decodeBf16 w l = _; unfold decodeBf16; rw [f, fl]; rfl
theorem fabsBf16 (o : Duo) : Statement (.fabsBf16 o) :=
  fun h _ => flt (by intro k e; cases e) rfl (by decide) rfl rfl rfl (literal_some h) fun w l r f fl du => by
    show decodeBf16 w l = _; unfold decodeBf16; rw [f, r, du]; rfl
theorem fnegBf16 (o : Duo) : Statement (.fnegBf16 o) :=
  fun h _ => flt (by intro k e; cases e) rfl (by decide) rfl rfl rfl (literal_some h) fun w l r f fl du => by
    show decodeBf16 w l = _; unfold decodeBf16; rw [f, r, du]; rfl
theorem fsgnBf16 (o : Duo) : Statement (.fsgnBf16 o) :=
  fun h _ => flt (by intro k e; cases e) rfl (by decide) rfl rfl rfl (literal_some h) fun w l r f fl du => by
    show decodeBf16 w l = _; unfold decodeBf16; rw [f, r, du]; rfl
theorem cvtF16F32 (o : CvtSat) : Statement (.cvtF16F32 o) :=
  fun h _ => cvt (by intro k e; cases e) rfl rfl (literal_some h) fun w l r s f fl du c ci => by unfold decodeCvt; rw [f, c]; rfl
theorem cvtBf16F32 (o : CvtSat) : Statement (.cvtBf16F32 o) :=
  fun h _ => cvt (by intro k e; cases e) rfl rfl (literal_some h) fun w l r s f fl du c ci => by unfold decodeCvt; rw [f, c]; rfl
theorem cvtE4m3F32 (o : CvtSat) : Statement (.cvtE4m3F32 o) :=
  fun h _ => cvt (by intro k e; cases e) rfl rfl (literal_some h) fun w l r s f fl du c ci => by unfold decodeCvt; rw [f, c]; rfl
theorem cvtE5m2F32 (o : CvtSat) : Statement (.cvtE5m2F32 o) :=
  fun h _ => cvt (by intro k e; cases e) rfl rfl (literal_some h) fun w l r s f fl du c ci => by unfold decodeCvt; rw [f, c]; rfl
theorem cvtF32F16 (o : Duo) : Statement (.cvtF32F16 o) :=
  fun h _ => cvt (sat := false) (by intro k e; cases e) rfl rfl (literal_some h) fun w l r s f fl du c ci => by unfold decodeCvt; rw [f, r, s, du]; rfl
theorem cvtF32Bf16 (o : Duo) : Statement (.cvtF32Bf16 o) :=
  fun h _ => cvt (sat := false) (by intro k e; cases e) rfl rfl (literal_some h) fun w l r s f fl du c ci => by unfold decodeCvt; rw [f, r, s, du]; rfl
theorem cvtF32E4m3 (o : Duo) : Statement (.cvtF32E4m3 o) :=
  fun h _ => cvt (sat := false) (by intro k e; cases e) rfl rfl (literal_some h) fun w l r s f fl du c ci => by unfold decodeCvt; rw [f, r, s, du]; rfl
theorem cvtF32E5m2 (o : Duo) : Statement (.cvtF32E5m2 o) :=
  fun h _ => cvt (sat := false) (by intro k e; cases e) rfl rfl (literal_some h) fun w l r s f fl du c ci => by unfold decodeCvt; rw [f, r, s, du]; rfl
theorem cvtS32F32 (o : Flt) : Statement (.cvtS32F32 o) :=
  fun h _ => cvt (sat := false) (by intro k e; cases e) rfl rfl (literal_some h) fun w l r s f fl du c ci => by unfold decodeCvt; rw [f, s, fl]; rfl
theorem cvtN32F32 (o : Flt) : Statement (.cvtN32F32 o) :=
  fun h _ => cvt (sat := false) (by intro k e; cases e) rfl rfl (literal_some h) fun w l r s f fl du c ci => by unfold decodeCvt; rw [f, s, fl]; rfl
theorem cvtF32S32 (o : Flt) : Statement (.cvtF32S32 o) :=
  fun h _ => cvt (sat := false) (by intro k e; cases e) rfl rfl (literal_some h) fun w l r s f fl du c ci => by unfold decodeCvt; rw [f, s, fl]; rfl
theorem cvtF32N32 (o : Flt) : Statement (.cvtF32N32 o) :=
  fun h _ => cvt (sat := false) (by intro k e; cases e) rfl rfl (literal_some h) fun w l r s f fl du c ci => by unfold decodeCvt; rw [f, s, fl]; rfl
theorem cvtS64F32 (o : Flt) : Statement (.cvtS64F32 o) :=
  fun h _ => cvt (sat := false) (by intro k e; cases e) rfl rfl (literal_some h) fun w l r s f fl du c ci => by unfold decodeCvt; rw [f, s, fl]; rfl
theorem cvtF32S64 (o : Flt) : Statement (.cvtF32S64 o) :=
  fun h _ => cvt (sat := false) (by intro k e; cases e) rfl rfl (literal_some h) fun w l r s f fl du c ci => by unfold decodeCvt; rw [f, s, fl]; rfl
theorem cvtS8S32 (o : CvtInt) : Statement (.cvtS8S32 o) :=
  fun h _ => cvt (by intro k e; cases e) rfl rfl (literal_some h) fun w l r s f fl du c ci => by unfold decodeCvt; rw [f, r, ci]; rfl
theorem cvtS16S32 (o : CvtInt) : Statement (.cvtS16S32 o) :=
  fun h _ => cvt (by intro k e; cases e) rfl rfl (literal_some h) fun w l r s f fl du c ci => by unfold decodeCvt; rw [f, r, ci]; rfl
theorem qntQn4 (o : DuoPlain) : Statement (.qntQn4 o) :=
  fun h _ => duo (by intro k e; cases e) rfl (by decide) rfl rfl rfl (literal_isSome ..) fun w l d a p u f r pl j m => by
    show decodeQn4 w l = _; unfold decodeQn4; rw [f, u, pl]; rfl
theorem dqnQn4 (o : Duo) : Statement (.dqnQn4 o) :=
  fun h _ => duo (by intro k e; cases e) rfl (by decide) rfl rfl rfl (literal_some h) fun w l d a p u f r pl j m => by
    show decodeQn4 w l = _; unfold decodeQn4; rw [f, r]; rfl
theorem shflB32 (o : Tri) : Statement (.shflB32 o) :=
  fun h _ => tri (by intro k e; cases e) rfl (by decide) rfl rfl rfl h fun w l h1 h2 => by show some (if x w then _ else _) = _; rw [h1, h2]; rfl
theorem shflxB32 (o : Tri) : Statement (.shflxB32 o) :=
  fun h _ => tri (by intro k e; cases e) rfl (by decide) rfl rfl rfl h fun w l h1 h2 => by show some (if x w then _ else _) = _; rw [h1, h2]; rfl
theorem voteAny (o : Duo) : Statement (.voteAny o) :=
  fun h _ => duo (by intro k e; cases e) rfl (by decide) rfl rfl rfl (literal_some h) fun w l d a p u f r pl j m => by
    show decodeVote w l = _; unfold decodeVote; rw [f, r]; rfl
theorem voteAll (o : Duo) : Statement (.voteAll o) :=
  fun h _ => duo (by intro k e; cases e) rfl (by decide) rfl rfl rfl (literal_some h) fun w l d a p u f r pl j m => by
    show decodeVote w l = _; unfold decodeVote; rw [f, r]; rfl
theorem ballot (o : Duo) : Statement (.ballot o) :=
  fun h _ => duo (by intro k e; cases e) rfl (by decide) rfl rfl rfl (literal_some h) fun w l d a p u f r pl j m => by
    show decodeVote w l = _; unfold decodeVote; rw [f, r]; rfl
theorem scanAddS32 (o : Duo) : Statement (.scanAddS32 o) :=
  fun h _ => duo (by intro k e; cases e) rfl (by decide) rfl rfl rfl (literal_some h) fun w l d a p u f r pl j m => by
    show decodeVote w l = _; unfold decodeVote; rw [f, r]; rfl
theorem scanxAddS32 (o : Duo) : Statement (.scanxAddS32 o) :=
  fun h _ => duo (by intro k e; cases e) rfl (by decide) rfl rfl rfl (literal_some h) fun w l d a p u f r pl j m => by
    show decodeVote w l = _; unfold decodeVote; rw [f, r]; rfl
theorem wredAddS32 (o : Duo) : Statement (.wredAddS32 o) :=
  fun h _ => duo (by intro k e; cases e) rfl (by decide) rfl rfl rfl (literal_some h) fun w l d a p u f r pl j m => by
    show decodeVote w l = _; unfold decodeVote; rw [f, r]; rfl
theorem wredMinS32 (o : Duo) : Statement (.wredMinS32 o) :=
  fun h _ => duo (by intro k e; cases e) rfl (by decide) rfl rfl rfl (literal_some h) fun w l d a p u f r pl j m => by
    show decodeVote w l = _; unfold decodeVote; rw [f, r]; rfl
theorem wredMaxS32 (o : Duo) : Statement (.wredMaxS32 o) :=
  fun h _ => duo (by intro k e; cases e) rfl (by decide) rfl rfl rfl (literal_some h) fun w l d a p u f r pl j m => by
    show decodeVote w l = _; unfold decodeVote; rw [f, r]; rfl
theorem wredMinN32 (o : Duo) : Statement (.wredMinN32 o) :=
  fun h _ => duo (by intro k e; cases e) rfl (by decide) rfl rfl rfl (literal_some h) fun w l d a p u f r pl j m => by
    show decodeVote w l = _; unfold decodeVote; rw [f, r]; rfl
theorem wredMaxN32 (o : Duo) : Statement (.wredMaxN32 o) :=
  fun h _ => duo (by intro k e; cases e) rfl (by decide) rfl rfl rfl (literal_some h) fun w l d a p u f r pl j m => by
    show decodeVote w l = _; unfold decodeVote; rw [f, r]; rfl
theorem wredAndB32 (o : Duo) : Statement (.wredAndB32 o) :=
  fun h _ => duo (by intro k e; cases e) rfl (by decide) rfl rfl rfl (literal_some h) fun w l d a p u f r pl j m => by
    show decodeVote w l = _; unfold decodeVote; rw [f, r]; rfl
theorem wredOrB32 (o : Duo) : Statement (.wredOrB32 o) :=
  fun h _ => duo (by intro k e; cases e) rfl (by decide) rfl rfl rfl (literal_some h) fun w l d a p u f r pl j m => by
    show decodeVote w l = _; unfold decodeVote; rw [f, r]; rfl
theorem wredXorB32 (o : Duo) : Statement (.wredXorB32 o) :=
  fun h _ => duo (by intro k e; cases e) rfl (by decide) rfl rfl rfl (literal_some h) fun w l d a p u f r pl j m => by
    show decodeVote w l = _; unfold decodeVote; rw [f, r]; rfl
theorem firstB32 (o : Duo) : Statement (.firstB32 o) :=
  fun h _ => duo (by intro k e; cases e) rfl (by decide) rfl rfl rfl (literal_some h) fun w l d a p u f r pl j m => by
    show decodeVote w l = _; unfold decodeVote; rw [f, r]; rfl
theorem ldg (o : Mem) : Statement (.ldg o) :=
  fun h _ => plain (by intro k e; cases e) rfl (mem_op ..) (by decide) rfl rfl rfl (by
    show some _ = _; rw [mem_dst, mem_a, mem_p, mem_u, mem_sz, mem_off])
theorem stg (o : Mem) : Statement (.stg o) :=
  fun h _ => plain (by intro k e; cases e) rfl (mem_op ..) (by decide) rfl rfl rfl (by
    show some _ = _; rw [mem_dst, mem_a, mem_p, mem_u, mem_sz, mem_off])
theorem ldl (o : Mem) : Statement (.ldl o) :=
  fun h _ => plain (by intro k e; cases e) rfl (mem_op ..) (by decide) rfl rfl rfl (by
    show some _ = _; rw [mem_dst, mem_a, mem_p, mem_u, mem_sz, mem_off])
theorem stl (o : Mem) : Statement (.stl o) :=
  fun h _ => plain (by intro k e; cases e) rfl (mem_op ..) (by decide) rfl rfl rfl (by
    show some _ = _; rw [mem_dst, mem_a, mem_p, mem_u, mem_sz, mem_off])
theorem ldgTry (o : Mem) : Statement (.ldgTry o) :=
  fun h _ => plain (by intro k e; cases e) rfl (mem_op ..) (by decide) rfl rfl rfl (by
    show some _ = _; rw [mem_dst, mem_a, mem_p, mem_u, mem_sz, mem_off])
theorem stgTry (o : Mem) : Statement (.stgTry o) :=
  fun h _ => plain (by intro k e; cases e) rfl (mem_op ..) (by decide) rfl rfl rfl (by
    show some _ = _; rw [mem_dst, mem_a, mem_p, mem_u, mem_sz, mem_off])
theorem atom (o : Atom) : Statement (.atom o) :=
  fun h _ => of_word (by intro k e; cases e) rfl (by rw [duo_op]; decide) (by
    rw [show literalOf _ = literal o.a o.u 0 from rfl, literal_isSome]; simp [hasLiteral, duo_op, duo_a, duo_u, isTri, isDuo]) (by
    rw [decodeWord, duo_op]; show decodeAtom _ = _; unfold decodeAtom
    rw [atom_z, atom_loc, atom_width, atom_oper, duo_dst, duo_a, duo_p, duo_u]; exact if_neg (bne_iff_ne.mp h))
theorem atom2 (o : Atom2) : Statement (.atom2 o) :=
  fun h _ => of_word (by intro k e; cases e) rfl (by rw [duo_op]; decide) (by
    rw [show literalOf _ = literal o.a o.u 0 from rfl, literal_isSome]; simp [hasLiteral, duo_op, duo_a, duo_u, isTri, isDuo]) (by
    rw [decodeWord, duo_op]; show decodeAtom _ = _; unfold decodeAtom
    rw [atom_z, atom_loc, atom_width, atom_oper, duo_dst, duo_a, duo_p, duo_u]; rfl)
theorem redF32 (o : Duo) : Statement (.redF32 o) :=
  fun h _ => duo (by intro k e; cases e) rfl (by decide) rfl rfl rfl (literal_some h) fun w l d a p u f r pl j m => by
    show decodeRed w l = _; unfold decodeRed; rw [f, r]; rfl
theorem redF16 (o : Duo) : Statement (.redF16 o) :=
  fun h _ => duo (by intro k e; cases e) rfl (by decide) rfl rfl rfl (literal_some h) fun w l d a p u f r pl j m => by
    show decodeRed w l = _; unfold decodeRed; rw [f, r]; rfl
theorem redBf16 (o : Duo) : Statement (.redBf16 o) :=
  fun h _ => duo (by intro k e; cases e) rfl (by decide) rfl rfl rfl (literal_some h) fun w l d a p u f r pl j m => by
    show decodeRed w l = _; unfold decodeRed; rw [f, r]; rfl
theorem redS32 (o : Duo) : Statement (.redS32 o) :=
  fun h _ => duo (by intro k e; cases e) rfl (by decide) rfl rfl rfl (literal_some h) fun w l d a p u f r pl j m => by
    show decodeRed w l = _; unfold decodeRed; rw [f, r]; rfl
theorem redS64 (o : Duo) : Statement (.redS64 o) :=
  fun h _ => duo (by intro k e; cases e) rfl (by decide) rfl rfl rfl (literal_some h) fun w l d a p u f r pl j m => by
    show decodeRed w l = _; unfold decodeRed; rw [f, r]; rfl
theorem red2F16 (o : Duo) : Statement (.red2F16 o) :=
  fun h _ => duo (by intro k e; cases e) rfl (by decide) rfl rfl rfl (literal_some h) fun w l d a p u f r pl j m => by
    show decodeRed w l = _; unfold decodeRed; rw [f, r]; rfl
theorem red2Bf16 (o : Duo) : Statement (.red2Bf16 o) :=
  fun h _ => duo (by intro k e; cases e) rfl (by decide) rfl rfl rfl (literal_some h) fun w l d a p u f r pl j m => by
    show decodeRed w l = _; unfold decodeRed; rw [f, r]; rfl
theorem rfinF32 (o : Flt) : Statement (.rfinF32 o) :=
  fun h _ => flt (by intro k e; cases e) rfl (by decide) rfl rfl rfl (literal_some h) fun w l r f fl du => by
    show decodeRfin w l = _; unfold decodeRfin; rw [f, fl]; rfl
theorem rfinF16 (o : Flt) : Statement (.rfinF16 o) :=
  fun h _ => flt (by intro k e; cases e) rfl (by decide) rfl rfl rfl (literal_some h) fun w l r f fl du => by
    show decodeRfin w l = _; unfold decodeRfin; rw [f, fl]; rfl
theorem rfinBf16 (o : Flt) : Statement (.rfinBf16 o) :=
  fun h _ => flt (by intro k e; cases e) rfl (by decide) rfl rfl rfl (literal_some h) fun w l r f fl du => by
    show decodeRfin w l = _; unfold decodeRfin; rw [f, fl]; rfl
theorem rfinS32 (o : Flt) : Statement (.rfinS32 o) :=
  fun h _ => flt (by intro k e; cases e) rfl (by decide) rfl rfl rfl (literal_some h) fun w l r f fl du => by
    show decodeRfin w l = _; unfold decodeRfin; rw [f, fl]; rfl
theorem rfinS64 (o : Flt) : Statement (.rfinS64 o) :=
  fun h _ => flt (by intro k e; cases e) rfl (by decide) rfl rfl rfl (literal_some h) fun w l r f fl du => by
    show decodeRfin w l = _; unfold decodeRfin; rw [f, fl]; rfl
theorem tcopyGl (o : Asy) : Statement (.tcopyGl o) :=
  fun h _ => plain (by intro k e; cases e) rfl (asy_op ..) (by decide) rfl rfl rfl (by
    show (if _ = _ then decodeAsy _ else _) = _; unfold decodeAsy; rw [asy_z, asy_fn, asy_sa, asy_sb, asy_sc]; rfl)
theorem tcopyLg (o : Asy) : Statement (.tcopyLg o) :=
  fun h _ => plain (by intro k e; cases e) rfl (asy_op ..) (by decide) rfl rfl rfl (by
    show (if _ = _ then decodeAsy _ else _) = _; unfold decodeAsy; rw [asy_z, asy_fn, asy_sa, asy_sb, asy_sc]; rfl)
theorem tcopyLl (o : Asy) : Statement (.tcopyLl o) :=
  fun h _ => plain (by intro k e; cases e) rfl (asy_op ..) (by decide) rfl rfl rfl (by
    show (if _ = _ then decodeAsy _ else _) = _; unfold decodeAsy; rw [asy_z, asy_fn, asy_sa, asy_sb, asy_sc]; rfl)
theorem collRed (o : Asy) : Statement (.collRed o) :=
  fun h _ => plain (by intro k e; cases e) rfl (asy_op ..) (by decide) rfl rfl rfl (by
    show (if _ = _ then decodeAsy _ else _) = _; unfold decodeAsy; rw [asy_z, asy_fn, asy_sa, asy_sb, asy_sc]; rfl)
theorem collBcast (o : Asy) : Statement (.collBcast o) :=
  fun h _ => plain (by intro k e; cases e) rfl (asy_op ..) (by decide) rfl rfl rfl (by
    show (if _ = _ then decodeAsy _ else _) = _; unfold decodeAsy; rw [asy_z, asy_fn, asy_sa, asy_sb, asy_sc]; rfl)
theorem collAgat (o : Asy) : Statement (.collAgat o) :=
  fun h _ => plain (by intro k e; cases e) rfl (asy_op ..) (by decide) rfl rfl rfl (by
    show (if _ = _ then decodeAsy _ else _) = _; unfold decodeAsy; rw [asy_z, asy_fn, asy_sa, asy_sb, asy_sc]; rfl)
theorem bwait (o : Bwait) : Statement (.bwait o) :=
  fun h _ => plain (by intro k e; cases e) rfl (wait_op ..) (by decide) rfl rfl rfl (by
    show decodeWait _ = _; unfold decodeWait; rw [wait_fn, wait6_z, wait_st, wait_dl, wait6_a, bwait_z, bwait_x, bwait_y]; rfl)
theorem waitc (o : Waitc) : Statement (.waitc o) :=
  fun h _ => plain (by intro k e; cases e) rfl (waitc_op ..) (by decide) rfl rfl rfl (by
    show decodeWait _ = _; unfold decodeWait; rw [waitc_fn, waitc_st, waitc_dl, waitc_n, waitc_c]; rfl)
theorem monw (o : Monw) : Statement (.monw o) :=
  fun h _ => plain (by intro k e; cases e) rfl (wait_op ..) (by decide) rfl rfl rfl (by
    show decodeWait _ = _; unfold decodeWait; rw [wait_fn, wait_st, wait_dl, wait_a, monw_x, monw_c]; rfl)
theorem qsend (o : Qsend) : Statement (.qsend o) :=
  fun h _ => plain (by intro k e; cases e) rfl (wait_op ..) (by decide) rfl rfl rfl (by
    show decodeWait _ = _; unfold decodeWait; rw [wait_fn, wait_dl, wait_k, wait_st, wait_a]; rfl)
theorem qrecv (o : WaitA) : Statement (.qrecv o) :=
  fun h _ => plain (by intro k e; cases e) rfl (wait_op ..) (by decide) rfl rfl rfl (by
    show decodeWait _ = _; unfold decodeWait; rw [wait_fn, wait_k, wait_st, wait_dl, wait_a]; rfl)
theorem fence (o : Fence) : Statement (.fence o) :=
  fun h _ => plain (by intro k e; cases e) rfl (wait_op ..) (by decide) rfl rfl rfl (by
    show decodeWait _ = _; unfold decodeWait; rw [wait_fn, wait6_z, wait_k, wait_st, wait_dl, wait6_a]; rfl)
theorem fbar (o : Fbar) : Statement (.fbar o) :=
  fun h _ => plain (by intro k e; cases e) rfl (wait_op ..) (by decide) rfl rfl rfl (by
    show decodeWait _ = _; unfold decodeWait; rw [wait_fn, wait_a, wait_st, wait_dl, wait_k]; rfl)
theorem bexp (o : BarA) : Statement (.bexp o) :=
  fun h _ => plain (by intro k e; cases e) rfl (wait_op ..) (by decide) rfl rfl rfl (by
    show decodeWait _ = _; unfold decodeWait; rw [wait_fn, wz_z, wait_k, wait_a]; rfl)
theorem barr (o : BarA) : Statement (.barr o) :=
  fun h _ => plain (by intro k e; cases e) rfl (wait_op ..) (by decide) rfl rfl rfl (by
    show decodeWait _ = _; unfold decodeWait; rw [wait_fn, wz_z, wait_k, wait_a]; rfl)
theorem procEnter (o : WaitA) : Statement (.procEnter o) :=
  fun h _ => plain (by intro k e; cases e) rfl (wait_op ..) (by decide) rfl rfl rfl (by
    show decodeWait _ = _; unfold decodeWait; rw [wait_fn, wait_k, wait_st, wait_dl, wait_a]; rfl)
theorem procLeave (o : BarA) : Statement (.procLeave o) :=
  fun h _ => plain (by intro k e; cases e) rfl (wait_op ..) (by decide) rfl rfl rfl (by
    show decodeWait _ = _; unfold decodeWait; rw [wait_fn, wz_z, wait_k, wait_a]; rfl)
theorem gbar (o : Gbar) : Statement (.gbar o) :=
  fun h _ => plain (by intro k e; cases e) rfl (wait_op ..) (by decide) rfl rfl rfl (by
    show decodeWait _ = _; unfold decodeWait; rw [wait_fn, wait6_z, wait_k, wait_st, wait_dl, wait6_a]; rfl)
theorem mmaS8 (o : MmaByte) : Statement (.mmaS8 o) :=
  fun h _ => plain (by intro k e; cases e) rfl (mat_op ..) (by decide) rfl rfl rfl (by
    show (if _ then _ else decodeMat _) = _; unfold decodeMat; rw [mat_z, mat_fn, mat_m, mat_n, mat_sa, mat_sb, mat3_z, mat3_k, mat_sp]; rfl)
theorem mmaE4m3 (o : MmaByte) : Statement (.mmaE4m3 o) :=
  fun h _ => plain (by intro k e; cases e) rfl (mat_op ..) (by decide) rfl rfl rfl (by
    show (if _ then _ else decodeMat _) = _; unfold decodeMat; rw [mat_z, mat_fn, mat_m, mat_n, mat_sa, mat_sb, mat3_z, mat3_k, mat_sp]; rfl)
theorem mmaE5m2 (o : MmaByte) : Statement (.mmaE5m2 o) :=
  fun h _ => plain (by intro k e; cases e) rfl (mat_op ..) (by decide) rfl rfl rfl (by
    show (if _ then _ else decodeMat _) = _; unfold decodeMat; rw [mat_z, mat_fn, mat_m, mat_n, mat_sa, mat_sb, mat3_z, mat3_k, mat_sp]; rfl)
theorem mmaQn4 (o : MmaQn) : Statement (.mmaQn4 o) :=
  fun h _ => plain (by intro k e; cases e) rfl (mat_op ..) (by decide) rfl rfl rfl (by
    show (if _ then _ else decodeMat _) = _; unfold decodeMat; rw [mat_z, mat_fn, mat_m, mat_n, mat_sa, mat_sb, mat_k, mat_sp]; rfl)
theorem mmaF16 (o : MmaHalf) : Statement (.mmaF16 o) :=
  fun h _ => plain (by intro k e; cases e) rfl (mat_op ..) (by decide) rfl rfl rfl (by
    show (if _ then _ else decodeMat _) = _; unfold decodeMat; rw [mat_z, mat_fn, mat_m, mat_n, mat_sa, mat_sb, mat_k, mat_sp]; rfl)
theorem mmaBf16 (o : MmaHalf) : Statement (.mmaBf16 o) :=
  fun h _ => plain (by intro k e; cases e) rfl (mat_op ..) (by decide) rfl rfl rfl (by
    show (if _ then _ else decodeMat _) = _; unfold decodeMat; rw [mat_z, mat_fn, mat_m, mat_n, mat_sa, mat_sb, mat_k, mat_sp]; rfl)
theorem msacc (o : Macc) : Statement (.msacc o) :=
  fun h _ => plain (by intro k e; cases e) rfl (mat_op ..) (by decide) rfl rfl rfl (by
    show (if _ then _ else decodeMat _) = _; unfold decodeMat; rw [mat_z, mat_fn, mat_m, mat_n, mat_sa, mat_sb, matz_z]; rfl)
theorem mdrain (o : Mdrain) : Statement (.mdrain o) :=
  fun h _ => plain (by intro k e; cases e) rfl (mat_op ..) (by decide) rfl rfl rfl (by
    show (if _ then _ else decodeMat _) = _; unfold decodeMat; rw [mat_z, mat_fn, mat_m, mat_n, mat_sa, mat_sb, mat_k, mat_sp]; rfl)
theorem mdrainAdd (o : Mdrain) : Statement (.mdrainAdd o) :=
  fun h _ => plain (by intro k e; cases e) rfl (mat_op ..) (by decide) rfl rfl rfl (by
    show (if _ then _ else decodeMat _) = _; unfold decodeMat; rw [mat_z, mat_fn, mat_m, mat_n, mat_sa, mat_sb, mat_k, mat_sp]; rfl)
theorem mclear (o : Macc) : Statement (.mclear o) :=
  fun h _ => plain (by intro k e; cases e) rfl (mat_op ..) (by decide) rfl rfl rfl (by
    show (if _ then _ else decodeMat _) = _; unfold decodeMat; rw [mat_z, mat_fn, mat_m, mat_n, mat_sa, mat_sb, matz_z]; rfl)
theorem cover (o : GfxDS) : Statement (.cover o) :=
  fun h _ => plain (by intro k e; cases e) rfl (gfx_op ..) (by decide) rfl rfl rfl (by
    show (if _ then _ else decodeGfx _) = _; unfold decodeGfx; rw [gfx_z, gfx_fn, gfx_d, gfx_a, gfx_s]; rfl)
theorem flins (o : GfxDAS) : Statement (.flins o) :=
  fun h _ => plain (by intro k e; cases e) rfl (gfx_op ..) (by decide) rfl rfl rfl (by
    show (if _ then _ else decodeGfx _) = _; unfold decodeGfx; rw [gfx_z, gfx_fn, gfx_d, gfx_a, gfx_s]; rfl)
theorem flrep (o : GfxDAS) : Statement (.flrep o) :=
  fun h _ => plain (by intro k e; cases e) rfl (gfx_op ..) (by decide) rfl rfl rfl (by
    show (if _ then _ else decodeGfx _) = _; unfold decodeGfx; rw [gfx_z, gfx_fn, gfx_d, gfx_a, gfx_s]; rfl)
theorem flget (o : GfxDAS) : Statement (.flget o) :=
  fun h _ => plain (by intro k e; cases e) rfl (gfx_op ..) (by decide) rfl rfl rfl (by
    show (if _ then _ else decodeGfx _) = _; unfold decodeGfx; rw [gfx_z, gfx_fn, gfx_d, gfx_a, gfx_s]; rfl)
theorem flclr (o : GfxDAS) : Statement (.flclr o) :=
  fun h _ => plain (by intro k e; cases e) rfl (gfx_op ..) (by decide) rfl rfl rfl (by
    show (if _ then _ else decodeGfx _) = _; unfold decodeGfx; rw [gfx_z, gfx_fn, gfx_d, gfx_a, gfx_s]; rfl)
theorem trace (o : GfxDAS) : Statement (.trace o) :=
  fun h _ => plain (by intro k e; cases e) rfl (gfx_op ..) (by decide) rfl rfl rfl (by
    show (if _ then _ else decodeGfx _) = _; unfold decodeGfx; rw [gfx_z, gfx_fn, gfx_d, gfx_a, gfx_s]; rfl)
theorem boxu (o : GfxDA) : Statement (.boxu o) :=
  fun h _ => plain (by intro k e; cases e) rfl (gfx_op ..) (by decide) rfl rfl rfl (by
    show (if _ then _ else decodeGfx _) = _; unfold decodeGfx; rw [gfx_z, gfx_fn, gfx_d, gfx_a, gfx_s]; rfl)
theorem sah (o : GfxDA) : Statement (.sah o) :=
  fun h _ => plain (by intro k e; cases e) rfl (gfx_op ..) (by decide) rfl rfl rfl (by
    show (if _ then _ else decodeGfx _) = _; unfold decodeGfx; rw [gfx_z, gfx_fn, gfx_d, gfx_a, gfx_s]; rfl)
theorem npack (o : GfxDAS) : Statement (.npack o) :=
  fun h _ => plain (by intro k e; cases e) rfl (gfx_op ..) (by decide) rfl rfl rfl (by
    show (if _ then _ else decodeGfx _) = _; unfold decodeGfx; rw [gfx_z, gfx_fn, gfx_d, gfx_a, gfx_s]; rfl)
theorem sampleD (o : GfxDAS) : Statement (.sampleD o) :=
  fun h _ => plain (by intro k e; cases e) rfl (gfx_op ..) (by decide) rfl rfl rfl (by
    show (if _ then _ else decodeGfx _) = _; unfold decodeGfx; rw [gfx_z, gfx_fn, gfx_d, gfx_a, gfx_s]; rfl)
theorem sampleC (o : GfxDAS) : Statement (.sampleC o) :=
  fun h _ => plain (by intro k e; cases e) rfl (gfx_op ..) (by decide) rfl rfl rfl (by
    show (if _ then _ else decodeGfx _) = _; unfold decodeGfx; rw [gfx_z, gfx_fn, gfx_d, gfx_a, gfx_s]; rfl)
theorem sampleL (o : GfxDAS) : Statement (.sampleL o) :=
  fun h _ => plain (by intro k e; cases e) rfl (gfx_op ..) (by decide) rfl rfl rfl (by
    show (if _ then _ else decodeGfx _) = _; unfold decodeGfx; rw [gfx_z, gfx_fn, gfx_d, gfx_a, gfx_s]; rfl)
theorem rmapinv (o : GfxDS) : Statement (.rmapinv o) :=
  fun h _ => plain (by intro k e; cases e) rfl (gfx_op ..) (by decide) rfl rfl rfl (by
    show (if _ then _ else decodeGfx _) = _; unfold decodeGfx; rw [gfx_z, gfx_fn, gfx_d, gfx_a, gfx_s]; rfl)
theorem trap (n : BitVec 6) : Statement (.trap n) :=
  fun h _ => plain (by intro k e; cases e) rfl (sys_op ..) (by decide) rfl rfl rfl (by
    show decodeSys (sysWord 0 0 (0#7 ++ n)) = _; unfold decodeSys; rw [sys_fn, sys6_z, sys6_n]; rfl)
theorem tret : Statement .tret :=
  fun h _ => plain (by intro k e; cases e) rfl (sys_op ..) (by decide) rfl rfl rfl (by
    show decodeSys (sysWord 1 0 0) = _; unfold decodeSys; rw [sys_fn, sysz_z]; rfl)
theorem srd (o : SysReg) : Statement (.srd o) :=
  fun h _ => plain (by intro k e; cases e) rfl (sys_op ..) (by decide) rfl rfl rfl (by
    show decodeSys (sysWord 2 o.d o.r) = _; unfold decodeSys; rw [sys_fn, sys_d, sys_r]; rfl)
theorem swr (o : SysReg) : Statement (.swr o) :=
  fun h _ => plain (by intro k e; cases e) rfl (sys_op ..) (by decide) rfl rfl rfl (by
    show decodeSys (sysWord 3 o.d o.r) = _; unfold decodeSys; rw [sys_fn, sys_d, sys_r]; rfl)
theorem halt : Statement .halt :=
  fun h _ => plain (by intro k e; cases e) rfl (sys_op ..) (by decide) rfl rfl rfl (by
    show decodeSys (sysWord 4 0 0) = _; unfold decodeSys; rw [sys_fn, sysz_z]; rfl)
theorem brk (n : BitVec 6) : Statement (.brk n) :=
  fun h _ => plain (by intro k e; cases e) rfl (sys_op ..) (by decide) rfl rfl rfl (by
    show decodeSys (sysWord 5 0 (0#7 ++ n)) = _; unfold decodeSys; rw [sys_fn, sys6_z, sys6_n]; rfl)
theorem prog (n : BitVec 2) : Statement (.prog n) :=
  fun h _ => plain (by intro k e; cases e) rfl (sys_op ..) (by decide) rfl rfl rfl (by
    show decodeSys (sysWord 6 0 (0#11 ++ n)) = _; unfold decodeSys; rw [sys_fn, sys2_z, sys2_n]; rfl)
theorem ckmark (n : BitVec 6) : Statement (.ckmark n) :=
  fun h _ => plain (by intro k e; cases e) rfl (sys_op ..) (by decide) rfl rfl rfl (by
    show decodeSys (sysWord 7 0 (0#7 ++ n)) = _; unfold decodeSys; rw [sys_fn, sys6_z, sys6_n]; rfl)
theorem dictionaryParcel (k : BitVec 10) : Statement (.dictionaryParcel k) := by
  intro _ _
  simp only [encode, encodeParcels, decode, parcels_bytes, decodeParcels, dict_major, if_true, bytes_length, dict_index]
  rfl
theorem scoutEnd (w : Nat) (f : Nat) : Statement (.scoutEnd w f) := no_word rfl
theorem heldRecordPost (origin : Origin) : Statement (.heldRecordPost origin) := no_word rfl
theorem urgent (w : Nat) (f : Nat) : Statement (.urgent w f) := no_word rfl
theorem waitEnd (w : Nat) (f : Nat) : Statement (.waitEnd w f) := no_word rfl
theorem waitDeadline (w : Nat) (f : Nat) : Statement (.waitDeadline w f) := no_word rfl
theorem idesPoint (w : Nat) (f : Nat) : Statement (.idesPoint w f) := no_word rfl
theorem monitorPoll (w : Nat) (f : Nat) : Statement (.monitorPoll w f) := no_word rfl
theorem processionAdmit (w : Nat) (f : Nat) : Statement (.processionAdmit w f) := no_word rfl
theorem lentHoldExpiry (w : Nat) (f : Nat) : Statement (.lentHoldExpiry w f) := no_word rfl
theorem engineUnitRead (op : Nat) (k : Nat) : Statement (.engineUnitRead op k) := no_word rfl
theorem copyCompletion (op : Nat) : Statement (.copyCompletion op) := no_word rfl
theorem matrixCompletion (op : Nat) : Statement (.matrixCompletion op) := no_word rfl
theorem drainCompletion (op : Nat) : Statement (.drainCompletion op) := no_word rfl
theorem traceCompletion (op : Nat) : Statement (.traceCompletion op) := no_word rfl
theorem coverResult (w : Nat) (r : Nat) : Statement (.coverResult w r) := no_word rfl
theorem sampleResult (w : Nat) (r : Nat) : Statement (.sampleResult w r) := no_word rfl
theorem fleResult (w : Nat) (r : Nat) : Statement (.fleResult w r) := no_word rfl
theorem rmapinvComplete (w : Nat) (f : Nat) : Statement (.rmapinvComplete w f) := no_word rfl
theorem mapCopyExpiry (core : Nat) (unit : Nat) : Statement (.mapCopyExpiry core unit) := no_word rfl
theorem collectiveDecision (handle : Nat) : Statement (.collectiveDecision handle) := no_word rfl
theorem collectiveDeadline (op : Nat) : Statement (.collectiveDeadline op) := no_word rfl
theorem collectiveDecisionTimeout (op : Nat) : Statement (.collectiveDecisionTimeout op) := no_word rfl
theorem qmEnable (on : Bool) : Statement (.qmEnable on) := no_word rfl
theorem deviceHalt (on : Bool) : Statement (.deviceHalt on) := no_word rfl
theorem launchReady (l : Nat) : Statement (.launchReady l) := no_word rfl
theorem dependencePoll (l : Nat) (second : Bool) : Statement (.dependencePoll l second) := no_word rfl
theorem priorityAging (l : Nat) : Statement (.priorityAging l) := no_word rfl
theorem reserving (g : Candidate) : Statement (.reserving g) := no_word rfl
theorem swapEligible (g : Nat) : Statement (.swapEligible g) := no_word rfl
theorem gangPlacement (first : Nat) : Statement (.gangPlacement first) := no_word rfl
theorem stopComplete (g : Nat) : Statement (.stopComplete g) := no_word rfl
theorem saveBankWrite (b : GangBank) : Statement (.saveBankWrite b) := no_word rfl
theorem gangHaltComplete (g : Nat) : Statement (.gangHaltComplete g) := no_word rfl
theorem invalidateRange (wb : Bool) (discard : Bool) : Statement (.invalidateRange wb discard) := no_word rfl
theorem completeMigration : Statement .completeMigration := no_word rfl
theorem fbEnable (v : Word) : Statement (.fbEnable v) := no_word rfl
theorem fbRd (v : Word) : Statement (.fbRd v) := no_word rfl
theorem interruptStatusClear (vector : Bool) (v : Word) : Statement (.interruptStatusClear vector v) := no_word rfl
theorem msixUnmask (vector : Bool) : Statement (.msixUnmask vector) := no_word rfl
theorem physicalWindowRead (x : Nat) (bytes : Nat) : Statement (.physicalWindowRead x bytes) := no_word rfl
theorem hostAtomicop (bar : Nat) (x : Nat) : Statement (.hostAtomicop bar x) := no_word rfl
theorem hostSnoop (line : Nat) : Statement (.hostSnoop line) := no_word rfl
theorem atsInvalidation (start : Nat) (bytes : Nat) : Statement (.atsInvalidation start bytes) := no_word rfl
theorem functionLevelReset (linkDown : Bool) : Statement (.functionLevelReset linkDown) := no_word rfl
theorem mrstN : Statement .mrstN := no_word rfl
theorem pwrenRise : Statement .pwrenRise := no_word rfl
theorem pwrenFall : Statement .pwrenFall := no_word rfl
theorem railOutOfTolerance : Statement .railOutOfTolerance := no_word rfl
theorem idle (port : Nat) (flit : Flit) : Statement (.idle port flit) := no_word rfl
theorem read (port : Nat) (flit : Flit) : Statement (.read port flit) := no_word rfl
theorem atomic (port : Nat) (flit : Flit) : Statement (.atomic port flit) := no_word rfl
theorem contrib (port : Nat) (flit : Flit) : Statement (.contrib port flit) := no_word rfl
theorem monarm (port : Nat) (flit : Flit) : Statement (.monarm port flit) := no_word rfl
theorem moncancel (port : Nat) (flit : Flit) : Statement (.moncancel port flit) := no_word rfl
theorem sliceop (port : Nat) (flit : Flit) : Statement (.sliceop port flit) := no_word rfl
theorem rsp (port : Nat) (flit : Flit) : Statement (.rsp port flit) := no_word rfl
theorem nackResend (req : Nat) : Statement (.nackResend req) := no_word rfl
theorem data (port : Nat) (flit : Flit) : Statement (.data port flit) := no_word rfl
theorem credit (port : Nat) (flit : Flit) : Statement (.credit port flit) := no_word rfl
theorem retry (port : Nat) (flit : Flit) : Statement (.retry port flit) := no_word rfl
theorem down (port : Nat) (flit : Flit) : Statement (.down port flit) := no_word rfl
theorem probe (port : Nat) (flit : Flit) : Statement (.probe port flit) := no_word rfl
theorem probeans (port : Nat) (flit : Flit) : Statement (.probeans port flit) := no_word rfl
theorem flitDrop (port : Nat) (flit : Flit) : Statement (.flitDrop port flit) := no_word rfl
theorem collReadsDone (port : Nat) (flit : Flit) : Statement (.collReadsDone port flit) := no_word rfl
theorem collCancel (port : Nat) (flit : Flit) : Statement (.collCancel port flit) := no_word rfl
theorem portDown (port : Nat) : Statement (.portDown port) := no_word rfl
theorem requestTimeout (req : Nat) : Statement (.requestTimeout req) := no_word rfl
theorem locked : Statement .locked := no_word rfl
theorem sensorSample (sample : Sample) : Statement (.sensorSample sample) := no_word rfl
theorem sensors : Statement .sensors := no_word rfl
theorem log : Statement .log := no_word rfl
theorem fwstage : Statement .fwstage := no_word rfl
theorem fwcommit : Statement .fwcommit := no_word rfl
theorem fwconfirm : Statement .fwconfirm := no_word rfl
theorem attest : Statement .attest := no_word rfl
theorem setcap : Statement .setcap := no_word rfl
theorem idcert : Statement .idcert := no_word rfl
theorem timecfg : Statement .timecfg := no_word rfl
theorem illegalInstruction (w : Word) : Statement (.illegalInstruction w) := no_word rfl
theorem mrstNDrivenLow : Statement .mrstNDrivenLow := no_word rfl
theorem hostLinkUp : Statement .hostLinkUp := no_word rfl
theorem hostRequestCompletion (req : Nat) (answer : HostAnswer) : Statement (.hostRequestCompletion req answer) := no_word rfl

end Sys2Proof.Laws.RoundTrip
end

