-- ==== Sys2Proof/Laws/State.lean ====
section
/-! SUPPORT. What each update of the state leaves of each field: the field that it changes, and every other as it was. -/

namespace Sys2Proof.Machine

variable (s : State)

/-! ## `modWave` -/

@[simp] theorem modWave_agenda (w : Nat) (f : Wave → Wave) : (modWave s w f).agenda = s.agenda := rfl
@[simp] theorem modWave_planned (w : Nat) (f : Wave → Wave) : (modWave s w f).planned = s.planned := rfl
@[simp] theorem modWave_issue (w : Nat) (f : Wave → Wave) : (modWave s w f).issue = s.issue := rfl
@[simp] theorem modWave_fresh (w : Nat) (f : Wave → Wave) : (modWave s w f).fresh = s.fresh := rfl
@[simp] theorem modWave_nextUid (w : Nat) (f : Wave → Wave) : (modWave s w f).nextUid = s.nextUid := rfl
@[simp] theorem modWave_outbox (w : Nat) (f : Wave → Wave) : (modWave s w f).outbox = s.outbox := rfl
@[simp] theorem modWave_waiting (w : Nat) (f : Wave → Wave) : (modWave s w f).waiting = s.waiting := rfl
@[simp] theorem modWave_deviceAnswers (w : Nat) (f : Wave → Wave) : (modWave s w f).deviceAnswers = s.deviceAnswers := rfl
@[simp] theorem modWave_reading (w : Nat) (f : Wave → Wave) : (modWave s w f).reading = s.reading := rfl
@[simp] theorem modWave_posting (w : Nat) (f : Wave → Wave) : (modWave s w f).posting = s.posting := rfl
@[simp] theorem modWave_notes (w : Nat) (f : Wave → Wave) : (modWave s w f).notes = s.notes := rfl
@[simp] theorem modWave_tablesDirty (w : Nat) (f : Wave → Wave) : (modWave s w f).tablesDirty = s.tablesDirty := rfl
@[simp] theorem modWave_clk (w : Nat) (f : Wave → Wave) : (modWave s w f).clk = s.clk := rfl
@[simp] theorem modWave_calends (w : Nat) (f : Wave → Wave) : (modWave s w f).calends = s.calends := rfl
@[simp] theorem modWave_calFrac (w : Nat) (f : Wave → Wave) : (modWave s w f).calFrac = s.calFrac := rfl
@[simp] theorem modWave_calSrc (w : Nat) (f : Wave → Wave) : (modWave s w f).calSrc = s.calSrc := rfl
@[simp] theorem modWave_calLocked (w : Nat) (f : Wave → Wave) : (modWave s w f).calLocked = s.calLocked := rfl
@[simp] theorem modWave_calRate (w : Nat) (f : Wave → Wave) : (modWave s w f).calRate = s.calRate := rfl
@[simp] theorem modWave_calOffset (w : Nat) (f : Wave → Wave) : (modWave s w f).calOffset = s.calOffset := rfl
@[simp] theorem modWave_calGood (w : Nat) (f : Wave → Wave) : (modWave s w f).calGood = s.calGood := rfl
@[simp] theorem modWave_launches (w : Nat) (f : Wave → Wave) : (modWave s w f).launches = s.launches := rfl
@[simp] theorem modWave_gangs (w : Nat) (f : Wave → Wave) : (modWave s w f).gangs = s.gangs := rfl
@[simp] theorem modWave_waves (w : Nat) (f : Wave → Wave) : (modWave s w f).waves = upd s.waves w f := rfl
@[simp] theorem modWave_ops (w : Nat) (f : Wave → Wave) : (modWave s w f).ops = s.ops := rfl
@[simp] theorem modWave_dram (w : Nat) (f : Wave → Wave) : (modWave s w f).dram = s.dram := rfl
@[simp] theorem modWave_cells (w : Nat) (f : Wave → Wave) : (modWave s w f).cells = s.cells := rfl
@[simp] theorem modWave_poison (w : Nat) (f : Wave → Wave) : (modWave s w f).poison = s.poison := rfl
@[simp] theorem modWave_latent (w : Nat) (f : Wave → Wave) : (modWave s w f).latent = s.latent := rfl
@[simp] theorem modWave_l2 (w : Nat) (f : Wave → Wave) : (modWave s w f).l2 = s.l2 := rfl
@[simp] theorem modWave_logical (w : Nat) (f : Wave → Wave) : (modWave s w f).logical = s.logical := rfl
@[simp] theorem modWave_lines (w : Nat) (f : Wave → Wave) : (modWave s w f).lines = s.lines := rfl
@[simp] theorem modWave_l1 (w : Nat) (f : Wave → Wave) : (modWave s w f).l1 = s.l1 := rfl
@[simp] theorem modWave_tlb (w : Nat) (f : Wave → Wave) : (modWave s w f).tlb = s.tlb := rfl
@[simp] theorem modWave_atc (w : Nat) (f : Wave → Wave) : (modWave s w f).atc = s.atc := rfl
@[simp] theorem modWave_hostLines (w : Nat) (f : Wave → Wave) : (modWave s w f).hostLines = s.hostLines := rfl
@[simp] theorem modWave_hostAsks (w : Nat) (f : Wave → Wave) : (modWave s w f).hostAsks = s.hostAsks := rfl
@[simp] theorem modWave_atsWaits (w : Nat) (f : Wave → Wave) : (modWave s w f).atsWaits = s.atsWaits := rfl
@[simp] theorem modWave_monitors (w : Nat) (f : Wave → Wave) : (modWave s w f).monitors = s.monitors := rfl
@[simp] theorem modWave_maps (w : Nat) (f : Wave → Wave) : (modWave s w f).maps = s.maps := rfl
@[simp] theorem modWave_filters (w : Nat) (f : Wave → Wave) : (modWave s w f).filters = s.filters := rfl
@[simp] theorem modWave_qmEnable (w : Nat) (f : Wave → Wave) : (modWave s w f).qmEnable = s.qmEnable := rfl
@[simp] theorem modWave_haltAll (w : Nat) (f : Wave → Wave) : (modWave s w f).haltAll = s.haltAll := rfl
@[simp] theorem modWave_qtBase (w : Nat) (f : Wave → Wave) : (modWave s w f).qtBase = s.qtBase := rfl
@[simp] theorem modWave_qcmd (w : Nat) (f : Wave → Wave) : (modWave s w f).qcmd = s.qcmd := rfl
@[simp] theorem modWave_qmIntStat (w : Nat) (f : Wave → Wave) : (modWave s w f).qmIntStat = s.qmIntStat := rfl
@[simp] theorem modWave_qmIntEn (w : Nat) (f : Wave → Wave) : (modWave s w f).qmIntEn = s.qmIntEn := rfl
@[simp] theorem modWave_queues (w : Nat) (f : Wave → Wave) : (modWave s w f).queues = s.queues := rfl
@[simp] theorem modWave_turnQueue (w : Nat) (f : Wave → Wave) : (modWave s w f).turnQueue = s.turnQueue := rfl
@[simp] theorem modWave_turnUsed (w : Nat) (f : Wave → Wave) : (modWave s w f).turnUsed = s.turnUsed := rfl
@[simp] theorem modWave_making (w : Nat) (f : Wave → Wave) : (modWave s w f).making = s.making := rfl
@[simp] theorem modWave_cxBase (w : Nat) (f : Wave → Wave) : (modWave s w f).cxBase = s.cxBase := rfl
@[simp] theorem modWave_cxTag (w : Nat) (f : Wave → Wave) : (modWave s w f).cxTag = s.cxTag := rfl
@[simp] theorem modWave_cxOp (w : Nat) (f : Wave → Wave) : (modWave s w f).cxOp = s.cxOp := rfl
@[simp] theorem modWave_cxResult (w : Nat) (f : Wave → Wave) : (modWave s w f).cxResult = s.cxResult := rfl
@[simp] theorem modWave_cxArg0 (w : Nat) (f : Wave → Wave) : (modWave s w f).cxArg0 = s.cxArg0 := rfl
@[simp] theorem modWave_cxArg1 (w : Nat) (f : Wave → Wave) : (modWave s w f).cxArg1 = s.cxArg1 := rfl
@[simp] theorem modWave_trOp (w : Nat) (f : Wave → Wave) : (modWave s w f).trOp = s.trOp := rfl
@[simp] theorem modWave_trWb (w : Nat) (f : Wave → Wave) : (modWave s w f).trWb = s.trWb := rfl
@[simp] theorem modWave_trDiscard (w : Nat) (f : Wave → Wave) : (modWave s w f).trDiscard = s.trDiscard := rfl
@[simp] theorem modWave_trResult (w : Nat) (f : Wave → Wave) : (modWave s w f).trResult = s.trResult := rfl
@[simp] theorem modWave_trArg0 (w : Nat) (f : Wave → Wave) : (modWave s w f).trArg0 = s.trArg0 := rfl
@[simp] theorem modWave_trArg1 (w : Nat) (f : Wave → Wave) : (modWave s w f).trArg1 = s.trArg1 := rfl
@[simp] theorem modWave_ptFrame (w : Nat) (f : Wave → Wave) : (modWave s w f).ptFrame = s.ptFrame := rfl
@[simp] theorem modWave_ptLen (w : Nat) (f : Wave → Wave) : (modWave s w f).ptLen = s.ptLen := rfl
@[simp] theorem modWave_migFrame (w : Nat) (f : Wave → Wave) : (modWave s w f).migFrame = s.migFrame := rfl
@[simp] theorem modWave_migCount (w : Nat) (f : Wave → Wave) : (modWave s w f).migCount = s.migCount := rfl
@[simp] theorem modWave_contexts (w : Nat) (f : Wave → Wave) : (modWave s w f).contexts = s.contexts := rfl
@[simp] theorem modWave_fbBase (w : Nat) (f : Wave → Wave) : (modWave s w f).fbBase = s.fbBase := rfl
@[simp] theorem modWave_fbSize (w : Nat) (f : Wave → Wave) : (modWave s w f).fbSize = s.fbSize := rfl
@[simp] theorem modWave_fbEnable (w : Nat) (f : Wave → Wave) : (modWave s w f).fbEnable = s.fbEnable := rfl
@[simp] theorem modWave_fbWr (w : Nat) (f : Wave → Wave) : (modWave s w f).fbWr = s.fbWr := rfl
@[simp] theorem modWave_fbRd (w : Nat) (f : Wave → Wave) : (modWave s w f).fbRd = s.fbRd := rfl
@[simp] theorem modWave_fbOvf (w : Nat) (f : Wave → Wave) : (modWave s w f).fbOvf = s.fbOvf := rfl
@[simp] theorem modWave_fbStop (w : Nat) (f : Wave → Wave) : (modWave s w f).fbStop = s.fbStop := rfl
@[simp] theorem modWave_fxIntStat (w : Nat) (f : Wave → Wave) : (modWave s w f).fxIntStat = s.fxIntStat := rfl
@[simp] theorem modWave_fxIntEn (w : Nat) (f : Wave → Wave) : (modWave s w f).fxIntEn = s.fxIntEn := rfl
@[simp] theorem modWave_held (w : Nat) (f : Wave → Wave) : (modWave s w f).held = s.held := rfl
@[simp] theorem modWave_tokens (w : Nat) (f : Wave → Wave) : (modWave s w f).tokens = s.tokens := rfl
@[simp] theorem modWave_nextToken (w : Nat) (f : Wave → Wave) : (modWave s w f).nextToken = s.nextToken := rfl
@[simp] theorem modWave_linkUp (w : Nat) (f : Wave → Wave) : (modWave s w f).linkUp = s.linkUp := rfl
@[simp] theorem modWave_phyBase (w : Nat) (f : Wave → Wave) : (modWave s w f).phyBase = s.phyBase := rfl
@[simp] theorem modWave_vectors (w : Nat) (f : Wave → Wave) : (modWave s w f).vectors = s.vectors := rfl
@[simp] theorem modWave_devId (w : Nat) (f : Wave → Wave) : (modWave s w f).devId = s.devId := rfl
@[simp] theorem modWave_fabEnable (w : Nat) (f : Wave → Wave) : (modWave s w f).fabEnable = s.fabEnable := rfl
@[simp] theorem modWave_safe (w : Nat) (f : Wave → Wave) : (modWave s w f).safe = s.safe := rfl
@[simp] theorem modWave_domain (w : Nat) (f : Wave → Wave) : (modWave s w f).domain = s.domain := rfl
@[simp] theorem modWave_ports (w : Nat) (f : Wave → Wave) : (modWave s w f).ports = s.ports := rfl
@[simp] theorem modWave_routes (w : Nat) (f : Wave → Wave) : (modWave s w f).routes = s.routes := rfl
@[simp] theorem modWave_reach (w : Nat) (f : Wave → Wave) : (modWave s w f).reach = s.reach := rfl
@[simp] theorem modWave_safeCount (w : Nat) (f : Wave → Wave) : (modWave s w f).safeCount = s.safeCount := rfl
@[simp] theorem modWave_credits (w : Nat) (f : Wave → Wave) : (modWave s w f).credits = s.credits := rfl
@[simp] theorem modWave_requests (w : Nat) (f : Wave → Wave) : (modWave s w f).requests = s.requests := rfl
@[simp] theorem modWave_unsent (w : Nat) (f : Wave → Wave) : (modWave s w f).unsent = s.unsent := rfl
@[simp] theorem modWave_far (w : Nat) (f : Wave → Wave) : (modWave s w f).far = s.far := rfl
@[simp] theorem modWave_barred (w : Nat) (f : Wave → Wave) : (modWave s w f).barred = s.barred := rfl
@[simp] theorem modWave_keptBack (w : Nat) (f : Wave → Wave) : (modWave s w f).keptBack = s.keptBack := rfl
@[simp] theorem modWave_inbound (w : Nat) (f : Wave → Wave) : (modWave s w f).inbound = s.inbound := rfl
@[simp] theorem modWave_probes (w : Nat) (f : Wave → Wave) : (modWave s w f).probes = s.probes := rfl
@[simp] theorem modWave_colBase (w : Nat) (f : Wave → Wave) : (modWave s w f).colBase = s.colBase := rfl
@[simp] theorem modWave_colCount (w : Nat) (f : Wave → Wave) : (modWave s w f).colCount = s.colCount := rfl
@[simp] theorem modWave_collGroups (w : Nat) (f : Wave → Wave) : (modWave s w f).collGroups = s.collGroups := rfl
@[simp] theorem modWave_collIssues (w : Nat) (f : Wave → Wave) : (modWave s w f).collIssues = s.collIssues := rfl
@[simp] theorem modWave_mgc (w : Nat) (f : Wave → Wave) : (modWave s w f).mgc = s.mgc := rfl
@[simp] theorem modWave_correctedErrors (w : Nat) (f : Wave → Wave) : (modWave s w f).correctedErrors = s.correctedErrors := rfl
@[simp] theorem modWave_pwren (w : Nat) (f : Wave → Wave) : (modWave s w f).pwren = s.pwren := rfl
@[simp] theorem modWave_pgood (w : Nat) (f : Wave → Wave) : (modWave s w f).pgood = s.pgood := rfl
@[simp] theorem modWave_mrstN (w : Nat) (f : Wave → Wave) : (modWave s w f).mrstN = s.mrstN := rfl
@[simp] theorem modWave_power (w : Nat) (f : Wave → Wave) : (modWave s w f).power = s.power := rfl
@[simp] theorem modWave_live (w : Nat) (f : Wave → Wave) : (modWave s w f).live = s.live := rfl

/-! ## `modFibre` -/

@[simp] theorem modFibre_agenda (w k : Nat) (f : Fibre → Fibre) : (modFibre s w k f).agenda = s.agenda := rfl
@[simp] theorem modFibre_planned (w k : Nat) (f : Fibre → Fibre) : (modFibre s w k f).planned = s.planned := rfl
@[simp] theorem modFibre_issue (w k : Nat) (f : Fibre → Fibre) : (modFibre s w k f).issue = s.issue := rfl
@[simp] theorem modFibre_fresh (w k : Nat) (f : Fibre → Fibre) : (modFibre s w k f).fresh = s.fresh := rfl
@[simp] theorem modFibre_nextUid (w k : Nat) (f : Fibre → Fibre) : (modFibre s w k f).nextUid = s.nextUid := rfl
@[simp] theorem modFibre_outbox (w k : Nat) (f : Fibre → Fibre) : (modFibre s w k f).outbox = s.outbox := rfl
@[simp] theorem modFibre_waiting (w k : Nat) (f : Fibre → Fibre) : (modFibre s w k f).waiting = s.waiting := rfl
@[simp] theorem modFibre_deviceAnswers (w k : Nat) (f : Fibre → Fibre) : (modFibre s w k f).deviceAnswers = s.deviceAnswers := rfl
@[simp] theorem modFibre_reading (w k : Nat) (f : Fibre → Fibre) : (modFibre s w k f).reading = s.reading := rfl
@[simp] theorem modFibre_posting (w k : Nat) (f : Fibre → Fibre) : (modFibre s w k f).posting = s.posting := rfl
@[simp] theorem modFibre_notes (w k : Nat) (f : Fibre → Fibre) : (modFibre s w k f).notes = s.notes := rfl
@[simp] theorem modFibre_tablesDirty (w k : Nat) (f : Fibre → Fibre) : (modFibre s w k f).tablesDirty = s.tablesDirty := rfl
@[simp] theorem modFibre_clk (w k : Nat) (f : Fibre → Fibre) : (modFibre s w k f).clk = s.clk := rfl
@[simp] theorem modFibre_calends (w k : Nat) (f : Fibre → Fibre) : (modFibre s w k f).calends = s.calends := rfl
@[simp] theorem modFibre_calFrac (w k : Nat) (f : Fibre → Fibre) : (modFibre s w k f).calFrac = s.calFrac := rfl
@[simp] theorem modFibre_calSrc (w k : Nat) (f : Fibre → Fibre) : (modFibre s w k f).calSrc = s.calSrc := rfl
@[simp] theorem modFibre_calLocked (w k : Nat) (f : Fibre → Fibre) : (modFibre s w k f).calLocked = s.calLocked := rfl
@[simp] theorem modFibre_calRate (w k : Nat) (f : Fibre → Fibre) : (modFibre s w k f).calRate = s.calRate := rfl
@[simp] theorem modFibre_calOffset (w k : Nat) (f : Fibre → Fibre) : (modFibre s w k f).calOffset = s.calOffset := rfl
@[simp] theorem modFibre_calGood (w k : Nat) (f : Fibre → Fibre) : (modFibre s w k f).calGood = s.calGood := rfl
@[simp] theorem modFibre_launches (w k : Nat) (f : Fibre → Fibre) : (modFibre s w k f).launches = s.launches := rfl
@[simp] theorem modFibre_gangs (w k : Nat) (f : Fibre → Fibre) : (modFibre s w k f).gangs = s.gangs := rfl
@[simp] theorem modFibre_waves (w k : Nat) (f : Fibre → Fibre) : (modFibre s w k f).waves = upd s.waves w fun x => { x with fibres := modAt x.fibres k f } := rfl
@[simp] theorem modFibre_ops (w k : Nat) (f : Fibre → Fibre) : (modFibre s w k f).ops = s.ops := rfl
@[simp] theorem modFibre_dram (w k : Nat) (f : Fibre → Fibre) : (modFibre s w k f).dram = s.dram := rfl
@[simp] theorem modFibre_cells (w k : Nat) (f : Fibre → Fibre) : (modFibre s w k f).cells = s.cells := rfl
@[simp] theorem modFibre_poison (w k : Nat) (f : Fibre → Fibre) : (modFibre s w k f).poison = s.poison := rfl
@[simp] theorem modFibre_latent (w k : Nat) (f : Fibre → Fibre) : (modFibre s w k f).latent = s.latent := rfl
@[simp] theorem modFibre_l2 (w k : Nat) (f : Fibre → Fibre) : (modFibre s w k f).l2 = s.l2 := rfl
@[simp] theorem modFibre_logical (w k : Nat) (f : Fibre → Fibre) : (modFibre s w k f).logical = s.logical := rfl
@[simp] theorem modFibre_lines (w k : Nat) (f : Fibre → Fibre) : (modFibre s w k f).lines = s.lines := rfl
@[simp] theorem modFibre_l1 (w k : Nat) (f : Fibre → Fibre) : (modFibre s w k f).l1 = s.l1 := rfl
@[simp] theorem modFibre_tlb (w k : Nat) (f : Fibre → Fibre) : (modFibre s w k f).tlb = s.tlb := rfl
@[simp] theorem modFibre_atc (w k : Nat) (f : Fibre → Fibre) : (modFibre s w k f).atc = s.atc := rfl
@[simp] theorem modFibre_hostLines (w k : Nat) (f : Fibre → Fibre) : (modFibre s w k f).hostLines = s.hostLines := rfl
@[simp] theorem modFibre_hostAsks (w k : Nat) (f : Fibre → Fibre) : (modFibre s w k f).hostAsks = s.hostAsks := rfl
@[simp] theorem modFibre_atsWaits (w k : Nat) (f : Fibre → Fibre) : (modFibre s w k f).atsWaits = s.atsWaits := rfl
@[simp] theorem modFibre_monitors (w k : Nat) (f : Fibre → Fibre) : (modFibre s w k f).monitors = s.monitors := rfl
@[simp] theorem modFibre_maps (w k : Nat) (f : Fibre → Fibre) : (modFibre s w k f).maps = s.maps := rfl
@[simp] theorem modFibre_filters (w k : Nat) (f : Fibre → Fibre) : (modFibre s w k f).filters = s.filters := rfl
@[simp] theorem modFibre_qmEnable (w k : Nat) (f : Fibre → Fibre) : (modFibre s w k f).qmEnable = s.qmEnable := rfl
@[simp] theorem modFibre_haltAll (w k : Nat) (f : Fibre → Fibre) : (modFibre s w k f).haltAll = s.haltAll := rfl
@[simp] theorem modFibre_qtBase (w k : Nat) (f : Fibre → Fibre) : (modFibre s w k f).qtBase = s.qtBase := rfl
@[simp] theorem modFibre_qcmd (w k : Nat) (f : Fibre → Fibre) : (modFibre s w k f).qcmd = s.qcmd := rfl
@[simp] theorem modFibre_qmIntStat (w k : Nat) (f : Fibre → Fibre) : (modFibre s w k f).qmIntStat = s.qmIntStat := rfl
@[simp] theorem modFibre_qmIntEn (w k : Nat) (f : Fibre → Fibre) : (modFibre s w k f).qmIntEn = s.qmIntEn := rfl
@[simp] theorem modFibre_queues (w k : Nat) (f : Fibre → Fibre) : (modFibre s w k f).queues = s.queues := rfl
@[simp] theorem modFibre_turnQueue (w k : Nat) (f : Fibre → Fibre) : (modFibre s w k f).turnQueue = s.turnQueue := rfl
@[simp] theorem modFibre_turnUsed (w k : Nat) (f : Fibre → Fibre) : (modFibre s w k f).turnUsed = s.turnUsed := rfl
@[simp] theorem modFibre_making (w k : Nat) (f : Fibre → Fibre) : (modFibre s w k f).making = s.making := rfl
@[simp] theorem modFibre_cxBase (w k : Nat) (f : Fibre → Fibre) : (modFibre s w k f).cxBase = s.cxBase := rfl
@[simp] theorem modFibre_cxTag (w k : Nat) (f : Fibre → Fibre) : (modFibre s w k f).cxTag = s.cxTag := rfl
@[simp] theorem modFibre_cxOp (w k : Nat) (f : Fibre → Fibre) : (modFibre s w k f).cxOp = s.cxOp := rfl
@[simp] theorem modFibre_cxResult (w k : Nat) (f : Fibre → Fibre) : (modFibre s w k f).cxResult = s.cxResult := rfl
@[simp] theorem modFibre_cxArg0 (w k : Nat) (f : Fibre → Fibre) : (modFibre s w k f).cxArg0 = s.cxArg0 := rfl
@[simp] theorem modFibre_cxArg1 (w k : Nat) (f : Fibre → Fibre) : (modFibre s w k f).cxArg1 = s.cxArg1 := rfl
@[simp] theorem modFibre_trOp (w k : Nat) (f : Fibre → Fibre) : (modFibre s w k f).trOp = s.trOp := rfl
@[simp] theorem modFibre_trWb (w k : Nat) (f : Fibre → Fibre) : (modFibre s w k f).trWb = s.trWb := rfl
@[simp] theorem modFibre_trDiscard (w k : Nat) (f : Fibre → Fibre) : (modFibre s w k f).trDiscard = s.trDiscard := rfl
@[simp] theorem modFibre_trResult (w k : Nat) (f : Fibre → Fibre) : (modFibre s w k f).trResult = s.trResult := rfl
@[simp] theorem modFibre_trArg0 (w k : Nat) (f : Fibre → Fibre) : (modFibre s w k f).trArg0 = s.trArg0 := rfl
@[simp] theorem modFibre_trArg1 (w k : Nat) (f : Fibre → Fibre) : (modFibre s w k f).trArg1 = s.trArg1 := rfl
@[simp] theorem modFibre_ptFrame (w k : Nat) (f : Fibre → Fibre) : (modFibre s w k f).ptFrame = s.ptFrame := rfl
@[simp] theorem modFibre_ptLen (w k : Nat) (f : Fibre → Fibre) : (modFibre s w k f).ptLen = s.ptLen := rfl
@[simp] theorem modFibre_migFrame (w k : Nat) (f : Fibre → Fibre) : (modFibre s w k f).migFrame = s.migFrame := rfl
@[simp] theorem modFibre_migCount (w k : Nat) (f : Fibre → Fibre) : (modFibre s w k f).migCount = s.migCount := rfl
@[simp] theorem modFibre_contexts (w k : Nat) (f : Fibre → Fibre) : (modFibre s w k f).contexts = s.contexts := rfl
@[simp] theorem modFibre_fbBase (w k : Nat) (f : Fibre → Fibre) : (modFibre s w k f).fbBase = s.fbBase := rfl
@[simp] theorem modFibre_fbSize (w k : Nat) (f : Fibre → Fibre) : (modFibre s w k f).fbSize = s.fbSize := rfl
@[simp] theorem modFibre_fbEnable (w k : Nat) (f : Fibre → Fibre) : (modFibre s w k f).fbEnable = s.fbEnable := rfl
@[simp] theorem modFibre_fbWr (w k : Nat) (f : Fibre → Fibre) : (modFibre s w k f).fbWr = s.fbWr := rfl
@[simp] theorem modFibre_fbRd (w k : Nat) (f : Fibre → Fibre) : (modFibre s w k f).fbRd = s.fbRd := rfl
@[simp] theorem modFibre_fbOvf (w k : Nat) (f : Fibre → Fibre) : (modFibre s w k f).fbOvf = s.fbOvf := rfl
@[simp] theorem modFibre_fbStop (w k : Nat) (f : Fibre → Fibre) : (modFibre s w k f).fbStop = s.fbStop := rfl
@[simp] theorem modFibre_fxIntStat (w k : Nat) (f : Fibre → Fibre) : (modFibre s w k f).fxIntStat = s.fxIntStat := rfl
@[simp] theorem modFibre_fxIntEn (w k : Nat) (f : Fibre → Fibre) : (modFibre s w k f).fxIntEn = s.fxIntEn := rfl
@[simp] theorem modFibre_held (w k : Nat) (f : Fibre → Fibre) : (modFibre s w k f).held = s.held := rfl
@[simp] theorem modFibre_tokens (w k : Nat) (f : Fibre → Fibre) : (modFibre s w k f).tokens = s.tokens := rfl
@[simp] theorem modFibre_nextToken (w k : Nat) (f : Fibre → Fibre) : (modFibre s w k f).nextToken = s.nextToken := rfl
@[simp] theorem modFibre_linkUp (w k : Nat) (f : Fibre → Fibre) : (modFibre s w k f).linkUp = s.linkUp := rfl
@[simp] theorem modFibre_phyBase (w k : Nat) (f : Fibre → Fibre) : (modFibre s w k f).phyBase = s.phyBase := rfl
@[simp] theorem modFibre_vectors (w k : Nat) (f : Fibre → Fibre) : (modFibre s w k f).vectors = s.vectors := rfl
@[simp] theorem modFibre_devId (w k : Nat) (f : Fibre → Fibre) : (modFibre s w k f).devId = s.devId := rfl
@[simp] theorem modFibre_fabEnable (w k : Nat) (f : Fibre → Fibre) : (modFibre s w k f).fabEnable = s.fabEnable := rfl
@[simp] theorem modFibre_safe (w k : Nat) (f : Fibre → Fibre) : (modFibre s w k f).safe = s.safe := rfl
@[simp] theorem modFibre_domain (w k : Nat) (f : Fibre → Fibre) : (modFibre s w k f).domain = s.domain := rfl
@[simp] theorem modFibre_ports (w k : Nat) (f : Fibre → Fibre) : (modFibre s w k f).ports = s.ports := rfl
@[simp] theorem modFibre_routes (w k : Nat) (f : Fibre → Fibre) : (modFibre s w k f).routes = s.routes := rfl
@[simp] theorem modFibre_reach (w k : Nat) (f : Fibre → Fibre) : (modFibre s w k f).reach = s.reach := rfl
@[simp] theorem modFibre_safeCount (w k : Nat) (f : Fibre → Fibre) : (modFibre s w k f).safeCount = s.safeCount := rfl
@[simp] theorem modFibre_credits (w k : Nat) (f : Fibre → Fibre) : (modFibre s w k f).credits = s.credits := rfl
@[simp] theorem modFibre_requests (w k : Nat) (f : Fibre → Fibre) : (modFibre s w k f).requests = s.requests := rfl
@[simp] theorem modFibre_unsent (w k : Nat) (f : Fibre → Fibre) : (modFibre s w k f).unsent = s.unsent := rfl
@[simp] theorem modFibre_far (w k : Nat) (f : Fibre → Fibre) : (modFibre s w k f).far = s.far := rfl
@[simp] theorem modFibre_barred (w k : Nat) (f : Fibre → Fibre) : (modFibre s w k f).barred = s.barred := rfl
@[simp] theorem modFibre_keptBack (w k : Nat) (f : Fibre → Fibre) : (modFibre s w k f).keptBack = s.keptBack := rfl
@[simp] theorem modFibre_inbound (w k : Nat) (f : Fibre → Fibre) : (modFibre s w k f).inbound = s.inbound := rfl
@[simp] theorem modFibre_probes (w k : Nat) (f : Fibre → Fibre) : (modFibre s w k f).probes = s.probes := rfl
@[simp] theorem modFibre_colBase (w k : Nat) (f : Fibre → Fibre) : (modFibre s w k f).colBase = s.colBase := rfl
@[simp] theorem modFibre_colCount (w k : Nat) (f : Fibre → Fibre) : (modFibre s w k f).colCount = s.colCount := rfl
@[simp] theorem modFibre_collGroups (w k : Nat) (f : Fibre → Fibre) : (modFibre s w k f).collGroups = s.collGroups := rfl
@[simp] theorem modFibre_collIssues (w k : Nat) (f : Fibre → Fibre) : (modFibre s w k f).collIssues = s.collIssues := rfl
@[simp] theorem modFibre_mgc (w k : Nat) (f : Fibre → Fibre) : (modFibre s w k f).mgc = s.mgc := rfl
@[simp] theorem modFibre_correctedErrors (w k : Nat) (f : Fibre → Fibre) : (modFibre s w k f).correctedErrors = s.correctedErrors := rfl
@[simp] theorem modFibre_pwren (w k : Nat) (f : Fibre → Fibre) : (modFibre s w k f).pwren = s.pwren := rfl
@[simp] theorem modFibre_pgood (w k : Nat) (f : Fibre → Fibre) : (modFibre s w k f).pgood = s.pgood := rfl
@[simp] theorem modFibre_mrstN (w k : Nat) (f : Fibre → Fibre) : (modFibre s w k f).mrstN = s.mrstN := rfl
@[simp] theorem modFibre_power (w k : Nat) (f : Fibre → Fibre) : (modFibre s w k f).power = s.power := rfl
@[simp] theorem modFibre_live (w k : Nat) (f : Fibre → Fibre) : (modFibre s w k f).live = s.live := rfl

/-! ## `modGang` -/

@[simp] theorem modGang_agenda (g : Nat) (f : Gang → Gang) : (modGang s g f).agenda = s.agenda := rfl
@[simp] theorem modGang_planned (g : Nat) (f : Gang → Gang) : (modGang s g f).planned = s.planned := rfl
@[simp] theorem modGang_issue (g : Nat) (f : Gang → Gang) : (modGang s g f).issue = s.issue := rfl
@[simp] theorem modGang_fresh (g : Nat) (f : Gang → Gang) : (modGang s g f).fresh = s.fresh := rfl
@[simp] theorem modGang_nextUid (g : Nat) (f : Gang → Gang) : (modGang s g f).nextUid = s.nextUid := rfl
@[simp] theorem modGang_outbox (g : Nat) (f : Gang → Gang) : (modGang s g f).outbox = s.outbox := rfl
@[simp] theorem modGang_waiting (g : Nat) (f : Gang → Gang) : (modGang s g f).waiting = s.waiting := rfl
@[simp] theorem modGang_deviceAnswers (g : Nat) (f : Gang → Gang) : (modGang s g f).deviceAnswers = s.deviceAnswers := rfl
@[simp] theorem modGang_reading (g : Nat) (f : Gang → Gang) : (modGang s g f).reading = s.reading := rfl
@[simp] theorem modGang_posting (g : Nat) (f : Gang → Gang) : (modGang s g f).posting = s.posting := rfl
@[simp] theorem modGang_notes (g : Nat) (f : Gang → Gang) : (modGang s g f).notes = s.notes := rfl
@[simp] theorem modGang_tablesDirty (g : Nat) (f : Gang → Gang) : (modGang s g f).tablesDirty = s.tablesDirty := rfl
@[simp] theorem modGang_clk (g : Nat) (f : Gang → Gang) : (modGang s g f).clk = s.clk := rfl
@[simp] theorem modGang_calends (g : Nat) (f : Gang → Gang) : (modGang s g f).calends = s.calends := rfl
@[simp] theorem modGang_calFrac (g : Nat) (f : Gang → Gang) : (modGang s g f).calFrac = s.calFrac := rfl
@[simp] theorem modGang_calSrc (g : Nat) (f : Gang → Gang) : (modGang s g f).calSrc = s.calSrc := rfl
@[simp] theorem modGang_calLocked (g : Nat) (f : Gang → Gang) : (modGang s g f).calLocked = s.calLocked := rfl
@[simp] theorem modGang_calRate (g : Nat) (f : Gang → Gang) : (modGang s g f).calRate = s.calRate := rfl
@[simp] theorem modGang_calOffset (g : Nat) (f : Gang → Gang) : (modGang s g f).calOffset = s.calOffset := rfl
@[simp] theorem modGang_calGood (g : Nat) (f : Gang → Gang) : (modGang s g f).calGood = s.calGood := rfl
@[simp] theorem modGang_launches (g : Nat) (f : Gang → Gang) : (modGang s g f).launches = s.launches := rfl
@[simp] theorem modGang_gangs (g : Nat) (f : Gang → Gang) : (modGang s g f).gangs = upd s.gangs g f := rfl
@[simp] theorem modGang_waves (g : Nat) (f : Gang → Gang) : (modGang s g f).waves = s.waves := rfl
@[simp] theorem modGang_ops (g : Nat) (f : Gang → Gang) : (modGang s g f).ops = s.ops := rfl
@[simp] theorem modGang_dram (g : Nat) (f : Gang → Gang) : (modGang s g f).dram = s.dram := rfl
@[simp] theorem modGang_cells (g : Nat) (f : Gang → Gang) : (modGang s g f).cells = s.cells := rfl
@[simp] theorem modGang_poison (g : Nat) (f : Gang → Gang) : (modGang s g f).poison = s.poison := rfl
@[simp] theorem modGang_latent (g : Nat) (f : Gang → Gang) : (modGang s g f).latent = s.latent := rfl
@[simp] theorem modGang_l2 (g : Nat) (f : Gang → Gang) : (modGang s g f).l2 = s.l2 := rfl
@[simp] theorem modGang_logical (g : Nat) (f : Gang → Gang) : (modGang s g f).logical = s.logical := rfl
@[simp] theorem modGang_lines (g : Nat) (f : Gang → Gang) : (modGang s g f).lines = s.lines := rfl
@[simp] theorem modGang_l1 (g : Nat) (f : Gang → Gang) : (modGang s g f).l1 = s.l1 := rfl
@[simp] theorem modGang_tlb (g : Nat) (f : Gang → Gang) : (modGang s g f).tlb = s.tlb := rfl
@[simp] theorem modGang_atc (g : Nat) (f : Gang → Gang) : (modGang s g f).atc = s.atc := rfl
@[simp] theorem modGang_hostLines (g : Nat) (f : Gang → Gang) : (modGang s g f).hostLines = s.hostLines := rfl
@[simp] theorem modGang_hostAsks (g : Nat) (f : Gang → Gang) : (modGang s g f).hostAsks = s.hostAsks := rfl
@[simp] theorem modGang_atsWaits (g : Nat) (f : Gang → Gang) : (modGang s g f).atsWaits = s.atsWaits := rfl
@[simp] theorem modGang_monitors (g : Nat) (f : Gang → Gang) : (modGang s g f).monitors = s.monitors := rfl
@[simp] theorem modGang_maps (g : Nat) (f : Gang → Gang) : (modGang s g f).maps = s.maps := rfl
@[simp] theorem modGang_filters (g : Nat) (f : Gang → Gang) : (modGang s g f).filters = s.filters := rfl
@[simp] theorem modGang_qmEnable (g : Nat) (f : Gang → Gang) : (modGang s g f).qmEnable = s.qmEnable := rfl
@[simp] theorem modGang_haltAll (g : Nat) (f : Gang → Gang) : (modGang s g f).haltAll = s.haltAll := rfl
@[simp] theorem modGang_qtBase (g : Nat) (f : Gang → Gang) : (modGang s g f).qtBase = s.qtBase := rfl
@[simp] theorem modGang_qcmd (g : Nat) (f : Gang → Gang) : (modGang s g f).qcmd = s.qcmd := rfl
@[simp] theorem modGang_qmIntStat (g : Nat) (f : Gang → Gang) : (modGang s g f).qmIntStat = s.qmIntStat := rfl
@[simp] theorem modGang_qmIntEn (g : Nat) (f : Gang → Gang) : (modGang s g f).qmIntEn = s.qmIntEn := rfl
@[simp] theorem modGang_queues (g : Nat) (f : Gang → Gang) : (modGang s g f).queues = s.queues := rfl
@[simp] theorem modGang_turnQueue (g : Nat) (f : Gang → Gang) : (modGang s g f).turnQueue = s.turnQueue := rfl
@[simp] theorem modGang_turnUsed (g : Nat) (f : Gang → Gang) : (modGang s g f).turnUsed = s.turnUsed := rfl
@[simp] theorem modGang_making (g : Nat) (f : Gang → Gang) : (modGang s g f).making = s.making := rfl
@[simp] theorem modGang_cxBase (g : Nat) (f : Gang → Gang) : (modGang s g f).cxBase = s.cxBase := rfl
@[simp] theorem modGang_cxTag (g : Nat) (f : Gang → Gang) : (modGang s g f).cxTag = s.cxTag := rfl
@[simp] theorem modGang_cxOp (g : Nat) (f : Gang → Gang) : (modGang s g f).cxOp = s.cxOp := rfl
@[simp] theorem modGang_cxResult (g : Nat) (f : Gang → Gang) : (modGang s g f).cxResult = s.cxResult := rfl
@[simp] theorem modGang_cxArg0 (g : Nat) (f : Gang → Gang) : (modGang s g f).cxArg0 = s.cxArg0 := rfl
@[simp] theorem modGang_cxArg1 (g : Nat) (f : Gang → Gang) : (modGang s g f).cxArg1 = s.cxArg1 := rfl
@[simp] theorem modGang_trOp (g : Nat) (f : Gang → Gang) : (modGang s g f).trOp = s.trOp := rfl
@[simp] theorem modGang_trWb (g : Nat) (f : Gang → Gang) : (modGang s g f).trWb = s.trWb := rfl
@[simp] theorem modGang_trDiscard (g : Nat) (f : Gang → Gang) : (modGang s g f).trDiscard = s.trDiscard := rfl
@[simp] theorem modGang_trResult (g : Nat) (f : Gang → Gang) : (modGang s g f).trResult = s.trResult := rfl
@[simp] theorem modGang_trArg0 (g : Nat) (f : Gang → Gang) : (modGang s g f).trArg0 = s.trArg0 := rfl
@[simp] theorem modGang_trArg1 (g : Nat) (f : Gang → Gang) : (modGang s g f).trArg1 = s.trArg1 := rfl
@[simp] theorem modGang_ptFrame (g : Nat) (f : Gang → Gang) : (modGang s g f).ptFrame = s.ptFrame := rfl
@[simp] theorem modGang_ptLen (g : Nat) (f : Gang → Gang) : (modGang s g f).ptLen = s.ptLen := rfl
@[simp] theorem modGang_migFrame (g : Nat) (f : Gang → Gang) : (modGang s g f).migFrame = s.migFrame := rfl
@[simp] theorem modGang_migCount (g : Nat) (f : Gang → Gang) : (modGang s g f).migCount = s.migCount := rfl
@[simp] theorem modGang_contexts (g : Nat) (f : Gang → Gang) : (modGang s g f).contexts = s.contexts := rfl
@[simp] theorem modGang_fbBase (g : Nat) (f : Gang → Gang) : (modGang s g f).fbBase = s.fbBase := rfl
@[simp] theorem modGang_fbSize (g : Nat) (f : Gang → Gang) : (modGang s g f).fbSize = s.fbSize := rfl
@[simp] theorem modGang_fbEnable (g : Nat) (f : Gang → Gang) : (modGang s g f).fbEnable = s.fbEnable := rfl
@[simp] theorem modGang_fbWr (g : Nat) (f : Gang → Gang) : (modGang s g f).fbWr = s.fbWr := rfl
@[simp] theorem modGang_fbRd (g : Nat) (f : Gang → Gang) : (modGang s g f).fbRd = s.fbRd := rfl
@[simp] theorem modGang_fbOvf (g : Nat) (f : Gang → Gang) : (modGang s g f).fbOvf = s.fbOvf := rfl
@[simp] theorem modGang_fbStop (g : Nat) (f : Gang → Gang) : (modGang s g f).fbStop = s.fbStop := rfl
@[simp] theorem modGang_fxIntStat (g : Nat) (f : Gang → Gang) : (modGang s g f).fxIntStat = s.fxIntStat := rfl
@[simp] theorem modGang_fxIntEn (g : Nat) (f : Gang → Gang) : (modGang s g f).fxIntEn = s.fxIntEn := rfl
@[simp] theorem modGang_held (g : Nat) (f : Gang → Gang) : (modGang s g f).held = s.held := rfl
@[simp] theorem modGang_tokens (g : Nat) (f : Gang → Gang) : (modGang s g f).tokens = s.tokens := rfl
@[simp] theorem modGang_nextToken (g : Nat) (f : Gang → Gang) : (modGang s g f).nextToken = s.nextToken := rfl
@[simp] theorem modGang_linkUp (g : Nat) (f : Gang → Gang) : (modGang s g f).linkUp = s.linkUp := rfl
@[simp] theorem modGang_phyBase (g : Nat) (f : Gang → Gang) : (modGang s g f).phyBase = s.phyBase := rfl
@[simp] theorem modGang_vectors (g : Nat) (f : Gang → Gang) : (modGang s g f).vectors = s.vectors := rfl
@[simp] theorem modGang_devId (g : Nat) (f : Gang → Gang) : (modGang s g f).devId = s.devId := rfl
@[simp] theorem modGang_fabEnable (g : Nat) (f : Gang → Gang) : (modGang s g f).fabEnable = s.fabEnable := rfl
@[simp] theorem modGang_safe (g : Nat) (f : Gang → Gang) : (modGang s g f).safe = s.safe := rfl
@[simp] theorem modGang_domain (g : Nat) (f : Gang → Gang) : (modGang s g f).domain = s.domain := rfl
@[simp] theorem modGang_ports (g : Nat) (f : Gang → Gang) : (modGang s g f).ports = s.ports := rfl
@[simp] theorem modGang_routes (g : Nat) (f : Gang → Gang) : (modGang s g f).routes = s.routes := rfl
@[simp] theorem modGang_reach (g : Nat) (f : Gang → Gang) : (modGang s g f).reach = s.reach := rfl
@[simp] theorem modGang_safeCount (g : Nat) (f : Gang → Gang) : (modGang s g f).safeCount = s.safeCount := rfl
@[simp] theorem modGang_credits (g : Nat) (f : Gang → Gang) : (modGang s g f).credits = s.credits := rfl
@[simp] theorem modGang_requests (g : Nat) (f : Gang → Gang) : (modGang s g f).requests = s.requests := rfl
@[simp] theorem modGang_unsent (g : Nat) (f : Gang → Gang) : (modGang s g f).unsent = s.unsent := rfl
@[simp] theorem modGang_far (g : Nat) (f : Gang → Gang) : (modGang s g f).far = s.far := rfl
@[simp] theorem modGang_barred (g : Nat) (f : Gang → Gang) : (modGang s g f).barred = s.barred := rfl
@[simp] theorem modGang_keptBack (g : Nat) (f : Gang → Gang) : (modGang s g f).keptBack = s.keptBack := rfl
@[simp] theorem modGang_inbound (g : Nat) (f : Gang → Gang) : (modGang s g f).inbound = s.inbound := rfl
@[simp] theorem modGang_probes (g : Nat) (f : Gang → Gang) : (modGang s g f).probes = s.probes := rfl
@[simp] theorem modGang_colBase (g : Nat) (f : Gang → Gang) : (modGang s g f).colBase = s.colBase := rfl
@[simp] theorem modGang_colCount (g : Nat) (f : Gang → Gang) : (modGang s g f).colCount = s.colCount := rfl
@[simp] theorem modGang_collGroups (g : Nat) (f : Gang → Gang) : (modGang s g f).collGroups = s.collGroups := rfl
@[simp] theorem modGang_collIssues (g : Nat) (f : Gang → Gang) : (modGang s g f).collIssues = s.collIssues := rfl
@[simp] theorem modGang_mgc (g : Nat) (f : Gang → Gang) : (modGang s g f).mgc = s.mgc := rfl
@[simp] theorem modGang_correctedErrors (g : Nat) (f : Gang → Gang) : (modGang s g f).correctedErrors = s.correctedErrors := rfl
@[simp] theorem modGang_pwren (g : Nat) (f : Gang → Gang) : (modGang s g f).pwren = s.pwren := rfl
@[simp] theorem modGang_pgood (g : Nat) (f : Gang → Gang) : (modGang s g f).pgood = s.pgood := rfl
@[simp] theorem modGang_mrstN (g : Nat) (f : Gang → Gang) : (modGang s g f).mrstN = s.mrstN := rfl
@[simp] theorem modGang_power (g : Nat) (f : Gang → Gang) : (modGang s g f).power = s.power := rfl
@[simp] theorem modGang_live (g : Nat) (f : Gang → Gang) : (modGang s g f).live = s.live := rfl

/-! ## `modLaunch` -/

@[simp] theorem modLaunch_agenda (l : Nat) (f : Launch → Launch) : (modLaunch s l f).agenda = s.agenda := rfl
@[simp] theorem modLaunch_planned (l : Nat) (f : Launch → Launch) : (modLaunch s l f).planned = s.planned := rfl
@[simp] theorem modLaunch_issue (l : Nat) (f : Launch → Launch) : (modLaunch s l f).issue = s.issue := rfl
@[simp] theorem modLaunch_fresh (l : Nat) (f : Launch → Launch) : (modLaunch s l f).fresh = s.fresh := rfl
@[simp] theorem modLaunch_nextUid (l : Nat) (f : Launch → Launch) : (modLaunch s l f).nextUid = s.nextUid := rfl
@[simp] theorem modLaunch_outbox (l : Nat) (f : Launch → Launch) : (modLaunch s l f).outbox = s.outbox := rfl
@[simp] theorem modLaunch_waiting (l : Nat) (f : Launch → Launch) : (modLaunch s l f).waiting = s.waiting := rfl
@[simp] theorem modLaunch_deviceAnswers (l : Nat) (f : Launch → Launch) : (modLaunch s l f).deviceAnswers = s.deviceAnswers := rfl
@[simp] theorem modLaunch_reading (l : Nat) (f : Launch → Launch) : (modLaunch s l f).reading = s.reading := rfl
@[simp] theorem modLaunch_posting (l : Nat) (f : Launch → Launch) : (modLaunch s l f).posting = s.posting := rfl
@[simp] theorem modLaunch_notes (l : Nat) (f : Launch → Launch) : (modLaunch s l f).notes = s.notes := rfl
@[simp] theorem modLaunch_tablesDirty (l : Nat) (f : Launch → Launch) : (modLaunch s l f).tablesDirty = s.tablesDirty := rfl
@[simp] theorem modLaunch_clk (l : Nat) (f : Launch → Launch) : (modLaunch s l f).clk = s.clk := rfl
@[simp] theorem modLaunch_calends (l : Nat) (f : Launch → Launch) : (modLaunch s l f).calends = s.calends := rfl
@[simp] theorem modLaunch_calFrac (l : Nat) (f : Launch → Launch) : (modLaunch s l f).calFrac = s.calFrac := rfl
@[simp] theorem modLaunch_calSrc (l : Nat) (f : Launch → Launch) : (modLaunch s l f).calSrc = s.calSrc := rfl
@[simp] theorem modLaunch_calLocked (l : Nat) (f : Launch → Launch) : (modLaunch s l f).calLocked = s.calLocked := rfl
@[simp] theorem modLaunch_calRate (l : Nat) (f : Launch → Launch) : (modLaunch s l f).calRate = s.calRate := rfl
@[simp] theorem modLaunch_calOffset (l : Nat) (f : Launch → Launch) : (modLaunch s l f).calOffset = s.calOffset := rfl
@[simp] theorem modLaunch_calGood (l : Nat) (f : Launch → Launch) : (modLaunch s l f).calGood = s.calGood := rfl
@[simp] theorem modLaunch_launches (l : Nat) (f : Launch → Launch) : (modLaunch s l f).launches = upd s.launches l f := rfl
@[simp] theorem modLaunch_gangs (l : Nat) (f : Launch → Launch) : (modLaunch s l f).gangs = s.gangs := rfl
@[simp] theorem modLaunch_waves (l : Nat) (f : Launch → Launch) : (modLaunch s l f).waves = s.waves := rfl
@[simp] theorem modLaunch_ops (l : Nat) (f : Launch → Launch) : (modLaunch s l f).ops = s.ops := rfl
@[simp] theorem modLaunch_dram (l : Nat) (f : Launch → Launch) : (modLaunch s l f).dram = s.dram := rfl
@[simp] theorem modLaunch_cells (l : Nat) (f : Launch → Launch) : (modLaunch s l f).cells = s.cells := rfl
@[simp] theorem modLaunch_poison (l : Nat) (f : Launch → Launch) : (modLaunch s l f).poison = s.poison := rfl
@[simp] theorem modLaunch_latent (l : Nat) (f : Launch → Launch) : (modLaunch s l f).latent = s.latent := rfl
@[simp] theorem modLaunch_l2 (l : Nat) (f : Launch → Launch) : (modLaunch s l f).l2 = s.l2 := rfl
@[simp] theorem modLaunch_logical (l : Nat) (f : Launch → Launch) : (modLaunch s l f).logical = s.logical := rfl
@[simp] theorem modLaunch_lines (l : Nat) (f : Launch → Launch) : (modLaunch s l f).lines = s.lines := rfl
@[simp] theorem modLaunch_l1 (l : Nat) (f : Launch → Launch) : (modLaunch s l f).l1 = s.l1 := rfl
@[simp] theorem modLaunch_tlb (l : Nat) (f : Launch → Launch) : (modLaunch s l f).tlb = s.tlb := rfl
@[simp] theorem modLaunch_atc (l : Nat) (f : Launch → Launch) : (modLaunch s l f).atc = s.atc := rfl
@[simp] theorem modLaunch_hostLines (l : Nat) (f : Launch → Launch) : (modLaunch s l f).hostLines = s.hostLines := rfl
@[simp] theorem modLaunch_hostAsks (l : Nat) (f : Launch → Launch) : (modLaunch s l f).hostAsks = s.hostAsks := rfl
@[simp] theorem modLaunch_atsWaits (l : Nat) (f : Launch → Launch) : (modLaunch s l f).atsWaits = s.atsWaits := rfl
@[simp] theorem modLaunch_monitors (l : Nat) (f : Launch → Launch) : (modLaunch s l f).monitors = s.monitors := rfl
@[simp] theorem modLaunch_maps (l : Nat) (f : Launch → Launch) : (modLaunch s l f).maps = s.maps := rfl
@[simp] theorem modLaunch_filters (l : Nat) (f : Launch → Launch) : (modLaunch s l f).filters = s.filters := rfl
@[simp] theorem modLaunch_qmEnable (l : Nat) (f : Launch → Launch) : (modLaunch s l f).qmEnable = s.qmEnable := rfl
@[simp] theorem modLaunch_haltAll (l : Nat) (f : Launch → Launch) : (modLaunch s l f).haltAll = s.haltAll := rfl
@[simp] theorem modLaunch_qtBase (l : Nat) (f : Launch → Launch) : (modLaunch s l f).qtBase = s.qtBase := rfl
@[simp] theorem modLaunch_qcmd (l : Nat) (f : Launch → Launch) : (modLaunch s l f).qcmd = s.qcmd := rfl
@[simp] theorem modLaunch_qmIntStat (l : Nat) (f : Launch → Launch) : (modLaunch s l f).qmIntStat = s.qmIntStat := rfl
@[simp] theorem modLaunch_qmIntEn (l : Nat) (f : Launch → Launch) : (modLaunch s l f).qmIntEn = s.qmIntEn := rfl
@[simp] theorem modLaunch_queues (l : Nat) (f : Launch → Launch) : (modLaunch s l f).queues = s.queues := rfl
@[simp] theorem modLaunch_turnQueue (l : Nat) (f : Launch → Launch) : (modLaunch s l f).turnQueue = s.turnQueue := rfl
@[simp] theorem modLaunch_turnUsed (l : Nat) (f : Launch → Launch) : (modLaunch s l f).turnUsed = s.turnUsed := rfl
@[simp] theorem modLaunch_making (l : Nat) (f : Launch → Launch) : (modLaunch s l f).making = s.making := rfl
@[simp] theorem modLaunch_cxBase (l : Nat) (f : Launch → Launch) : (modLaunch s l f).cxBase = s.cxBase := rfl
@[simp] theorem modLaunch_cxTag (l : Nat) (f : Launch → Launch) : (modLaunch s l f).cxTag = s.cxTag := rfl
@[simp] theorem modLaunch_cxOp (l : Nat) (f : Launch → Launch) : (modLaunch s l f).cxOp = s.cxOp := rfl
@[simp] theorem modLaunch_cxResult (l : Nat) (f : Launch → Launch) : (modLaunch s l f).cxResult = s.cxResult := rfl
@[simp] theorem modLaunch_cxArg0 (l : Nat) (f : Launch → Launch) : (modLaunch s l f).cxArg0 = s.cxArg0 := rfl
@[simp] theorem modLaunch_cxArg1 (l : Nat) (f : Launch → Launch) : (modLaunch s l f).cxArg1 = s.cxArg1 := rfl
@[simp] theorem modLaunch_trOp (l : Nat) (f : Launch → Launch) : (modLaunch s l f).trOp = s.trOp := rfl
@[simp] theorem modLaunch_trWb (l : Nat) (f : Launch → Launch) : (modLaunch s l f).trWb = s.trWb := rfl
@[simp] theorem modLaunch_trDiscard (l : Nat) (f : Launch → Launch) : (modLaunch s l f).trDiscard = s.trDiscard := rfl
@[simp] theorem modLaunch_trResult (l : Nat) (f : Launch → Launch) : (modLaunch s l f).trResult = s.trResult := rfl
@[simp] theorem modLaunch_trArg0 (l : Nat) (f : Launch → Launch) : (modLaunch s l f).trArg0 = s.trArg0 := rfl
@[simp] theorem modLaunch_trArg1 (l : Nat) (f : Launch → Launch) : (modLaunch s l f).trArg1 = s.trArg1 := rfl
@[simp] theorem modLaunch_ptFrame (l : Nat) (f : Launch → Launch) : (modLaunch s l f).ptFrame = s.ptFrame := rfl
@[simp] theorem modLaunch_ptLen (l : Nat) (f : Launch → Launch) : (modLaunch s l f).ptLen = s.ptLen := rfl
@[simp] theorem modLaunch_migFrame (l : Nat) (f : Launch → Launch) : (modLaunch s l f).migFrame = s.migFrame := rfl
@[simp] theorem modLaunch_migCount (l : Nat) (f : Launch → Launch) : (modLaunch s l f).migCount = s.migCount := rfl
@[simp] theorem modLaunch_contexts (l : Nat) (f : Launch → Launch) : (modLaunch s l f).contexts = s.contexts := rfl
@[simp] theorem modLaunch_fbBase (l : Nat) (f : Launch → Launch) : (modLaunch s l f).fbBase = s.fbBase := rfl
@[simp] theorem modLaunch_fbSize (l : Nat) (f : Launch → Launch) : (modLaunch s l f).fbSize = s.fbSize := rfl
@[simp] theorem modLaunch_fbEnable (l : Nat) (f : Launch → Launch) : (modLaunch s l f).fbEnable = s.fbEnable := rfl
@[simp] theorem modLaunch_fbWr (l : Nat) (f : Launch → Launch) : (modLaunch s l f).fbWr = s.fbWr := rfl
@[simp] theorem modLaunch_fbRd (l : Nat) (f : Launch → Launch) : (modLaunch s l f).fbRd = s.fbRd := rfl
@[simp] theorem modLaunch_fbOvf (l : Nat) (f : Launch → Launch) : (modLaunch s l f).fbOvf = s.fbOvf := rfl
@[simp] theorem modLaunch_fbStop (l : Nat) (f : Launch → Launch) : (modLaunch s l f).fbStop = s.fbStop := rfl
@[simp] theorem modLaunch_fxIntStat (l : Nat) (f : Launch → Launch) : (modLaunch s l f).fxIntStat = s.fxIntStat := rfl
@[simp] theorem modLaunch_fxIntEn (l : Nat) (f : Launch → Launch) : (modLaunch s l f).fxIntEn = s.fxIntEn := rfl
@[simp] theorem modLaunch_held (l : Nat) (f : Launch → Launch) : (modLaunch s l f).held = s.held := rfl
@[simp] theorem modLaunch_tokens (l : Nat) (f : Launch → Launch) : (modLaunch s l f).tokens = s.tokens := rfl
@[simp] theorem modLaunch_nextToken (l : Nat) (f : Launch → Launch) : (modLaunch s l f).nextToken = s.nextToken := rfl
@[simp] theorem modLaunch_linkUp (l : Nat) (f : Launch → Launch) : (modLaunch s l f).linkUp = s.linkUp := rfl
@[simp] theorem modLaunch_phyBase (l : Nat) (f : Launch → Launch) : (modLaunch s l f).phyBase = s.phyBase := rfl
@[simp] theorem modLaunch_vectors (l : Nat) (f : Launch → Launch) : (modLaunch s l f).vectors = s.vectors := rfl
@[simp] theorem modLaunch_devId (l : Nat) (f : Launch → Launch) : (modLaunch s l f).devId = s.devId := rfl
@[simp] theorem modLaunch_fabEnable (l : Nat) (f : Launch → Launch) : (modLaunch s l f).fabEnable = s.fabEnable := rfl
@[simp] theorem modLaunch_safe (l : Nat) (f : Launch → Launch) : (modLaunch s l f).safe = s.safe := rfl
@[simp] theorem modLaunch_domain (l : Nat) (f : Launch → Launch) : (modLaunch s l f).domain = s.domain := rfl
@[simp] theorem modLaunch_ports (l : Nat) (f : Launch → Launch) : (modLaunch s l f).ports = s.ports := rfl
@[simp] theorem modLaunch_routes (l : Nat) (f : Launch → Launch) : (modLaunch s l f).routes = s.routes := rfl
@[simp] theorem modLaunch_reach (l : Nat) (f : Launch → Launch) : (modLaunch s l f).reach = s.reach := rfl
@[simp] theorem modLaunch_safeCount (l : Nat) (f : Launch → Launch) : (modLaunch s l f).safeCount = s.safeCount := rfl
@[simp] theorem modLaunch_credits (l : Nat) (f : Launch → Launch) : (modLaunch s l f).credits = s.credits := rfl
@[simp] theorem modLaunch_requests (l : Nat) (f : Launch → Launch) : (modLaunch s l f).requests = s.requests := rfl
@[simp] theorem modLaunch_unsent (l : Nat) (f : Launch → Launch) : (modLaunch s l f).unsent = s.unsent := rfl
@[simp] theorem modLaunch_far (l : Nat) (f : Launch → Launch) : (modLaunch s l f).far = s.far := rfl
@[simp] theorem modLaunch_barred (l : Nat) (f : Launch → Launch) : (modLaunch s l f).barred = s.barred := rfl
@[simp] theorem modLaunch_keptBack (l : Nat) (f : Launch → Launch) : (modLaunch s l f).keptBack = s.keptBack := rfl
@[simp] theorem modLaunch_inbound (l : Nat) (f : Launch → Launch) : (modLaunch s l f).inbound = s.inbound := rfl
@[simp] theorem modLaunch_probes (l : Nat) (f : Launch → Launch) : (modLaunch s l f).probes = s.probes := rfl
@[simp] theorem modLaunch_colBase (l : Nat) (f : Launch → Launch) : (modLaunch s l f).colBase = s.colBase := rfl
@[simp] theorem modLaunch_colCount (l : Nat) (f : Launch → Launch) : (modLaunch s l f).colCount = s.colCount := rfl
@[simp] theorem modLaunch_collGroups (l : Nat) (f : Launch → Launch) : (modLaunch s l f).collGroups = s.collGroups := rfl
@[simp] theorem modLaunch_collIssues (l : Nat) (f : Launch → Launch) : (modLaunch s l f).collIssues = s.collIssues := rfl
@[simp] theorem modLaunch_mgc (l : Nat) (f : Launch → Launch) : (modLaunch s l f).mgc = s.mgc := rfl
@[simp] theorem modLaunch_correctedErrors (l : Nat) (f : Launch → Launch) : (modLaunch s l f).correctedErrors = s.correctedErrors := rfl
@[simp] theorem modLaunch_pwren (l : Nat) (f : Launch → Launch) : (modLaunch s l f).pwren = s.pwren := rfl
@[simp] theorem modLaunch_pgood (l : Nat) (f : Launch → Launch) : (modLaunch s l f).pgood = s.pgood := rfl
@[simp] theorem modLaunch_mrstN (l : Nat) (f : Launch → Launch) : (modLaunch s l f).mrstN = s.mrstN := rfl
@[simp] theorem modLaunch_power (l : Nat) (f : Launch → Launch) : (modLaunch s l f).power = s.power := rfl
@[simp] theorem modLaunch_live (l : Nat) (f : Launch → Launch) : (modLaunch s l f).live = s.live := rfl

/-! ## `modContext` -/

@[simp] theorem modContext_agenda (t : Nat) (f : Context → Context) : (modContext s t f).agenda = s.agenda := rfl
@[simp] theorem modContext_planned (t : Nat) (f : Context → Context) : (modContext s t f).planned = s.planned := rfl
@[simp] theorem modContext_issue (t : Nat) (f : Context → Context) : (modContext s t f).issue = s.issue := rfl
@[simp] theorem modContext_fresh (t : Nat) (f : Context → Context) : (modContext s t f).fresh = s.fresh := rfl
@[simp] theorem modContext_nextUid (t : Nat) (f : Context → Context) : (modContext s t f).nextUid = s.nextUid := rfl
@[simp] theorem modContext_outbox (t : Nat) (f : Context → Context) : (modContext s t f).outbox = s.outbox := rfl
@[simp] theorem modContext_waiting (t : Nat) (f : Context → Context) : (modContext s t f).waiting = s.waiting := rfl
@[simp] theorem modContext_deviceAnswers (t : Nat) (f : Context → Context) : (modContext s t f).deviceAnswers = s.deviceAnswers := rfl
@[simp] theorem modContext_reading (t : Nat) (f : Context → Context) : (modContext s t f).reading = s.reading := rfl
@[simp] theorem modContext_posting (t : Nat) (f : Context → Context) : (modContext s t f).posting = s.posting := rfl
@[simp] theorem modContext_notes (t : Nat) (f : Context → Context) : (modContext s t f).notes = s.notes := rfl
@[simp] theorem modContext_tablesDirty (t : Nat) (f : Context → Context) : (modContext s t f).tablesDirty = s.tablesDirty := rfl
@[simp] theorem modContext_clk (t : Nat) (f : Context → Context) : (modContext s t f).clk = s.clk := rfl
@[simp] theorem modContext_calends (t : Nat) (f : Context → Context) : (modContext s t f).calends = s.calends := rfl
@[simp] theorem modContext_calFrac (t : Nat) (f : Context → Context) : (modContext s t f).calFrac = s.calFrac := rfl
@[simp] theorem modContext_calSrc (t : Nat) (f : Context → Context) : (modContext s t f).calSrc = s.calSrc := rfl
@[simp] theorem modContext_calLocked (t : Nat) (f : Context → Context) : (modContext s t f).calLocked = s.calLocked := rfl
@[simp] theorem modContext_calRate (t : Nat) (f : Context → Context) : (modContext s t f).calRate = s.calRate := rfl
@[simp] theorem modContext_calOffset (t : Nat) (f : Context → Context) : (modContext s t f).calOffset = s.calOffset := rfl
@[simp] theorem modContext_calGood (t : Nat) (f : Context → Context) : (modContext s t f).calGood = s.calGood := rfl
@[simp] theorem modContext_launches (t : Nat) (f : Context → Context) : (modContext s t f).launches = s.launches := rfl
@[simp] theorem modContext_gangs (t : Nat) (f : Context → Context) : (modContext s t f).gangs = s.gangs := rfl
@[simp] theorem modContext_waves (t : Nat) (f : Context → Context) : (modContext s t f).waves = s.waves := rfl
@[simp] theorem modContext_ops (t : Nat) (f : Context → Context) : (modContext s t f).ops = s.ops := rfl
@[simp] theorem modContext_dram (t : Nat) (f : Context → Context) : (modContext s t f).dram = s.dram := rfl
@[simp] theorem modContext_cells (t : Nat) (f : Context → Context) : (modContext s t f).cells = s.cells := rfl
@[simp] theorem modContext_poison (t : Nat) (f : Context → Context) : (modContext s t f).poison = s.poison := rfl
@[simp] theorem modContext_latent (t : Nat) (f : Context → Context) : (modContext s t f).latent = s.latent := rfl
@[simp] theorem modContext_l2 (t : Nat) (f : Context → Context) : (modContext s t f).l2 = s.l2 := rfl
@[simp] theorem modContext_logical (t : Nat) (f : Context → Context) : (modContext s t f).logical = s.logical := rfl
@[simp] theorem modContext_lines (t : Nat) (f : Context → Context) : (modContext s t f).lines = s.lines := rfl
@[simp] theorem modContext_l1 (t : Nat) (f : Context → Context) : (modContext s t f).l1 = s.l1 := rfl
@[simp] theorem modContext_tlb (t : Nat) (f : Context → Context) : (modContext s t f).tlb = s.tlb := rfl
@[simp] theorem modContext_atc (t : Nat) (f : Context → Context) : (modContext s t f).atc = s.atc := rfl
@[simp] theorem modContext_hostLines (t : Nat) (f : Context → Context) : (modContext s t f).hostLines = s.hostLines := rfl
@[simp] theorem modContext_hostAsks (t : Nat) (f : Context → Context) : (modContext s t f).hostAsks = s.hostAsks := rfl
@[simp] theorem modContext_atsWaits (t : Nat) (f : Context → Context) : (modContext s t f).atsWaits = s.atsWaits := rfl
@[simp] theorem modContext_monitors (t : Nat) (f : Context → Context) : (modContext s t f).monitors = s.monitors := rfl
@[simp] theorem modContext_maps (t : Nat) (f : Context → Context) : (modContext s t f).maps = s.maps := rfl
@[simp] theorem modContext_filters (t : Nat) (f : Context → Context) : (modContext s t f).filters = s.filters := rfl
@[simp] theorem modContext_qmEnable (t : Nat) (f : Context → Context) : (modContext s t f).qmEnable = s.qmEnable := rfl
@[simp] theorem modContext_haltAll (t : Nat) (f : Context → Context) : (modContext s t f).haltAll = s.haltAll := rfl
@[simp] theorem modContext_qtBase (t : Nat) (f : Context → Context) : (modContext s t f).qtBase = s.qtBase := rfl
@[simp] theorem modContext_qcmd (t : Nat) (f : Context → Context) : (modContext s t f).qcmd = s.qcmd := rfl
@[simp] theorem modContext_qmIntStat (t : Nat) (f : Context → Context) : (modContext s t f).qmIntStat = s.qmIntStat := rfl
@[simp] theorem modContext_qmIntEn (t : Nat) (f : Context → Context) : (modContext s t f).qmIntEn = s.qmIntEn := rfl
@[simp] theorem modContext_queues (t : Nat) (f : Context → Context) : (modContext s t f).queues = s.queues := rfl
@[simp] theorem modContext_turnQueue (t : Nat) (f : Context → Context) : (modContext s t f).turnQueue = s.turnQueue := rfl
@[simp] theorem modContext_turnUsed (t : Nat) (f : Context → Context) : (modContext s t f).turnUsed = s.turnUsed := rfl
@[simp] theorem modContext_making (t : Nat) (f : Context → Context) : (modContext s t f).making = s.making := rfl
@[simp] theorem modContext_cxBase (t : Nat) (f : Context → Context) : (modContext s t f).cxBase = s.cxBase := rfl
@[simp] theorem modContext_cxTag (t : Nat) (f : Context → Context) : (modContext s t f).cxTag = s.cxTag := rfl
@[simp] theorem modContext_cxOp (t : Nat) (f : Context → Context) : (modContext s t f).cxOp = s.cxOp := rfl
@[simp] theorem modContext_cxResult (t : Nat) (f : Context → Context) : (modContext s t f).cxResult = s.cxResult := rfl
@[simp] theorem modContext_cxArg0 (t : Nat) (f : Context → Context) : (modContext s t f).cxArg0 = s.cxArg0 := rfl
@[simp] theorem modContext_cxArg1 (t : Nat) (f : Context → Context) : (modContext s t f).cxArg1 = s.cxArg1 := rfl
@[simp] theorem modContext_trOp (t : Nat) (f : Context → Context) : (modContext s t f).trOp = s.trOp := rfl
@[simp] theorem modContext_trWb (t : Nat) (f : Context → Context) : (modContext s t f).trWb = s.trWb := rfl
@[simp] theorem modContext_trDiscard (t : Nat) (f : Context → Context) : (modContext s t f).trDiscard = s.trDiscard := rfl
@[simp] theorem modContext_trResult (t : Nat) (f : Context → Context) : (modContext s t f).trResult = s.trResult := rfl
@[simp] theorem modContext_trArg0 (t : Nat) (f : Context → Context) : (modContext s t f).trArg0 = s.trArg0 := rfl
@[simp] theorem modContext_trArg1 (t : Nat) (f : Context → Context) : (modContext s t f).trArg1 = s.trArg1 := rfl
@[simp] theorem modContext_ptFrame (t : Nat) (f : Context → Context) : (modContext s t f).ptFrame = s.ptFrame := rfl
@[simp] theorem modContext_ptLen (t : Nat) (f : Context → Context) : (modContext s t f).ptLen = s.ptLen := rfl
@[simp] theorem modContext_migFrame (t : Nat) (f : Context → Context) : (modContext s t f).migFrame = s.migFrame := rfl
@[simp] theorem modContext_migCount (t : Nat) (f : Context → Context) : (modContext s t f).migCount = s.migCount := rfl
@[simp] theorem modContext_contexts (t : Nat) (f : Context → Context) : (modContext s t f).contexts = upd s.contexts t f := rfl
@[simp] theorem modContext_fbBase (t : Nat) (f : Context → Context) : (modContext s t f).fbBase = s.fbBase := rfl
@[simp] theorem modContext_fbSize (t : Nat) (f : Context → Context) : (modContext s t f).fbSize = s.fbSize := rfl
@[simp] theorem modContext_fbEnable (t : Nat) (f : Context → Context) : (modContext s t f).fbEnable = s.fbEnable := rfl
@[simp] theorem modContext_fbWr (t : Nat) (f : Context → Context) : (modContext s t f).fbWr = s.fbWr := rfl
@[simp] theorem modContext_fbRd (t : Nat) (f : Context → Context) : (modContext s t f).fbRd = s.fbRd := rfl
@[simp] theorem modContext_fbOvf (t : Nat) (f : Context → Context) : (modContext s t f).fbOvf = s.fbOvf := rfl
@[simp] theorem modContext_fbStop (t : Nat) (f : Context → Context) : (modContext s t f).fbStop = s.fbStop := rfl
@[simp] theorem modContext_fxIntStat (t : Nat) (f : Context → Context) : (modContext s t f).fxIntStat = s.fxIntStat := rfl
@[simp] theorem modContext_fxIntEn (t : Nat) (f : Context → Context) : (modContext s t f).fxIntEn = s.fxIntEn := rfl
@[simp] theorem modContext_held (t : Nat) (f : Context → Context) : (modContext s t f).held = s.held := rfl
@[simp] theorem modContext_tokens (t : Nat) (f : Context → Context) : (modContext s t f).tokens = s.tokens := rfl
@[simp] theorem modContext_nextToken (t : Nat) (f : Context → Context) : (modContext s t f).nextToken = s.nextToken := rfl
@[simp] theorem modContext_linkUp (t : Nat) (f : Context → Context) : (modContext s t f).linkUp = s.linkUp := rfl
@[simp] theorem modContext_phyBase (t : Nat) (f : Context → Context) : (modContext s t f).phyBase = s.phyBase := rfl
@[simp] theorem modContext_vectors (t : Nat) (f : Context → Context) : (modContext s t f).vectors = s.vectors := rfl
@[simp] theorem modContext_devId (t : Nat) (f : Context → Context) : (modContext s t f).devId = s.devId := rfl
@[simp] theorem modContext_fabEnable (t : Nat) (f : Context → Context) : (modContext s t f).fabEnable = s.fabEnable := rfl
@[simp] theorem modContext_safe (t : Nat) (f : Context → Context) : (modContext s t f).safe = s.safe := rfl
@[simp] theorem modContext_domain (t : Nat) (f : Context → Context) : (modContext s t f).domain = s.domain := rfl
@[simp] theorem modContext_ports (t : Nat) (f : Context → Context) : (modContext s t f).ports = s.ports := rfl
@[simp] theorem modContext_routes (t : Nat) (f : Context → Context) : (modContext s t f).routes = s.routes := rfl
@[simp] theorem modContext_reach (t : Nat) (f : Context → Context) : (modContext s t f).reach = s.reach := rfl
@[simp] theorem modContext_safeCount (t : Nat) (f : Context → Context) : (modContext s t f).safeCount = s.safeCount := rfl
@[simp] theorem modContext_credits (t : Nat) (f : Context → Context) : (modContext s t f).credits = s.credits := rfl
@[simp] theorem modContext_requests (t : Nat) (f : Context → Context) : (modContext s t f).requests = s.requests := rfl
@[simp] theorem modContext_unsent (t : Nat) (f : Context → Context) : (modContext s t f).unsent = s.unsent := rfl
@[simp] theorem modContext_far (t : Nat) (f : Context → Context) : (modContext s t f).far = s.far := rfl
@[simp] theorem modContext_barred (t : Nat) (f : Context → Context) : (modContext s t f).barred = s.barred := rfl
@[simp] theorem modContext_keptBack (t : Nat) (f : Context → Context) : (modContext s t f).keptBack = s.keptBack := rfl
@[simp] theorem modContext_inbound (t : Nat) (f : Context → Context) : (modContext s t f).inbound = s.inbound := rfl
@[simp] theorem modContext_probes (t : Nat) (f : Context → Context) : (modContext s t f).probes = s.probes := rfl
@[simp] theorem modContext_colBase (t : Nat) (f : Context → Context) : (modContext s t f).colBase = s.colBase := rfl
@[simp] theorem modContext_colCount (t : Nat) (f : Context → Context) : (modContext s t f).colCount = s.colCount := rfl
@[simp] theorem modContext_collGroups (t : Nat) (f : Context → Context) : (modContext s t f).collGroups = s.collGroups := rfl
@[simp] theorem modContext_collIssues (t : Nat) (f : Context → Context) : (modContext s t f).collIssues = s.collIssues := rfl
@[simp] theorem modContext_mgc (t : Nat) (f : Context → Context) : (modContext s t f).mgc = s.mgc := rfl
@[simp] theorem modContext_correctedErrors (t : Nat) (f : Context → Context) : (modContext s t f).correctedErrors = s.correctedErrors := rfl
@[simp] theorem modContext_pwren (t : Nat) (f : Context → Context) : (modContext s t f).pwren = s.pwren := rfl
@[simp] theorem modContext_pgood (t : Nat) (f : Context → Context) : (modContext s t f).pgood = s.pgood := rfl
@[simp] theorem modContext_mrstN (t : Nat) (f : Context → Context) : (modContext s t f).mrstN = s.mrstN := rfl
@[simp] theorem modContext_power (t : Nat) (f : Context → Context) : (modContext s t f).power = s.power := rfl
@[simp] theorem modContext_live (t : Nat) (f : Context → Context) : (modContext s t f).live = s.live := rfl

/-! ## `modOp` -/

@[simp] theorem modOp_agenda (i : Nat) (f : Op → Op) : (modOp s i f).agenda = s.agenda := rfl
@[simp] theorem modOp_planned (i : Nat) (f : Op → Op) : (modOp s i f).planned = s.planned := rfl
@[simp] theorem modOp_issue (i : Nat) (f : Op → Op) : (modOp s i f).issue = s.issue := rfl
@[simp] theorem modOp_fresh (i : Nat) (f : Op → Op) : (modOp s i f).fresh = s.fresh := rfl
@[simp] theorem modOp_nextUid (i : Nat) (f : Op → Op) : (modOp s i f).nextUid = s.nextUid := rfl
@[simp] theorem modOp_outbox (i : Nat) (f : Op → Op) : (modOp s i f).outbox = s.outbox := rfl
@[simp] theorem modOp_waiting (i : Nat) (f : Op → Op) : (modOp s i f).waiting = s.waiting := rfl
@[simp] theorem modOp_deviceAnswers (i : Nat) (f : Op → Op) : (modOp s i f).deviceAnswers = s.deviceAnswers := rfl
@[simp] theorem modOp_reading (i : Nat) (f : Op → Op) : (modOp s i f).reading = s.reading := rfl
@[simp] theorem modOp_posting (i : Nat) (f : Op → Op) : (modOp s i f).posting = s.posting := rfl
@[simp] theorem modOp_notes (i : Nat) (f : Op → Op) : (modOp s i f).notes = s.notes := rfl
@[simp] theorem modOp_tablesDirty (i : Nat) (f : Op → Op) : (modOp s i f).tablesDirty = s.tablesDirty := rfl
@[simp] theorem modOp_clk (i : Nat) (f : Op → Op) : (modOp s i f).clk = s.clk := rfl
@[simp] theorem modOp_calends (i : Nat) (f : Op → Op) : (modOp s i f).calends = s.calends := rfl
@[simp] theorem modOp_calFrac (i : Nat) (f : Op → Op) : (modOp s i f).calFrac = s.calFrac := rfl
@[simp] theorem modOp_calSrc (i : Nat) (f : Op → Op) : (modOp s i f).calSrc = s.calSrc := rfl
@[simp] theorem modOp_calLocked (i : Nat) (f : Op → Op) : (modOp s i f).calLocked = s.calLocked := rfl
@[simp] theorem modOp_calRate (i : Nat) (f : Op → Op) : (modOp s i f).calRate = s.calRate := rfl
@[simp] theorem modOp_calOffset (i : Nat) (f : Op → Op) : (modOp s i f).calOffset = s.calOffset := rfl
@[simp] theorem modOp_calGood (i : Nat) (f : Op → Op) : (modOp s i f).calGood = s.calGood := rfl
@[simp] theorem modOp_launches (i : Nat) (f : Op → Op) : (modOp s i f).launches = s.launches := rfl
@[simp] theorem modOp_gangs (i : Nat) (f : Op → Op) : (modOp s i f).gangs = s.gangs := rfl
@[simp] theorem modOp_waves (i : Nat) (f : Op → Op) : (modOp s i f).waves = s.waves := rfl
@[simp] theorem modOp_ops (i : Nat) (f : Op → Op) : (modOp s i f).ops = upd s.ops i f := rfl
@[simp] theorem modOp_dram (i : Nat) (f : Op → Op) : (modOp s i f).dram = s.dram := rfl
@[simp] theorem modOp_cells (i : Nat) (f : Op → Op) : (modOp s i f).cells = s.cells := rfl
@[simp] theorem modOp_poison (i : Nat) (f : Op → Op) : (modOp s i f).poison = s.poison := rfl
@[simp] theorem modOp_latent (i : Nat) (f : Op → Op) : (modOp s i f).latent = s.latent := rfl
@[simp] theorem modOp_l2 (i : Nat) (f : Op → Op) : (modOp s i f).l2 = s.l2 := rfl
@[simp] theorem modOp_logical (i : Nat) (f : Op → Op) : (modOp s i f).logical = s.logical := rfl
@[simp] theorem modOp_lines (i : Nat) (f : Op → Op) : (modOp s i f).lines = s.lines := rfl
@[simp] theorem modOp_l1 (i : Nat) (f : Op → Op) : (modOp s i f).l1 = s.l1 := rfl
@[simp] theorem modOp_tlb (i : Nat) (f : Op → Op) : (modOp s i f).tlb = s.tlb := rfl
@[simp] theorem modOp_atc (i : Nat) (f : Op → Op) : (modOp s i f).atc = s.atc := rfl
@[simp] theorem modOp_hostLines (i : Nat) (f : Op → Op) : (modOp s i f).hostLines = s.hostLines := rfl
@[simp] theorem modOp_hostAsks (i : Nat) (f : Op → Op) : (modOp s i f).hostAsks = s.hostAsks := rfl
@[simp] theorem modOp_atsWaits (i : Nat) (f : Op → Op) : (modOp s i f).atsWaits = s.atsWaits := rfl
@[simp] theorem modOp_monitors (i : Nat) (f : Op → Op) : (modOp s i f).monitors = s.monitors := rfl
@[simp] theorem modOp_maps (i : Nat) (f : Op → Op) : (modOp s i f).maps = s.maps := rfl
@[simp] theorem modOp_filters (i : Nat) (f : Op → Op) : (modOp s i f).filters = s.filters := rfl
@[simp] theorem modOp_qmEnable (i : Nat) (f : Op → Op) : (modOp s i f).qmEnable = s.qmEnable := rfl
@[simp] theorem modOp_haltAll (i : Nat) (f : Op → Op) : (modOp s i f).haltAll = s.haltAll := rfl
@[simp] theorem modOp_qtBase (i : Nat) (f : Op → Op) : (modOp s i f).qtBase = s.qtBase := rfl
@[simp] theorem modOp_qcmd (i : Nat) (f : Op → Op) : (modOp s i f).qcmd = s.qcmd := rfl
@[simp] theorem modOp_qmIntStat (i : Nat) (f : Op → Op) : (modOp s i f).qmIntStat = s.qmIntStat := rfl
@[simp] theorem modOp_qmIntEn (i : Nat) (f : Op → Op) : (modOp s i f).qmIntEn = s.qmIntEn := rfl
@[simp] theorem modOp_queues (i : Nat) (f : Op → Op) : (modOp s i f).queues = s.queues := rfl
@[simp] theorem modOp_turnQueue (i : Nat) (f : Op → Op) : (modOp s i f).turnQueue = s.turnQueue := rfl
@[simp] theorem modOp_turnUsed (i : Nat) (f : Op → Op) : (modOp s i f).turnUsed = s.turnUsed := rfl
@[simp] theorem modOp_making (i : Nat) (f : Op → Op) : (modOp s i f).making = s.making := rfl
@[simp] theorem modOp_cxBase (i : Nat) (f : Op → Op) : (modOp s i f).cxBase = s.cxBase := rfl
@[simp] theorem modOp_cxTag (i : Nat) (f : Op → Op) : (modOp s i f).cxTag = s.cxTag := rfl
@[simp] theorem modOp_cxOp (i : Nat) (f : Op → Op) : (modOp s i f).cxOp = s.cxOp := rfl
@[simp] theorem modOp_cxResult (i : Nat) (f : Op → Op) : (modOp s i f).cxResult = s.cxResult := rfl
@[simp] theorem modOp_cxArg0 (i : Nat) (f : Op → Op) : (modOp s i f).cxArg0 = s.cxArg0 := rfl
@[simp] theorem modOp_cxArg1 (i : Nat) (f : Op → Op) : (modOp s i f).cxArg1 = s.cxArg1 := rfl
@[simp] theorem modOp_trOp (i : Nat) (f : Op → Op) : (modOp s i f).trOp = s.trOp := rfl
@[simp] theorem modOp_trWb (i : Nat) (f : Op → Op) : (modOp s i f).trWb = s.trWb := rfl
@[simp] theorem modOp_trDiscard (i : Nat) (f : Op → Op) : (modOp s i f).trDiscard = s.trDiscard := rfl
@[simp] theorem modOp_trResult (i : Nat) (f : Op → Op) : (modOp s i f).trResult = s.trResult := rfl
@[simp] theorem modOp_trArg0 (i : Nat) (f : Op → Op) : (modOp s i f).trArg0 = s.trArg0 := rfl
@[simp] theorem modOp_trArg1 (i : Nat) (f : Op → Op) : (modOp s i f).trArg1 = s.trArg1 := rfl
@[simp] theorem modOp_ptFrame (i : Nat) (f : Op → Op) : (modOp s i f).ptFrame = s.ptFrame := rfl
@[simp] theorem modOp_ptLen (i : Nat) (f : Op → Op) : (modOp s i f).ptLen = s.ptLen := rfl
@[simp] theorem modOp_migFrame (i : Nat) (f : Op → Op) : (modOp s i f).migFrame = s.migFrame := rfl
@[simp] theorem modOp_migCount (i : Nat) (f : Op → Op) : (modOp s i f).migCount = s.migCount := rfl
@[simp] theorem modOp_contexts (i : Nat) (f : Op → Op) : (modOp s i f).contexts = s.contexts := rfl
@[simp] theorem modOp_fbBase (i : Nat) (f : Op → Op) : (modOp s i f).fbBase = s.fbBase := rfl
@[simp] theorem modOp_fbSize (i : Nat) (f : Op → Op) : (modOp s i f).fbSize = s.fbSize := rfl
@[simp] theorem modOp_fbEnable (i : Nat) (f : Op → Op) : (modOp s i f).fbEnable = s.fbEnable := rfl
@[simp] theorem modOp_fbWr (i : Nat) (f : Op → Op) : (modOp s i f).fbWr = s.fbWr := rfl
@[simp] theorem modOp_fbRd (i : Nat) (f : Op → Op) : (modOp s i f).fbRd = s.fbRd := rfl
@[simp] theorem modOp_fbOvf (i : Nat) (f : Op → Op) : (modOp s i f).fbOvf = s.fbOvf := rfl
@[simp] theorem modOp_fbStop (i : Nat) (f : Op → Op) : (modOp s i f).fbStop = s.fbStop := rfl
@[simp] theorem modOp_fxIntStat (i : Nat) (f : Op → Op) : (modOp s i f).fxIntStat = s.fxIntStat := rfl
@[simp] theorem modOp_fxIntEn (i : Nat) (f : Op → Op) : (modOp s i f).fxIntEn = s.fxIntEn := rfl
@[simp] theorem modOp_held (i : Nat) (f : Op → Op) : (modOp s i f).held = s.held := rfl
@[simp] theorem modOp_tokens (i : Nat) (f : Op → Op) : (modOp s i f).tokens = s.tokens := rfl
@[simp] theorem modOp_nextToken (i : Nat) (f : Op → Op) : (modOp s i f).nextToken = s.nextToken := rfl
@[simp] theorem modOp_linkUp (i : Nat) (f : Op → Op) : (modOp s i f).linkUp = s.linkUp := rfl
@[simp] theorem modOp_phyBase (i : Nat) (f : Op → Op) : (modOp s i f).phyBase = s.phyBase := rfl
@[simp] theorem modOp_vectors (i : Nat) (f : Op → Op) : (modOp s i f).vectors = s.vectors := rfl
@[simp] theorem modOp_devId (i : Nat) (f : Op → Op) : (modOp s i f).devId = s.devId := rfl
@[simp] theorem modOp_fabEnable (i : Nat) (f : Op → Op) : (modOp s i f).fabEnable = s.fabEnable := rfl
@[simp] theorem modOp_safe (i : Nat) (f : Op → Op) : (modOp s i f).safe = s.safe := rfl
@[simp] theorem modOp_domain (i : Nat) (f : Op → Op) : (modOp s i f).domain = s.domain := rfl
@[simp] theorem modOp_ports (i : Nat) (f : Op → Op) : (modOp s i f).ports = s.ports := rfl
@[simp] theorem modOp_routes (i : Nat) (f : Op → Op) : (modOp s i f).routes = s.routes := rfl
@[simp] theorem modOp_reach (i : Nat) (f : Op → Op) : (modOp s i f).reach = s.reach := rfl
@[simp] theorem modOp_safeCount (i : Nat) (f : Op → Op) : (modOp s i f).safeCount = s.safeCount := rfl
@[simp] theorem modOp_credits (i : Nat) (f : Op → Op) : (modOp s i f).credits = s.credits := rfl
@[simp] theorem modOp_requests (i : Nat) (f : Op → Op) : (modOp s i f).requests = s.requests := rfl
@[simp] theorem modOp_unsent (i : Nat) (f : Op → Op) : (modOp s i f).unsent = s.unsent := rfl
@[simp] theorem modOp_far (i : Nat) (f : Op → Op) : (modOp s i f).far = s.far := rfl
@[simp] theorem modOp_barred (i : Nat) (f : Op → Op) : (modOp s i f).barred = s.barred := rfl
@[simp] theorem modOp_keptBack (i : Nat) (f : Op → Op) : (modOp s i f).keptBack = s.keptBack := rfl
@[simp] theorem modOp_inbound (i : Nat) (f : Op → Op) : (modOp s i f).inbound = s.inbound := rfl
@[simp] theorem modOp_probes (i : Nat) (f : Op → Op) : (modOp s i f).probes = s.probes := rfl
@[simp] theorem modOp_colBase (i : Nat) (f : Op → Op) : (modOp s i f).colBase = s.colBase := rfl
@[simp] theorem modOp_colCount (i : Nat) (f : Op → Op) : (modOp s i f).colCount = s.colCount := rfl
@[simp] theorem modOp_collGroups (i : Nat) (f : Op → Op) : (modOp s i f).collGroups = s.collGroups := rfl
@[simp] theorem modOp_collIssues (i : Nat) (f : Op → Op) : (modOp s i f).collIssues = s.collIssues := rfl
@[simp] theorem modOp_mgc (i : Nat) (f : Op → Op) : (modOp s i f).mgc = s.mgc := rfl
@[simp] theorem modOp_correctedErrors (i : Nat) (f : Op → Op) : (modOp s i f).correctedErrors = s.correctedErrors := rfl
@[simp] theorem modOp_pwren (i : Nat) (f : Op → Op) : (modOp s i f).pwren = s.pwren := rfl
@[simp] theorem modOp_pgood (i : Nat) (f : Op → Op) : (modOp s i f).pgood = s.pgood := rfl
@[simp] theorem modOp_mrstN (i : Nat) (f : Op → Op) : (modOp s i f).mrstN = s.mrstN := rfl
@[simp] theorem modOp_power (i : Nat) (f : Op → Op) : (modOp s i f).power = s.power := rfl
@[simp] theorem modOp_live (i : Nat) (f : Op → Op) : (modOp s i f).live = s.live := rfl

/-! ## `modPort` -/

@[simp] theorem modPort_agenda (p : Nat) (f : Port → Port) : (modPort s p f).agenda = s.agenda := rfl
@[simp] theorem modPort_planned (p : Nat) (f : Port → Port) : (modPort s p f).planned = s.planned := rfl
@[simp] theorem modPort_issue (p : Nat) (f : Port → Port) : (modPort s p f).issue = s.issue := rfl
@[simp] theorem modPort_fresh (p : Nat) (f : Port → Port) : (modPort s p f).fresh = s.fresh := rfl
@[simp] theorem modPort_nextUid (p : Nat) (f : Port → Port) : (modPort s p f).nextUid = s.nextUid := rfl
@[simp] theorem modPort_outbox (p : Nat) (f : Port → Port) : (modPort s p f).outbox = s.outbox := rfl
@[simp] theorem modPort_waiting (p : Nat) (f : Port → Port) : (modPort s p f).waiting = s.waiting := rfl
@[simp] theorem modPort_deviceAnswers (p : Nat) (f : Port → Port) : (modPort s p f).deviceAnswers = s.deviceAnswers := rfl
@[simp] theorem modPort_reading (p : Nat) (f : Port → Port) : (modPort s p f).reading = s.reading := rfl
@[simp] theorem modPort_posting (p : Nat) (f : Port → Port) : (modPort s p f).posting = s.posting := rfl
@[simp] theorem modPort_notes (p : Nat) (f : Port → Port) : (modPort s p f).notes = s.notes := rfl
@[simp] theorem modPort_tablesDirty (p : Nat) (f : Port → Port) : (modPort s p f).tablesDirty = s.tablesDirty := rfl
@[simp] theorem modPort_clk (p : Nat) (f : Port → Port) : (modPort s p f).clk = s.clk := rfl
@[simp] theorem modPort_calends (p : Nat) (f : Port → Port) : (modPort s p f).calends = s.calends := rfl
@[simp] theorem modPort_calFrac (p : Nat) (f : Port → Port) : (modPort s p f).calFrac = s.calFrac := rfl
@[simp] theorem modPort_calSrc (p : Nat) (f : Port → Port) : (modPort s p f).calSrc = s.calSrc := rfl
@[simp] theorem modPort_calLocked (p : Nat) (f : Port → Port) : (modPort s p f).calLocked = s.calLocked := rfl
@[simp] theorem modPort_calRate (p : Nat) (f : Port → Port) : (modPort s p f).calRate = s.calRate := rfl
@[simp] theorem modPort_calOffset (p : Nat) (f : Port → Port) : (modPort s p f).calOffset = s.calOffset := rfl
@[simp] theorem modPort_calGood (p : Nat) (f : Port → Port) : (modPort s p f).calGood = s.calGood := rfl
@[simp] theorem modPort_launches (p : Nat) (f : Port → Port) : (modPort s p f).launches = s.launches := rfl
@[simp] theorem modPort_gangs (p : Nat) (f : Port → Port) : (modPort s p f).gangs = s.gangs := rfl
@[simp] theorem modPort_waves (p : Nat) (f : Port → Port) : (modPort s p f).waves = s.waves := rfl
@[simp] theorem modPort_ops (p : Nat) (f : Port → Port) : (modPort s p f).ops = s.ops := rfl
@[simp] theorem modPort_dram (p : Nat) (f : Port → Port) : (modPort s p f).dram = s.dram := rfl
@[simp] theorem modPort_cells (p : Nat) (f : Port → Port) : (modPort s p f).cells = s.cells := rfl
@[simp] theorem modPort_poison (p : Nat) (f : Port → Port) : (modPort s p f).poison = s.poison := rfl
@[simp] theorem modPort_latent (p : Nat) (f : Port → Port) : (modPort s p f).latent = s.latent := rfl
@[simp] theorem modPort_l2 (p : Nat) (f : Port → Port) : (modPort s p f).l2 = s.l2 := rfl
@[simp] theorem modPort_logical (p : Nat) (f : Port → Port) : (modPort s p f).logical = s.logical := rfl
@[simp] theorem modPort_lines (p : Nat) (f : Port → Port) : (modPort s p f).lines = s.lines := rfl
@[simp] theorem modPort_l1 (p : Nat) (f : Port → Port) : (modPort s p f).l1 = s.l1 := rfl
@[simp] theorem modPort_tlb (p : Nat) (f : Port → Port) : (modPort s p f).tlb = s.tlb := rfl
@[simp] theorem modPort_atc (p : Nat) (f : Port → Port) : (modPort s p f).atc = s.atc := rfl
@[simp] theorem modPort_hostLines (p : Nat) (f : Port → Port) : (modPort s p f).hostLines = s.hostLines := rfl
@[simp] theorem modPort_hostAsks (p : Nat) (f : Port → Port) : (modPort s p f).hostAsks = s.hostAsks := rfl
@[simp] theorem modPort_atsWaits (p : Nat) (f : Port → Port) : (modPort s p f).atsWaits = s.atsWaits := rfl
@[simp] theorem modPort_monitors (p : Nat) (f : Port → Port) : (modPort s p f).monitors = s.monitors := rfl
@[simp] theorem modPort_maps (p : Nat) (f : Port → Port) : (modPort s p f).maps = s.maps := rfl
@[simp] theorem modPort_filters (p : Nat) (f : Port → Port) : (modPort s p f).filters = s.filters := rfl
@[simp] theorem modPort_qmEnable (p : Nat) (f : Port → Port) : (modPort s p f).qmEnable = s.qmEnable := rfl
@[simp] theorem modPort_haltAll (p : Nat) (f : Port → Port) : (modPort s p f).haltAll = s.haltAll := rfl
@[simp] theorem modPort_qtBase (p : Nat) (f : Port → Port) : (modPort s p f).qtBase = s.qtBase := rfl
@[simp] theorem modPort_qcmd (p : Nat) (f : Port → Port) : (modPort s p f).qcmd = s.qcmd := rfl
@[simp] theorem modPort_qmIntStat (p : Nat) (f : Port → Port) : (modPort s p f).qmIntStat = s.qmIntStat := rfl
@[simp] theorem modPort_qmIntEn (p : Nat) (f : Port → Port) : (modPort s p f).qmIntEn = s.qmIntEn := rfl
@[simp] theorem modPort_queues (p : Nat) (f : Port → Port) : (modPort s p f).queues = s.queues := rfl
@[simp] theorem modPort_turnQueue (p : Nat) (f : Port → Port) : (modPort s p f).turnQueue = s.turnQueue := rfl
@[simp] theorem modPort_turnUsed (p : Nat) (f : Port → Port) : (modPort s p f).turnUsed = s.turnUsed := rfl
@[simp] theorem modPort_making (p : Nat) (f : Port → Port) : (modPort s p f).making = s.making := rfl
@[simp] theorem modPort_cxBase (p : Nat) (f : Port → Port) : (modPort s p f).cxBase = s.cxBase := rfl
@[simp] theorem modPort_cxTag (p : Nat) (f : Port → Port) : (modPort s p f).cxTag = s.cxTag := rfl
@[simp] theorem modPort_cxOp (p : Nat) (f : Port → Port) : (modPort s p f).cxOp = s.cxOp := rfl
@[simp] theorem modPort_cxResult (p : Nat) (f : Port → Port) : (modPort s p f).cxResult = s.cxResult := rfl
@[simp] theorem modPort_cxArg0 (p : Nat) (f : Port → Port) : (modPort s p f).cxArg0 = s.cxArg0 := rfl
@[simp] theorem modPort_cxArg1 (p : Nat) (f : Port → Port) : (modPort s p f).cxArg1 = s.cxArg1 := rfl
@[simp] theorem modPort_trOp (p : Nat) (f : Port → Port) : (modPort s p f).trOp = s.trOp := rfl
@[simp] theorem modPort_trWb (p : Nat) (f : Port → Port) : (modPort s p f).trWb = s.trWb := rfl
@[simp] theorem modPort_trDiscard (p : Nat) (f : Port → Port) : (modPort s p f).trDiscard = s.trDiscard := rfl
@[simp] theorem modPort_trResult (p : Nat) (f : Port → Port) : (modPort s p f).trResult = s.trResult := rfl
@[simp] theorem modPort_trArg0 (p : Nat) (f : Port → Port) : (modPort s p f).trArg0 = s.trArg0 := rfl
@[simp] theorem modPort_trArg1 (p : Nat) (f : Port → Port) : (modPort s p f).trArg1 = s.trArg1 := rfl
@[simp] theorem modPort_ptFrame (p : Nat) (f : Port → Port) : (modPort s p f).ptFrame = s.ptFrame := rfl
@[simp] theorem modPort_ptLen (p : Nat) (f : Port → Port) : (modPort s p f).ptLen = s.ptLen := rfl
@[simp] theorem modPort_migFrame (p : Nat) (f : Port → Port) : (modPort s p f).migFrame = s.migFrame := rfl
@[simp] theorem modPort_migCount (p : Nat) (f : Port → Port) : (modPort s p f).migCount = s.migCount := rfl
@[simp] theorem modPort_contexts (p : Nat) (f : Port → Port) : (modPort s p f).contexts = s.contexts := rfl
@[simp] theorem modPort_fbBase (p : Nat) (f : Port → Port) : (modPort s p f).fbBase = s.fbBase := rfl
@[simp] theorem modPort_fbSize (p : Nat) (f : Port → Port) : (modPort s p f).fbSize = s.fbSize := rfl
@[simp] theorem modPort_fbEnable (p : Nat) (f : Port → Port) : (modPort s p f).fbEnable = s.fbEnable := rfl
@[simp] theorem modPort_fbWr (p : Nat) (f : Port → Port) : (modPort s p f).fbWr = s.fbWr := rfl
@[simp] theorem modPort_fbRd (p : Nat) (f : Port → Port) : (modPort s p f).fbRd = s.fbRd := rfl
@[simp] theorem modPort_fbOvf (p : Nat) (f : Port → Port) : (modPort s p f).fbOvf = s.fbOvf := rfl
@[simp] theorem modPort_fbStop (p : Nat) (f : Port → Port) : (modPort s p f).fbStop = s.fbStop := rfl
@[simp] theorem modPort_fxIntStat (p : Nat) (f : Port → Port) : (modPort s p f).fxIntStat = s.fxIntStat := rfl
@[simp] theorem modPort_fxIntEn (p : Nat) (f : Port → Port) : (modPort s p f).fxIntEn = s.fxIntEn := rfl
@[simp] theorem modPort_held (p : Nat) (f : Port → Port) : (modPort s p f).held = s.held := rfl
@[simp] theorem modPort_tokens (p : Nat) (f : Port → Port) : (modPort s p f).tokens = s.tokens := rfl
@[simp] theorem modPort_nextToken (p : Nat) (f : Port → Port) : (modPort s p f).nextToken = s.nextToken := rfl
@[simp] theorem modPort_linkUp (p : Nat) (f : Port → Port) : (modPort s p f).linkUp = s.linkUp := rfl
@[simp] theorem modPort_phyBase (p : Nat) (f : Port → Port) : (modPort s p f).phyBase = s.phyBase := rfl
@[simp] theorem modPort_vectors (p : Nat) (f : Port → Port) : (modPort s p f).vectors = s.vectors := rfl
@[simp] theorem modPort_devId (p : Nat) (f : Port → Port) : (modPort s p f).devId = s.devId := rfl
@[simp] theorem modPort_fabEnable (p : Nat) (f : Port → Port) : (modPort s p f).fabEnable = s.fabEnable := rfl
@[simp] theorem modPort_safe (p : Nat) (f : Port → Port) : (modPort s p f).safe = s.safe := rfl
@[simp] theorem modPort_domain (p : Nat) (f : Port → Port) : (modPort s p f).domain = s.domain := rfl
@[simp] theorem modPort_ports (p : Nat) (f : Port → Port) : (modPort s p f).ports = modAt s.ports p f := rfl
@[simp] theorem modPort_routes (p : Nat) (f : Port → Port) : (modPort s p f).routes = s.routes := rfl
@[simp] theorem modPort_reach (p : Nat) (f : Port → Port) : (modPort s p f).reach = s.reach := rfl
@[simp] theorem modPort_safeCount (p : Nat) (f : Port → Port) : (modPort s p f).safeCount = s.safeCount := rfl
@[simp] theorem modPort_credits (p : Nat) (f : Port → Port) : (modPort s p f).credits = s.credits := rfl
@[simp] theorem modPort_requests (p : Nat) (f : Port → Port) : (modPort s p f).requests = s.requests := rfl
@[simp] theorem modPort_unsent (p : Nat) (f : Port → Port) : (modPort s p f).unsent = s.unsent := rfl
@[simp] theorem modPort_far (p : Nat) (f : Port → Port) : (modPort s p f).far = s.far := rfl
@[simp] theorem modPort_barred (p : Nat) (f : Port → Port) : (modPort s p f).barred = s.barred := rfl
@[simp] theorem modPort_keptBack (p : Nat) (f : Port → Port) : (modPort s p f).keptBack = s.keptBack := rfl
@[simp] theorem modPort_inbound (p : Nat) (f : Port → Port) : (modPort s p f).inbound = s.inbound := rfl
@[simp] theorem modPort_probes (p : Nat) (f : Port → Port) : (modPort s p f).probes = s.probes := rfl
@[simp] theorem modPort_colBase (p : Nat) (f : Port → Port) : (modPort s p f).colBase = s.colBase := rfl
@[simp] theorem modPort_colCount (p : Nat) (f : Port → Port) : (modPort s p f).colCount = s.colCount := rfl
@[simp] theorem modPort_collGroups (p : Nat) (f : Port → Port) : (modPort s p f).collGroups = s.collGroups := rfl
@[simp] theorem modPort_collIssues (p : Nat) (f : Port → Port) : (modPort s p f).collIssues = s.collIssues := rfl
@[simp] theorem modPort_mgc (p : Nat) (f : Port → Port) : (modPort s p f).mgc = s.mgc := rfl
@[simp] theorem modPort_correctedErrors (p : Nat) (f : Port → Port) : (modPort s p f).correctedErrors = s.correctedErrors := rfl
@[simp] theorem modPort_pwren (p : Nat) (f : Port → Port) : (modPort s p f).pwren = s.pwren := rfl
@[simp] theorem modPort_pgood (p : Nat) (f : Port → Port) : (modPort s p f).pgood = s.pgood := rfl
@[simp] theorem modPort_mrstN (p : Nat) (f : Port → Port) : (modPort s p f).mrstN = s.mrstN := rfl
@[simp] theorem modPort_power (p : Nat) (f : Port → Port) : (modPort s p f).power = s.power := rfl
@[simp] theorem modPort_live (p : Nat) (f : Port → Port) : (modPort s p f).live = s.live := rfl

/-! ## `modMgc` -/

@[simp] theorem modMgc_agenda (f : Mgc → Mgc) : (modMgc s f).agenda = s.agenda := rfl
@[simp] theorem modMgc_planned (f : Mgc → Mgc) : (modMgc s f).planned = s.planned := rfl
@[simp] theorem modMgc_issue (f : Mgc → Mgc) : (modMgc s f).issue = s.issue := rfl
@[simp] theorem modMgc_fresh (f : Mgc → Mgc) : (modMgc s f).fresh = s.fresh := rfl
@[simp] theorem modMgc_nextUid (f : Mgc → Mgc) : (modMgc s f).nextUid = s.nextUid := rfl
@[simp] theorem modMgc_outbox (f : Mgc → Mgc) : (modMgc s f).outbox = s.outbox := rfl
@[simp] theorem modMgc_waiting (f : Mgc → Mgc) : (modMgc s f).waiting = s.waiting := rfl
@[simp] theorem modMgc_deviceAnswers (f : Mgc → Mgc) : (modMgc s f).deviceAnswers = s.deviceAnswers := rfl
@[simp] theorem modMgc_reading (f : Mgc → Mgc) : (modMgc s f).reading = s.reading := rfl
@[simp] theorem modMgc_posting (f : Mgc → Mgc) : (modMgc s f).posting = s.posting := rfl
@[simp] theorem modMgc_notes (f : Mgc → Mgc) : (modMgc s f).notes = s.notes := rfl
@[simp] theorem modMgc_tablesDirty (f : Mgc → Mgc) : (modMgc s f).tablesDirty = s.tablesDirty := rfl
@[simp] theorem modMgc_clk (f : Mgc → Mgc) : (modMgc s f).clk = s.clk := rfl
@[simp] theorem modMgc_calends (f : Mgc → Mgc) : (modMgc s f).calends = s.calends := rfl
@[simp] theorem modMgc_calFrac (f : Mgc → Mgc) : (modMgc s f).calFrac = s.calFrac := rfl
@[simp] theorem modMgc_calSrc (f : Mgc → Mgc) : (modMgc s f).calSrc = s.calSrc := rfl
@[simp] theorem modMgc_calLocked (f : Mgc → Mgc) : (modMgc s f).calLocked = s.calLocked := rfl
@[simp] theorem modMgc_calRate (f : Mgc → Mgc) : (modMgc s f).calRate = s.calRate := rfl
@[simp] theorem modMgc_calOffset (f : Mgc → Mgc) : (modMgc s f).calOffset = s.calOffset := rfl
@[simp] theorem modMgc_calGood (f : Mgc → Mgc) : (modMgc s f).calGood = s.calGood := rfl
@[simp] theorem modMgc_launches (f : Mgc → Mgc) : (modMgc s f).launches = s.launches := rfl
@[simp] theorem modMgc_gangs (f : Mgc → Mgc) : (modMgc s f).gangs = s.gangs := rfl
@[simp] theorem modMgc_waves (f : Mgc → Mgc) : (modMgc s f).waves = s.waves := rfl
@[simp] theorem modMgc_ops (f : Mgc → Mgc) : (modMgc s f).ops = s.ops := rfl
@[simp] theorem modMgc_dram (f : Mgc → Mgc) : (modMgc s f).dram = s.dram := rfl
@[simp] theorem modMgc_cells (f : Mgc → Mgc) : (modMgc s f).cells = s.cells := rfl
@[simp] theorem modMgc_poison (f : Mgc → Mgc) : (modMgc s f).poison = s.poison := rfl
@[simp] theorem modMgc_latent (f : Mgc → Mgc) : (modMgc s f).latent = s.latent := rfl
@[simp] theorem modMgc_l2 (f : Mgc → Mgc) : (modMgc s f).l2 = s.l2 := rfl
@[simp] theorem modMgc_logical (f : Mgc → Mgc) : (modMgc s f).logical = s.logical := rfl
@[simp] theorem modMgc_lines (f : Mgc → Mgc) : (modMgc s f).lines = s.lines := rfl
@[simp] theorem modMgc_l1 (f : Mgc → Mgc) : (modMgc s f).l1 = s.l1 := rfl
@[simp] theorem modMgc_tlb (f : Mgc → Mgc) : (modMgc s f).tlb = s.tlb := rfl
@[simp] theorem modMgc_atc (f : Mgc → Mgc) : (modMgc s f).atc = s.atc := rfl
@[simp] theorem modMgc_hostLines (f : Mgc → Mgc) : (modMgc s f).hostLines = s.hostLines := rfl
@[simp] theorem modMgc_hostAsks (f : Mgc → Mgc) : (modMgc s f).hostAsks = s.hostAsks := rfl
@[simp] theorem modMgc_atsWaits (f : Mgc → Mgc) : (modMgc s f).atsWaits = s.atsWaits := rfl
@[simp] theorem modMgc_monitors (f : Mgc → Mgc) : (modMgc s f).monitors = s.monitors := rfl
@[simp] theorem modMgc_maps (f : Mgc → Mgc) : (modMgc s f).maps = s.maps := rfl
@[simp] theorem modMgc_filters (f : Mgc → Mgc) : (modMgc s f).filters = s.filters := rfl
@[simp] theorem modMgc_qmEnable (f : Mgc → Mgc) : (modMgc s f).qmEnable = s.qmEnable := rfl
@[simp] theorem modMgc_haltAll (f : Mgc → Mgc) : (modMgc s f).haltAll = s.haltAll := rfl
@[simp] theorem modMgc_qtBase (f : Mgc → Mgc) : (modMgc s f).qtBase = s.qtBase := rfl
@[simp] theorem modMgc_qcmd (f : Mgc → Mgc) : (modMgc s f).qcmd = s.qcmd := rfl
@[simp] theorem modMgc_qmIntStat (f : Mgc → Mgc) : (modMgc s f).qmIntStat = s.qmIntStat := rfl
@[simp] theorem modMgc_qmIntEn (f : Mgc → Mgc) : (modMgc s f).qmIntEn = s.qmIntEn := rfl
@[simp] theorem modMgc_queues (f : Mgc → Mgc) : (modMgc s f).queues = s.queues := rfl
@[simp] theorem modMgc_turnQueue (f : Mgc → Mgc) : (modMgc s f).turnQueue = s.turnQueue := rfl
@[simp] theorem modMgc_turnUsed (f : Mgc → Mgc) : (modMgc s f).turnUsed = s.turnUsed := rfl
@[simp] theorem modMgc_making (f : Mgc → Mgc) : (modMgc s f).making = s.making := rfl
@[simp] theorem modMgc_cxBase (f : Mgc → Mgc) : (modMgc s f).cxBase = s.cxBase := rfl
@[simp] theorem modMgc_cxTag (f : Mgc → Mgc) : (modMgc s f).cxTag = s.cxTag := rfl
@[simp] theorem modMgc_cxOp (f : Mgc → Mgc) : (modMgc s f).cxOp = s.cxOp := rfl
@[simp] theorem modMgc_cxResult (f : Mgc → Mgc) : (modMgc s f).cxResult = s.cxResult := rfl
@[simp] theorem modMgc_cxArg0 (f : Mgc → Mgc) : (modMgc s f).cxArg0 = s.cxArg0 := rfl
@[simp] theorem modMgc_cxArg1 (f : Mgc → Mgc) : (modMgc s f).cxArg1 = s.cxArg1 := rfl
@[simp] theorem modMgc_trOp (f : Mgc → Mgc) : (modMgc s f).trOp = s.trOp := rfl
@[simp] theorem modMgc_trWb (f : Mgc → Mgc) : (modMgc s f).trWb = s.trWb := rfl
@[simp] theorem modMgc_trDiscard (f : Mgc → Mgc) : (modMgc s f).trDiscard = s.trDiscard := rfl
@[simp] theorem modMgc_trResult (f : Mgc → Mgc) : (modMgc s f).trResult = s.trResult := rfl
@[simp] theorem modMgc_trArg0 (f : Mgc → Mgc) : (modMgc s f).trArg0 = s.trArg0 := rfl
@[simp] theorem modMgc_trArg1 (f : Mgc → Mgc) : (modMgc s f).trArg1 = s.trArg1 := rfl
@[simp] theorem modMgc_ptFrame (f : Mgc → Mgc) : (modMgc s f).ptFrame = s.ptFrame := rfl
@[simp] theorem modMgc_ptLen (f : Mgc → Mgc) : (modMgc s f).ptLen = s.ptLen := rfl
@[simp] theorem modMgc_migFrame (f : Mgc → Mgc) : (modMgc s f).migFrame = s.migFrame := rfl
@[simp] theorem modMgc_migCount (f : Mgc → Mgc) : (modMgc s f).migCount = s.migCount := rfl
@[simp] theorem modMgc_contexts (f : Mgc → Mgc) : (modMgc s f).contexts = s.contexts := rfl
@[simp] theorem modMgc_fbBase (f : Mgc → Mgc) : (modMgc s f).fbBase = s.fbBase := rfl
@[simp] theorem modMgc_fbSize (f : Mgc → Mgc) : (modMgc s f).fbSize = s.fbSize := rfl
@[simp] theorem modMgc_fbEnable (f : Mgc → Mgc) : (modMgc s f).fbEnable = s.fbEnable := rfl
@[simp] theorem modMgc_fbWr (f : Mgc → Mgc) : (modMgc s f).fbWr = s.fbWr := rfl
@[simp] theorem modMgc_fbRd (f : Mgc → Mgc) : (modMgc s f).fbRd = s.fbRd := rfl
@[simp] theorem modMgc_fbOvf (f : Mgc → Mgc) : (modMgc s f).fbOvf = s.fbOvf := rfl
@[simp] theorem modMgc_fbStop (f : Mgc → Mgc) : (modMgc s f).fbStop = s.fbStop := rfl
@[simp] theorem modMgc_fxIntStat (f : Mgc → Mgc) : (modMgc s f).fxIntStat = s.fxIntStat := rfl
@[simp] theorem modMgc_fxIntEn (f : Mgc → Mgc) : (modMgc s f).fxIntEn = s.fxIntEn := rfl
@[simp] theorem modMgc_held (f : Mgc → Mgc) : (modMgc s f).held = s.held := rfl
@[simp] theorem modMgc_tokens (f : Mgc → Mgc) : (modMgc s f).tokens = s.tokens := rfl
@[simp] theorem modMgc_nextToken (f : Mgc → Mgc) : (modMgc s f).nextToken = s.nextToken := rfl
@[simp] theorem modMgc_linkUp (f : Mgc → Mgc) : (modMgc s f).linkUp = s.linkUp := rfl
@[simp] theorem modMgc_phyBase (f : Mgc → Mgc) : (modMgc s f).phyBase = s.phyBase := rfl
@[simp] theorem modMgc_vectors (f : Mgc → Mgc) : (modMgc s f).vectors = s.vectors := rfl
@[simp] theorem modMgc_devId (f : Mgc → Mgc) : (modMgc s f).devId = s.devId := rfl
@[simp] theorem modMgc_fabEnable (f : Mgc → Mgc) : (modMgc s f).fabEnable = s.fabEnable := rfl
@[simp] theorem modMgc_safe (f : Mgc → Mgc) : (modMgc s f).safe = s.safe := rfl
@[simp] theorem modMgc_domain (f : Mgc → Mgc) : (modMgc s f).domain = s.domain := rfl
@[simp] theorem modMgc_ports (f : Mgc → Mgc) : (modMgc s f).ports = s.ports := rfl
@[simp] theorem modMgc_routes (f : Mgc → Mgc) : (modMgc s f).routes = s.routes := rfl
@[simp] theorem modMgc_reach (f : Mgc → Mgc) : (modMgc s f).reach = s.reach := rfl
@[simp] theorem modMgc_safeCount (f : Mgc → Mgc) : (modMgc s f).safeCount = s.safeCount := rfl
@[simp] theorem modMgc_credits (f : Mgc → Mgc) : (modMgc s f).credits = s.credits := rfl
@[simp] theorem modMgc_requests (f : Mgc → Mgc) : (modMgc s f).requests = s.requests := rfl
@[simp] theorem modMgc_unsent (f : Mgc → Mgc) : (modMgc s f).unsent = s.unsent := rfl
@[simp] theorem modMgc_far (f : Mgc → Mgc) : (modMgc s f).far = s.far := rfl
@[simp] theorem modMgc_barred (f : Mgc → Mgc) : (modMgc s f).barred = s.barred := rfl
@[simp] theorem modMgc_keptBack (f : Mgc → Mgc) : (modMgc s f).keptBack = s.keptBack := rfl
@[simp] theorem modMgc_inbound (f : Mgc → Mgc) : (modMgc s f).inbound = s.inbound := rfl
@[simp] theorem modMgc_probes (f : Mgc → Mgc) : (modMgc s f).probes = s.probes := rfl
@[simp] theorem modMgc_colBase (f : Mgc → Mgc) : (modMgc s f).colBase = s.colBase := rfl
@[simp] theorem modMgc_colCount (f : Mgc → Mgc) : (modMgc s f).colCount = s.colCount := rfl
@[simp] theorem modMgc_collGroups (f : Mgc → Mgc) : (modMgc s f).collGroups = s.collGroups := rfl
@[simp] theorem modMgc_collIssues (f : Mgc → Mgc) : (modMgc s f).collIssues = s.collIssues := rfl
@[simp] theorem modMgc_mgc (f : Mgc → Mgc) : (modMgc s f).mgc = f s.mgc := rfl
@[simp] theorem modMgc_correctedErrors (f : Mgc → Mgc) : (modMgc s f).correctedErrors = s.correctedErrors := rfl
@[simp] theorem modMgc_pwren (f : Mgc → Mgc) : (modMgc s f).pwren = s.pwren := rfl
@[simp] theorem modMgc_pgood (f : Mgc → Mgc) : (modMgc s f).pgood = s.pgood := rfl
@[simp] theorem modMgc_mrstN (f : Mgc → Mgc) : (modMgc s f).mrstN = s.mrstN := rfl
@[simp] theorem modMgc_power (f : Mgc → Mgc) : (modMgc s f).power = s.power := rfl
@[simp] theorem modMgc_live (f : Mgc → Mgc) : (modMgc s f).live = s.live := rfl

/-! ## `State.send` -/

@[simp] theorem State.send_agenda (m : Message) : (State.send s m).agenda = s.agenda := rfl
@[simp] theorem State.send_planned (m : Message) : (State.send s m).planned = s.planned := rfl
@[simp] theorem State.send_issue (m : Message) : (State.send s m).issue = s.issue := rfl
@[simp] theorem State.send_fresh (m : Message) : (State.send s m).fresh = s.fresh := rfl
@[simp] theorem State.send_nextUid (m : Message) : (State.send s m).nextUid = s.nextUid := rfl
@[simp] theorem State.send_outbox (m : Message) : (State.send s m).outbox = s.outbox ++ [m] := rfl
@[simp] theorem State.send_waiting (m : Message) : (State.send s m).waiting = s.waiting := rfl
@[simp] theorem State.send_deviceAnswers (m : Message) : (State.send s m).deviceAnswers = s.deviceAnswers := rfl
@[simp] theorem State.send_reading (m : Message) : (State.send s m).reading = s.reading := rfl
@[simp] theorem State.send_posting (m : Message) : (State.send s m).posting = s.posting := rfl
@[simp] theorem State.send_notes (m : Message) : (State.send s m).notes = s.notes := rfl
@[simp] theorem State.send_tablesDirty (m : Message) : (State.send s m).tablesDirty = s.tablesDirty := rfl
@[simp] theorem State.send_clk (m : Message) : (State.send s m).clk = s.clk := rfl
@[simp] theorem State.send_calends (m : Message) : (State.send s m).calends = s.calends := rfl
@[simp] theorem State.send_calFrac (m : Message) : (State.send s m).calFrac = s.calFrac := rfl
@[simp] theorem State.send_calSrc (m : Message) : (State.send s m).calSrc = s.calSrc := rfl
@[simp] theorem State.send_calLocked (m : Message) : (State.send s m).calLocked = s.calLocked := rfl
@[simp] theorem State.send_calRate (m : Message) : (State.send s m).calRate = s.calRate := rfl
@[simp] theorem State.send_calOffset (m : Message) : (State.send s m).calOffset = s.calOffset := rfl
@[simp] theorem State.send_calGood (m : Message) : (State.send s m).calGood = s.calGood := rfl
@[simp] theorem State.send_launches (m : Message) : (State.send s m).launches = s.launches := rfl
@[simp] theorem State.send_gangs (m : Message) : (State.send s m).gangs = s.gangs := rfl
@[simp] theorem State.send_waves (m : Message) : (State.send s m).waves = s.waves := rfl
@[simp] theorem State.send_ops (m : Message) : (State.send s m).ops = s.ops := rfl
@[simp] theorem State.send_dram (m : Message) : (State.send s m).dram = s.dram := rfl
@[simp] theorem State.send_cells (m : Message) : (State.send s m).cells = s.cells := rfl
@[simp] theorem State.send_poison (m : Message) : (State.send s m).poison = s.poison := rfl
@[simp] theorem State.send_latent (m : Message) : (State.send s m).latent = s.latent := rfl
@[simp] theorem State.send_l2 (m : Message) : (State.send s m).l2 = s.l2 := rfl
@[simp] theorem State.send_logical (m : Message) : (State.send s m).logical = s.logical := rfl
@[simp] theorem State.send_lines (m : Message) : (State.send s m).lines = s.lines := rfl
@[simp] theorem State.send_l1 (m : Message) : (State.send s m).l1 = s.l1 := rfl
@[simp] theorem State.send_tlb (m : Message) : (State.send s m).tlb = s.tlb := rfl
@[simp] theorem State.send_atc (m : Message) : (State.send s m).atc = s.atc := rfl
@[simp] theorem State.send_hostLines (m : Message) : (State.send s m).hostLines = s.hostLines := rfl
@[simp] theorem State.send_hostAsks (m : Message) : (State.send s m).hostAsks = s.hostAsks := rfl
@[simp] theorem State.send_atsWaits (m : Message) : (State.send s m).atsWaits = s.atsWaits := rfl
@[simp] theorem State.send_monitors (m : Message) : (State.send s m).monitors = s.monitors := rfl
@[simp] theorem State.send_maps (m : Message) : (State.send s m).maps = s.maps := rfl
@[simp] theorem State.send_filters (m : Message) : (State.send s m).filters = s.filters := rfl
@[simp] theorem State.send_qmEnable (m : Message) : (State.send s m).qmEnable = s.qmEnable := rfl
@[simp] theorem State.send_haltAll (m : Message) : (State.send s m).haltAll = s.haltAll := rfl
@[simp] theorem State.send_qtBase (m : Message) : (State.send s m).qtBase = s.qtBase := rfl
@[simp] theorem State.send_qcmd (m : Message) : (State.send s m).qcmd = s.qcmd := rfl
@[simp] theorem State.send_qmIntStat (m : Message) : (State.send s m).qmIntStat = s.qmIntStat := rfl
@[simp] theorem State.send_qmIntEn (m : Message) : (State.send s m).qmIntEn = s.qmIntEn := rfl
@[simp] theorem State.send_queues (m : Message) : (State.send s m).queues = s.queues := rfl
@[simp] theorem State.send_turnQueue (m : Message) : (State.send s m).turnQueue = s.turnQueue := rfl
@[simp] theorem State.send_turnUsed (m : Message) : (State.send s m).turnUsed = s.turnUsed := rfl
@[simp] theorem State.send_making (m : Message) : (State.send s m).making = s.making := rfl
@[simp] theorem State.send_cxBase (m : Message) : (State.send s m).cxBase = s.cxBase := rfl
@[simp] theorem State.send_cxTag (m : Message) : (State.send s m).cxTag = s.cxTag := rfl
@[simp] theorem State.send_cxOp (m : Message) : (State.send s m).cxOp = s.cxOp := rfl
@[simp] theorem State.send_cxResult (m : Message) : (State.send s m).cxResult = s.cxResult := rfl
@[simp] theorem State.send_cxArg0 (m : Message) : (State.send s m).cxArg0 = s.cxArg0 := rfl
@[simp] theorem State.send_cxArg1 (m : Message) : (State.send s m).cxArg1 = s.cxArg1 := rfl
@[simp] theorem State.send_trOp (m : Message) : (State.send s m).trOp = s.trOp := rfl
@[simp] theorem State.send_trWb (m : Message) : (State.send s m).trWb = s.trWb := rfl
@[simp] theorem State.send_trDiscard (m : Message) : (State.send s m).trDiscard = s.trDiscard := rfl
@[simp] theorem State.send_trResult (m : Message) : (State.send s m).trResult = s.trResult := rfl
@[simp] theorem State.send_trArg0 (m : Message) : (State.send s m).trArg0 = s.trArg0 := rfl
@[simp] theorem State.send_trArg1 (m : Message) : (State.send s m).trArg1 = s.trArg1 := rfl
@[simp] theorem State.send_ptFrame (m : Message) : (State.send s m).ptFrame = s.ptFrame := rfl
@[simp] theorem State.send_ptLen (m : Message) : (State.send s m).ptLen = s.ptLen := rfl
@[simp] theorem State.send_migFrame (m : Message) : (State.send s m).migFrame = s.migFrame := rfl
@[simp] theorem State.send_migCount (m : Message) : (State.send s m).migCount = s.migCount := rfl
@[simp] theorem State.send_contexts (m : Message) : (State.send s m).contexts = s.contexts := rfl
@[simp] theorem State.send_fbBase (m : Message) : (State.send s m).fbBase = s.fbBase := rfl
@[simp] theorem State.send_fbSize (m : Message) : (State.send s m).fbSize = s.fbSize := rfl
@[simp] theorem State.send_fbEnable (m : Message) : (State.send s m).fbEnable = s.fbEnable := rfl
@[simp] theorem State.send_fbWr (m : Message) : (State.send s m).fbWr = s.fbWr := rfl
@[simp] theorem State.send_fbRd (m : Message) : (State.send s m).fbRd = s.fbRd := rfl
@[simp] theorem State.send_fbOvf (m : Message) : (State.send s m).fbOvf = s.fbOvf := rfl
@[simp] theorem State.send_fbStop (m : Message) : (State.send s m).fbStop = s.fbStop := rfl
@[simp] theorem State.send_fxIntStat (m : Message) : (State.send s m).fxIntStat = s.fxIntStat := rfl
@[simp] theorem State.send_fxIntEn (m : Message) : (State.send s m).fxIntEn = s.fxIntEn := rfl
@[simp] theorem State.send_held (m : Message) : (State.send s m).held = s.held := rfl
@[simp] theorem State.send_tokens (m : Message) : (State.send s m).tokens = s.tokens := rfl
@[simp] theorem State.send_nextToken (m : Message) : (State.send s m).nextToken = s.nextToken := rfl
@[simp] theorem State.send_linkUp (m : Message) : (State.send s m).linkUp = s.linkUp := rfl
@[simp] theorem State.send_phyBase (m : Message) : (State.send s m).phyBase = s.phyBase := rfl
@[simp] theorem State.send_vectors (m : Message) : (State.send s m).vectors = s.vectors := rfl
@[simp] theorem State.send_devId (m : Message) : (State.send s m).devId = s.devId := rfl
@[simp] theorem State.send_fabEnable (m : Message) : (State.send s m).fabEnable = s.fabEnable := rfl
@[simp] theorem State.send_safe (m : Message) : (State.send s m).safe = s.safe := rfl
@[simp] theorem State.send_domain (m : Message) : (State.send s m).domain = s.domain := rfl
@[simp] theorem State.send_ports (m : Message) : (State.send s m).ports = s.ports := rfl
@[simp] theorem State.send_routes (m : Message) : (State.send s m).routes = s.routes := rfl
@[simp] theorem State.send_reach (m : Message) : (State.send s m).reach = s.reach := rfl
@[simp] theorem State.send_safeCount (m : Message) : (State.send s m).safeCount = s.safeCount := rfl
@[simp] theorem State.send_credits (m : Message) : (State.send s m).credits = s.credits := rfl
@[simp] theorem State.send_requests (m : Message) : (State.send s m).requests = s.requests := rfl
@[simp] theorem State.send_unsent (m : Message) : (State.send s m).unsent = s.unsent := rfl
@[simp] theorem State.send_far (m : Message) : (State.send s m).far = s.far := rfl
@[simp] theorem State.send_barred (m : Message) : (State.send s m).barred = s.barred := rfl
@[simp] theorem State.send_keptBack (m : Message) : (State.send s m).keptBack = s.keptBack := rfl
@[simp] theorem State.send_inbound (m : Message) : (State.send s m).inbound = s.inbound := rfl
@[simp] theorem State.send_probes (m : Message) : (State.send s m).probes = s.probes := rfl
@[simp] theorem State.send_colBase (m : Message) : (State.send s m).colBase = s.colBase := rfl
@[simp] theorem State.send_colCount (m : Message) : (State.send s m).colCount = s.colCount := rfl
@[simp] theorem State.send_collGroups (m : Message) : (State.send s m).collGroups = s.collGroups := rfl
@[simp] theorem State.send_collIssues (m : Message) : (State.send s m).collIssues = s.collIssues := rfl
@[simp] theorem State.send_mgc (m : Message) : (State.send s m).mgc = s.mgc := rfl
@[simp] theorem State.send_correctedErrors (m : Message) : (State.send s m).correctedErrors = s.correctedErrors := rfl
@[simp] theorem State.send_pwren (m : Message) : (State.send s m).pwren = s.pwren := rfl
@[simp] theorem State.send_pgood (m : Message) : (State.send s m).pgood = s.pgood := rfl
@[simp] theorem State.send_mrstN (m : Message) : (State.send s m).mrstN = s.mrstN := rfl
@[simp] theorem State.send_power (m : Message) : (State.send s m).power = s.power := rfl
@[simp] theorem State.send_live (m : Message) : (State.send s m).live = s.live := rfl

/-! ## `State.takeUid` -/

@[simp] theorem State.takeUid_agenda : (State.takeUid s).1.agenda = s.agenda := rfl
@[simp] theorem State.takeUid_planned : (State.takeUid s).1.planned = s.planned := rfl
@[simp] theorem State.takeUid_issue : (State.takeUid s).1.issue = s.issue := rfl
@[simp] theorem State.takeUid_fresh : (State.takeUid s).1.fresh = s.fresh := rfl
@[simp] theorem State.takeUid_nextUid : (State.takeUid s).1.nextUid = s.nextUid + 1 := rfl
@[simp] theorem State.takeUid_outbox : (State.takeUid s).1.outbox = s.outbox := rfl
@[simp] theorem State.takeUid_waiting : (State.takeUid s).1.waiting = s.waiting := rfl
@[simp] theorem State.takeUid_deviceAnswers : (State.takeUid s).1.deviceAnswers = s.deviceAnswers := rfl
@[simp] theorem State.takeUid_reading : (State.takeUid s).1.reading = s.reading := rfl
@[simp] theorem State.takeUid_posting : (State.takeUid s).1.posting = s.posting := rfl
@[simp] theorem State.takeUid_notes : (State.takeUid s).1.notes = s.notes := rfl
@[simp] theorem State.takeUid_tablesDirty : (State.takeUid s).1.tablesDirty = s.tablesDirty := rfl
@[simp] theorem State.takeUid_clk : (State.takeUid s).1.clk = s.clk := rfl
@[simp] theorem State.takeUid_calends : (State.takeUid s).1.calends = s.calends := rfl
@[simp] theorem State.takeUid_calFrac : (State.takeUid s).1.calFrac = s.calFrac := rfl
@[simp] theorem State.takeUid_calSrc : (State.takeUid s).1.calSrc = s.calSrc := rfl
@[simp] theorem State.takeUid_calLocked : (State.takeUid s).1.calLocked = s.calLocked := rfl
@[simp] theorem State.takeUid_calRate : (State.takeUid s).1.calRate = s.calRate := rfl
@[simp] theorem State.takeUid_calOffset : (State.takeUid s).1.calOffset = s.calOffset := rfl
@[simp] theorem State.takeUid_calGood : (State.takeUid s).1.calGood = s.calGood := rfl
@[simp] theorem State.takeUid_launches : (State.takeUid s).1.launches = s.launches := rfl
@[simp] theorem State.takeUid_gangs : (State.takeUid s).1.gangs = s.gangs := rfl
@[simp] theorem State.takeUid_waves : (State.takeUid s).1.waves = s.waves := rfl
@[simp] theorem State.takeUid_ops : (State.takeUid s).1.ops = s.ops := rfl
@[simp] theorem State.takeUid_dram : (State.takeUid s).1.dram = s.dram := rfl
@[simp] theorem State.takeUid_cells : (State.takeUid s).1.cells = s.cells := rfl
@[simp] theorem State.takeUid_poison : (State.takeUid s).1.poison = s.poison := rfl
@[simp] theorem State.takeUid_latent : (State.takeUid s).1.latent = s.latent := rfl
@[simp] theorem State.takeUid_l2 : (State.takeUid s).1.l2 = s.l2 := rfl
@[simp] theorem State.takeUid_logical : (State.takeUid s).1.logical = s.logical := rfl
@[simp] theorem State.takeUid_lines : (State.takeUid s).1.lines = s.lines := rfl
@[simp] theorem State.takeUid_l1 : (State.takeUid s).1.l1 = s.l1 := rfl
@[simp] theorem State.takeUid_tlb : (State.takeUid s).1.tlb = s.tlb := rfl
@[simp] theorem State.takeUid_atc : (State.takeUid s).1.atc = s.atc := rfl
@[simp] theorem State.takeUid_hostLines : (State.takeUid s).1.hostLines = s.hostLines := rfl
@[simp] theorem State.takeUid_hostAsks : (State.takeUid s).1.hostAsks = s.hostAsks := rfl
@[simp] theorem State.takeUid_atsWaits : (State.takeUid s).1.atsWaits = s.atsWaits := rfl
@[simp] theorem State.takeUid_monitors : (State.takeUid s).1.monitors = s.monitors := rfl
@[simp] theorem State.takeUid_maps : (State.takeUid s).1.maps = s.maps := rfl
@[simp] theorem State.takeUid_filters : (State.takeUid s).1.filters = s.filters := rfl
@[simp] theorem State.takeUid_qmEnable : (State.takeUid s).1.qmEnable = s.qmEnable := rfl
@[simp] theorem State.takeUid_haltAll : (State.takeUid s).1.haltAll = s.haltAll := rfl
@[simp] theorem State.takeUid_qtBase : (State.takeUid s).1.qtBase = s.qtBase := rfl
@[simp] theorem State.takeUid_qcmd : (State.takeUid s).1.qcmd = s.qcmd := rfl
@[simp] theorem State.takeUid_qmIntStat : (State.takeUid s).1.qmIntStat = s.qmIntStat := rfl
@[simp] theorem State.takeUid_qmIntEn : (State.takeUid s).1.qmIntEn = s.qmIntEn := rfl
@[simp] theorem State.takeUid_queues : (State.takeUid s).1.queues = s.queues := rfl
@[simp] theorem State.takeUid_turnQueue : (State.takeUid s).1.turnQueue = s.turnQueue := rfl
@[simp] theorem State.takeUid_turnUsed : (State.takeUid s).1.turnUsed = s.turnUsed := rfl
@[simp] theorem State.takeUid_making : (State.takeUid s).1.making = s.making := rfl
@[simp] theorem State.takeUid_cxBase : (State.takeUid s).1.cxBase = s.cxBase := rfl
@[simp] theorem State.takeUid_cxTag : (State.takeUid s).1.cxTag = s.cxTag := rfl
@[simp] theorem State.takeUid_cxOp : (State.takeUid s).1.cxOp = s.cxOp := rfl
@[simp] theorem State.takeUid_cxResult : (State.takeUid s).1.cxResult = s.cxResult := rfl
@[simp] theorem State.takeUid_cxArg0 : (State.takeUid s).1.cxArg0 = s.cxArg0 := rfl
@[simp] theorem State.takeUid_cxArg1 : (State.takeUid s).1.cxArg1 = s.cxArg1 := rfl
@[simp] theorem State.takeUid_trOp : (State.takeUid s).1.trOp = s.trOp := rfl
@[simp] theorem State.takeUid_trWb : (State.takeUid s).1.trWb = s.trWb := rfl
@[simp] theorem State.takeUid_trDiscard : (State.takeUid s).1.trDiscard = s.trDiscard := rfl
@[simp] theorem State.takeUid_trResult : (State.takeUid s).1.trResult = s.trResult := rfl
@[simp] theorem State.takeUid_trArg0 : (State.takeUid s).1.trArg0 = s.trArg0 := rfl
@[simp] theorem State.takeUid_trArg1 : (State.takeUid s).1.trArg1 = s.trArg1 := rfl
@[simp] theorem State.takeUid_ptFrame : (State.takeUid s).1.ptFrame = s.ptFrame := rfl
@[simp] theorem State.takeUid_ptLen : (State.takeUid s).1.ptLen = s.ptLen := rfl
@[simp] theorem State.takeUid_migFrame : (State.takeUid s).1.migFrame = s.migFrame := rfl
@[simp] theorem State.takeUid_migCount : (State.takeUid s).1.migCount = s.migCount := rfl
@[simp] theorem State.takeUid_contexts : (State.takeUid s).1.contexts = s.contexts := rfl
@[simp] theorem State.takeUid_fbBase : (State.takeUid s).1.fbBase = s.fbBase := rfl
@[simp] theorem State.takeUid_fbSize : (State.takeUid s).1.fbSize = s.fbSize := rfl
@[simp] theorem State.takeUid_fbEnable : (State.takeUid s).1.fbEnable = s.fbEnable := rfl
@[simp] theorem State.takeUid_fbWr : (State.takeUid s).1.fbWr = s.fbWr := rfl
@[simp] theorem State.takeUid_fbRd : (State.takeUid s).1.fbRd = s.fbRd := rfl
@[simp] theorem State.takeUid_fbOvf : (State.takeUid s).1.fbOvf = s.fbOvf := rfl
@[simp] theorem State.takeUid_fbStop : (State.takeUid s).1.fbStop = s.fbStop := rfl
@[simp] theorem State.takeUid_fxIntStat : (State.takeUid s).1.fxIntStat = s.fxIntStat := rfl
@[simp] theorem State.takeUid_fxIntEn : (State.takeUid s).1.fxIntEn = s.fxIntEn := rfl
@[simp] theorem State.takeUid_held : (State.takeUid s).1.held = s.held := rfl
@[simp] theorem State.takeUid_tokens : (State.takeUid s).1.tokens = s.tokens := rfl
@[simp] theorem State.takeUid_nextToken : (State.takeUid s).1.nextToken = s.nextToken := rfl
@[simp] theorem State.takeUid_linkUp : (State.takeUid s).1.linkUp = s.linkUp := rfl
@[simp] theorem State.takeUid_phyBase : (State.takeUid s).1.phyBase = s.phyBase := rfl
@[simp] theorem State.takeUid_vectors : (State.takeUid s).1.vectors = s.vectors := rfl
@[simp] theorem State.takeUid_devId : (State.takeUid s).1.devId = s.devId := rfl
@[simp] theorem State.takeUid_fabEnable : (State.takeUid s).1.fabEnable = s.fabEnable := rfl
@[simp] theorem State.takeUid_safe : (State.takeUid s).1.safe = s.safe := rfl
@[simp] theorem State.takeUid_domain : (State.takeUid s).1.domain = s.domain := rfl
@[simp] theorem State.takeUid_ports : (State.takeUid s).1.ports = s.ports := rfl
@[simp] theorem State.takeUid_routes : (State.takeUid s).1.routes = s.routes := rfl
@[simp] theorem State.takeUid_reach : (State.takeUid s).1.reach = s.reach := rfl
@[simp] theorem State.takeUid_safeCount : (State.takeUid s).1.safeCount = s.safeCount := rfl
@[simp] theorem State.takeUid_credits : (State.takeUid s).1.credits = s.credits := rfl
@[simp] theorem State.takeUid_requests : (State.takeUid s).1.requests = s.requests := rfl
@[simp] theorem State.takeUid_unsent : (State.takeUid s).1.unsent = s.unsent := rfl
@[simp] theorem State.takeUid_far : (State.takeUid s).1.far = s.far := rfl
@[simp] theorem State.takeUid_barred : (State.takeUid s).1.barred = s.barred := rfl
@[simp] theorem State.takeUid_keptBack : (State.takeUid s).1.keptBack = s.keptBack := rfl
@[simp] theorem State.takeUid_inbound : (State.takeUid s).1.inbound = s.inbound := rfl
@[simp] theorem State.takeUid_probes : (State.takeUid s).1.probes = s.probes := rfl
@[simp] theorem State.takeUid_colBase : (State.takeUid s).1.colBase = s.colBase := rfl
@[simp] theorem State.takeUid_colCount : (State.takeUid s).1.colCount = s.colCount := rfl
@[simp] theorem State.takeUid_collGroups : (State.takeUid s).1.collGroups = s.collGroups := rfl
@[simp] theorem State.takeUid_collIssues : (State.takeUid s).1.collIssues = s.collIssues := rfl
@[simp] theorem State.takeUid_mgc : (State.takeUid s).1.mgc = s.mgc := rfl
@[simp] theorem State.takeUid_correctedErrors : (State.takeUid s).1.correctedErrors = s.correctedErrors := rfl
@[simp] theorem State.takeUid_pwren : (State.takeUid s).1.pwren = s.pwren := rfl
@[simp] theorem State.takeUid_pgood : (State.takeUid s).1.pgood = s.pgood := rfl
@[simp] theorem State.takeUid_mrstN : (State.takeUid s).1.mrstN = s.mrstN := rfl
@[simp] theorem State.takeUid_power : (State.takeUid s).1.power = s.power := rfl
@[simp] theorem State.takeUid_live : (State.takeUid s).1.live = s.live := rfl

/-! ## `State.takeFree` -/

@[simp] theorem State.takeFree_agenda : (State.takeFree s).1.agenda = s.agenda := rfl
@[simp] theorem State.takeFree_planned : (State.takeFree s).1.planned = s.planned := rfl
@[simp] theorem State.takeFree_issue : (State.takeFree s).1.issue = s.issue := rfl
@[simp] theorem State.takeFree_fresh : (State.takeFree s).1.fresh = s.fresh + 1 := rfl
@[simp] theorem State.takeFree_nextUid : (State.takeFree s).1.nextUid = s.nextUid := rfl
@[simp] theorem State.takeFree_outbox : (State.takeFree s).1.outbox = s.outbox := rfl
@[simp] theorem State.takeFree_waiting : (State.takeFree s).1.waiting = s.waiting := rfl
@[simp] theorem State.takeFree_deviceAnswers : (State.takeFree s).1.deviceAnswers = s.deviceAnswers := rfl
@[simp] theorem State.takeFree_reading : (State.takeFree s).1.reading = s.reading := rfl
@[simp] theorem State.takeFree_posting : (State.takeFree s).1.posting = s.posting := rfl
@[simp] theorem State.takeFree_notes : (State.takeFree s).1.notes = s.notes := rfl
@[simp] theorem State.takeFree_tablesDirty : (State.takeFree s).1.tablesDirty = s.tablesDirty := rfl
@[simp] theorem State.takeFree_clk : (State.takeFree s).1.clk = s.clk := rfl
@[simp] theorem State.takeFree_calends : (State.takeFree s).1.calends = s.calends := rfl
@[simp] theorem State.takeFree_calFrac : (State.takeFree s).1.calFrac = s.calFrac := rfl
@[simp] theorem State.takeFree_calSrc : (State.takeFree s).1.calSrc = s.calSrc := rfl
@[simp] theorem State.takeFree_calLocked : (State.takeFree s).1.calLocked = s.calLocked := rfl
@[simp] theorem State.takeFree_calRate : (State.takeFree s).1.calRate = s.calRate := rfl
@[simp] theorem State.takeFree_calOffset : (State.takeFree s).1.calOffset = s.calOffset := rfl
@[simp] theorem State.takeFree_calGood : (State.takeFree s).1.calGood = s.calGood := rfl
@[simp] theorem State.takeFree_launches : (State.takeFree s).1.launches = s.launches := rfl
@[simp] theorem State.takeFree_gangs : (State.takeFree s).1.gangs = s.gangs := rfl
@[simp] theorem State.takeFree_waves : (State.takeFree s).1.waves = s.waves := rfl
@[simp] theorem State.takeFree_ops : (State.takeFree s).1.ops = s.ops := rfl
@[simp] theorem State.takeFree_dram : (State.takeFree s).1.dram = s.dram := rfl
@[simp] theorem State.takeFree_cells : (State.takeFree s).1.cells = s.cells := rfl
@[simp] theorem State.takeFree_poison : (State.takeFree s).1.poison = s.poison := rfl
@[simp] theorem State.takeFree_latent : (State.takeFree s).1.latent = s.latent := rfl
@[simp] theorem State.takeFree_l2 : (State.takeFree s).1.l2 = s.l2 := rfl
@[simp] theorem State.takeFree_logical : (State.takeFree s).1.logical = s.logical := rfl
@[simp] theorem State.takeFree_lines : (State.takeFree s).1.lines = s.lines := rfl
@[simp] theorem State.takeFree_l1 : (State.takeFree s).1.l1 = s.l1 := rfl
@[simp] theorem State.takeFree_tlb : (State.takeFree s).1.tlb = s.tlb := rfl
@[simp] theorem State.takeFree_atc : (State.takeFree s).1.atc = s.atc := rfl
@[simp] theorem State.takeFree_hostLines : (State.takeFree s).1.hostLines = s.hostLines := rfl
@[simp] theorem State.takeFree_hostAsks : (State.takeFree s).1.hostAsks = s.hostAsks := rfl
@[simp] theorem State.takeFree_atsWaits : (State.takeFree s).1.atsWaits = s.atsWaits := rfl
@[simp] theorem State.takeFree_monitors : (State.takeFree s).1.monitors = s.monitors := rfl
@[simp] theorem State.takeFree_maps : (State.takeFree s).1.maps = s.maps := rfl
@[simp] theorem State.takeFree_filters : (State.takeFree s).1.filters = s.filters := rfl
@[simp] theorem State.takeFree_qmEnable : (State.takeFree s).1.qmEnable = s.qmEnable := rfl
@[simp] theorem State.takeFree_haltAll : (State.takeFree s).1.haltAll = s.haltAll := rfl
@[simp] theorem State.takeFree_qtBase : (State.takeFree s).1.qtBase = s.qtBase := rfl
@[simp] theorem State.takeFree_qcmd : (State.takeFree s).1.qcmd = s.qcmd := rfl
@[simp] theorem State.takeFree_qmIntStat : (State.takeFree s).1.qmIntStat = s.qmIntStat := rfl
@[simp] theorem State.takeFree_qmIntEn : (State.takeFree s).1.qmIntEn = s.qmIntEn := rfl
@[simp] theorem State.takeFree_queues : (State.takeFree s).1.queues = s.queues := rfl
@[simp] theorem State.takeFree_turnQueue : (State.takeFree s).1.turnQueue = s.turnQueue := rfl
@[simp] theorem State.takeFree_turnUsed : (State.takeFree s).1.turnUsed = s.turnUsed := rfl
@[simp] theorem State.takeFree_making : (State.takeFree s).1.making = s.making := rfl
@[simp] theorem State.takeFree_cxBase : (State.takeFree s).1.cxBase = s.cxBase := rfl
@[simp] theorem State.takeFree_cxTag : (State.takeFree s).1.cxTag = s.cxTag := rfl
@[simp] theorem State.takeFree_cxOp : (State.takeFree s).1.cxOp = s.cxOp := rfl
@[simp] theorem State.takeFree_cxResult : (State.takeFree s).1.cxResult = s.cxResult := rfl
@[simp] theorem State.takeFree_cxArg0 : (State.takeFree s).1.cxArg0 = s.cxArg0 := rfl
@[simp] theorem State.takeFree_cxArg1 : (State.takeFree s).1.cxArg1 = s.cxArg1 := rfl
@[simp] theorem State.takeFree_trOp : (State.takeFree s).1.trOp = s.trOp := rfl
@[simp] theorem State.takeFree_trWb : (State.takeFree s).1.trWb = s.trWb := rfl
@[simp] theorem State.takeFree_trDiscard : (State.takeFree s).1.trDiscard = s.trDiscard := rfl
@[simp] theorem State.takeFree_trResult : (State.takeFree s).1.trResult = s.trResult := rfl
@[simp] theorem State.takeFree_trArg0 : (State.takeFree s).1.trArg0 = s.trArg0 := rfl
@[simp] theorem State.takeFree_trArg1 : (State.takeFree s).1.trArg1 = s.trArg1 := rfl
@[simp] theorem State.takeFree_ptFrame : (State.takeFree s).1.ptFrame = s.ptFrame := rfl
@[simp] theorem State.takeFree_ptLen : (State.takeFree s).1.ptLen = s.ptLen := rfl
@[simp] theorem State.takeFree_migFrame : (State.takeFree s).1.migFrame = s.migFrame := rfl
@[simp] theorem State.takeFree_migCount : (State.takeFree s).1.migCount = s.migCount := rfl
@[simp] theorem State.takeFree_contexts : (State.takeFree s).1.contexts = s.contexts := rfl
@[simp] theorem State.takeFree_fbBase : (State.takeFree s).1.fbBase = s.fbBase := rfl
@[simp] theorem State.takeFree_fbSize : (State.takeFree s).1.fbSize = s.fbSize := rfl
@[simp] theorem State.takeFree_fbEnable : (State.takeFree s).1.fbEnable = s.fbEnable := rfl
@[simp] theorem State.takeFree_fbWr : (State.takeFree s).1.fbWr = s.fbWr := rfl
@[simp] theorem State.takeFree_fbRd : (State.takeFree s).1.fbRd = s.fbRd := rfl
@[simp] theorem State.takeFree_fbOvf : (State.takeFree s).1.fbOvf = s.fbOvf := rfl
@[simp] theorem State.takeFree_fbStop : (State.takeFree s).1.fbStop = s.fbStop := rfl
@[simp] theorem State.takeFree_fxIntStat : (State.takeFree s).1.fxIntStat = s.fxIntStat := rfl
@[simp] theorem State.takeFree_fxIntEn : (State.takeFree s).1.fxIntEn = s.fxIntEn := rfl
@[simp] theorem State.takeFree_held : (State.takeFree s).1.held = s.held := rfl
@[simp] theorem State.takeFree_tokens : (State.takeFree s).1.tokens = s.tokens := rfl
@[simp] theorem State.takeFree_nextToken : (State.takeFree s).1.nextToken = s.nextToken := rfl
@[simp] theorem State.takeFree_linkUp : (State.takeFree s).1.linkUp = s.linkUp := rfl
@[simp] theorem State.takeFree_phyBase : (State.takeFree s).1.phyBase = s.phyBase := rfl
@[simp] theorem State.takeFree_vectors : (State.takeFree s).1.vectors = s.vectors := rfl
@[simp] theorem State.takeFree_devId : (State.takeFree s).1.devId = s.devId := rfl
@[simp] theorem State.takeFree_fabEnable : (State.takeFree s).1.fabEnable = s.fabEnable := rfl
@[simp] theorem State.takeFree_safe : (State.takeFree s).1.safe = s.safe := rfl
@[simp] theorem State.takeFree_domain : (State.takeFree s).1.domain = s.domain := rfl
@[simp] theorem State.takeFree_ports : (State.takeFree s).1.ports = s.ports := rfl
@[simp] theorem State.takeFree_routes : (State.takeFree s).1.routes = s.routes := rfl
@[simp] theorem State.takeFree_reach : (State.takeFree s).1.reach = s.reach := rfl
@[simp] theorem State.takeFree_safeCount : (State.takeFree s).1.safeCount = s.safeCount := rfl
@[simp] theorem State.takeFree_credits : (State.takeFree s).1.credits = s.credits := rfl
@[simp] theorem State.takeFree_requests : (State.takeFree s).1.requests = s.requests := rfl
@[simp] theorem State.takeFree_unsent : (State.takeFree s).1.unsent = s.unsent := rfl
@[simp] theorem State.takeFree_far : (State.takeFree s).1.far = s.far := rfl
@[simp] theorem State.takeFree_barred : (State.takeFree s).1.barred = s.barred := rfl
@[simp] theorem State.takeFree_keptBack : (State.takeFree s).1.keptBack = s.keptBack := rfl
@[simp] theorem State.takeFree_inbound : (State.takeFree s).1.inbound = s.inbound := rfl
@[simp] theorem State.takeFree_probes : (State.takeFree s).1.probes = s.probes := rfl
@[simp] theorem State.takeFree_colBase : (State.takeFree s).1.colBase = s.colBase := rfl
@[simp] theorem State.takeFree_colCount : (State.takeFree s).1.colCount = s.colCount := rfl
@[simp] theorem State.takeFree_collGroups : (State.takeFree s).1.collGroups = s.collGroups := rfl
@[simp] theorem State.takeFree_collIssues : (State.takeFree s).1.collIssues = s.collIssues := rfl
@[simp] theorem State.takeFree_mgc : (State.takeFree s).1.mgc = s.mgc := rfl
@[simp] theorem State.takeFree_correctedErrors : (State.takeFree s).1.correctedErrors = s.correctedErrors := rfl
@[simp] theorem State.takeFree_pwren : (State.takeFree s).1.pwren = s.pwren := rfl
@[simp] theorem State.takeFree_pgood : (State.takeFree s).1.pgood = s.pgood := rfl
@[simp] theorem State.takeFree_mrstN : (State.takeFree s).1.mrstN = s.mrstN := rfl
@[simp] theorem State.takeFree_power : (State.takeFree s).1.power = s.power := rfl
@[simp] theorem State.takeFree_live : (State.takeFree s).1.live = s.live := rfl

end Sys2Proof.Machine
end

