-- ==== Sys2Proof/Tests/Slice0.lean ====
section
/-! SUPPORT. Tests: ill-formed terms refused, words written out from the encoding tables and the spec's own encoding
examples decoded, the spec's worked numbers, and for each statement that has hypotheses a state and operands that meet
them. -/

namespace Sys2Proof.Tests

open Sys2Proof Sys2Proof.Machine

/-! ## Well-formedness: each check refuses a term -/

theorem test_wf_literal_missing : (Instr.addB32 ⟨0, 1, 126, 0, false, none⟩).wf = false := by decide
theorem test_wf_literal_extra : (Instr.addB32 ⟨0, 1, 2, 0, false, some 5⟩).wf = false := by decide
theorem test_wf_literal_uniform : (Instr.addB32 ⟨0, 1, 126, 0, true, some 5⟩).wf = false := by decide
theorem test_wf_literal_one_source : (Instr.movB32 ⟨0, 126, 0, false, none⟩).wf = false := by decide
theorem test_wf_call_link : (Instr.call ⟨0, 120, 0⟩).wf = false := by decide
theorem test_wf_atom_width : (Instr.atom ⟨0, 0, 0, false, false, 2, 0⟩).wf = false := by decide
theorem test_wf_flit_port : (Instr.data 16 (List.replicate 64 0)).wf = false := by decide
theorem test_wf_flit_length : (Instr.data 15 (List.replicate 63 0)).wf = false := by decide
theorem test_wf_flit_units : (Instr.write 15 (List.replicate 64 0) [List.replicate 63 0]).wf = false := by decide
theorem test_wf_port : (Instr.portDown 16).wf = false := by decide
/-- And accepts its neighbour. -/
theorem test_wf_accepts_literal :
    (Instr.addB32 ⟨0, 1, 126, 0, false, some 5⟩).wf = true ∧ (Instr.addB32 ⟨0, 1, 126, 0, true, none⟩).wf = true ∧
    (Instr.movB32 ⟨0, 126, 0, false, some 1⟩).wf = true := by decide
theorem test_wf_accepts_field : (Instr.call ⟨0, 118, 0⟩).wf = true ∧ (Instr.atom ⟨0, 0, 0, false, false, 3, 0⟩).wf = true := by decide
theorem test_wf_accepts_flit : (Instr.data 15 (List.replicate 64 0)).wf = true := by decide
theorem test_wf_accepts_port : (Instr.portDown 15).wf = true := by decide

/-! ## Decoding -/

/-- The encoding examples of the instruction chapters. -/
theorem test_decode_examples : ∀ e ∈ ([(0xE58C1803, .fbar ⟨12, 3, 3⟩), (0x7C201040, .ffmaF32 ⟨4, 1, 2, 0, false, none⟩),
    (0x9D1040A0, .fcmpF32 ⟨2, false, 2, 4, 5, 0, false, none⟩), (0xA0307023, .fdivF32 ⟨6, 7, 0, false, 1, none⟩),
    (0xAC180081, .cvtBf16F32 ⟨3, 0, 0, false, 4, false, none⟩), (0xAC282012, .cvtE4m3F32 ⟨5, 2, 0, false, 0, true, none⟩),
    (0xB0404000, .qntQn4 ⟨8, 4, 0⟩), (0xB8305005, .wredAddS32 ⟨6, 5, 0, false, none⟩), (0xBC202080, .ldg ⟨4, 2, 0, false, 4, 0⟩),
    (0xC4205040, .ldl ⟨4, 5, 0, false, 2, 0⟩), (0xD4180000, .atom ⟨3, 0, 0, false, false, 0, 0⟩),
    (0xD4200020, .atom2 ⟨4, 0, 0, false, false, 0⟩)] : List (Word × Instr)),
    decode (bytesOf (splitWord e.1)) = some (e.2, 4) := by decide
theorem test_decode_examples_2 : ∀ e ∈ ([(0xD8282006, .red2Bf16 ⟨5, 2, 0, false, none⟩), (0xDC382000, .rfinF32 ⟨7, 2, 0, false, 0, none⟩),
    (0xE4491010, .waitc ⟨9, 2, 2, 0⟩), (0xE865C418, .mmaE4m3 ⟨2, 1, 7, false, 8, 12⟩), (0xE9D4A828, .mdrain ⟨1, 1, 2, true, 16, 20⟩),
    (0xEC030050, .cover ⟨12, 40⟩), (0xE64A1840, .procEnter ⟨10, 3, 4⟩), (0xEC2A0428, .flins ⟨40, 8, 20⟩),
    (0xECA50940, .trace ⟨20, 18, 32⟩), (0xED200430, .sampleD ⟨0, 8, 24⟩), (0xE40A1142, .bwait ⟨10, 2, 20, true, false⟩)] : List (Word × Instr)),
    decode (bytesOf (splitWord e.1)) = some (e.2, 4) := by decide
/-- The assembled kernel `lineidx` of the encoding chapter. -/
theorem test_decode_kernel : ∀ e ∈ ([(0x54080026, .shrN32Imm ⟨1, 0, 0, 6⟩), (0x64000100, .movB32 ⟨0, 0, 0, true, none⟩),
    (0x6410100A, .div3N32 ⟨2, 1, 0, false, none⟩), (0xC0102180, .stg ⟨2, 2, 0, true, 4, 0⟩), (0x74000003, .exit 0)] : List (Word × Instr)),
    decode (bytesOf (splitWord e.1)) = some (e.2, 4) := by decide
theorem test_decode_dictionary : decode [0x00, 0xFC] = some (.dictionaryParcel 0, 2) := by decide
theorem test_decode_dictionary_last : decode [0xFF, 0xFF] = some (.dictionaryParcel 1023, 2) := by decide
/-- The bytes of the word that R124 writes out. -/
theorem test_decode_bytes : decode [0x28, 0x00, 0x66, 0x20] = some (.addB32 ⟨5, 2, 3, 1, true, none⟩, 4) := by decide
/-- A literal follows its word with its upper half first (R58, R124). -/
theorem test_decode_literal :
    decode (bytesOf (splitWord 0b000000_0000100_0000101_1111110_000_0_0) ++ [0x34, 0x12, 0x78, 0x56]) =
      some (.addB32 ⟨4, 5, 126, 0, false, some 0x12345678⟩, 8) := by decide
theorem test_decode_literal_absent : decode (bytesOf (splitWord 0b000000_0000100_0000101_1111110_000_0_0)) = none := by decide
/-- An unassigned FN, a reserved bit, and a prefix parcel are no instruction. -/
theorem test_decode_refused : decode (bytesOf (splitWord 0b011001_0000000_0000000_000_0_11111111)) = none ∧
    decode (bytesOf (splitWord 0b111100_000001_00000000000000000001)) = none ∧ decode [0x01, 0xF8, 0, 0] = none := by decide

/-- Words of the integer instructions, written out field by field from R131 to R140 and R243. -/
theorem test_decode_integer : ∀ e ∈ ([(0b000000_0101010_1001111_1110100_001_0_0, .addB32 ⟨42, 79, 116, 1, false, none⟩),
    (0b000000_1100011_0001000_0101101_010_1_1, .subB32 ⟨99, 8, 45, 2, true, none⟩),
    (0b000001_0011100_1000001_1100110_011_0_0, .mulB32 ⟨28, 65, 102, 3, false, none⟩),
    (0b000001_1010101_0000010_0011111_100_1_1, .madB32 ⟨85, 2, 31, 4, true, none⟩),
    (0b000010_0001110_0110011_1011000_101_0_0, .mulhiS32 ⟨14, 51, 88, 5, false, none⟩),
    (0b000010_1000111_1101100_0010001_110_1_1, .mulhiN32 ⟨71, 108, 17, 6, true, none⟩),
    (0b000011_0000000_0100101_1001010_111_0_0, .andB32 ⟨0, 37, 74, 7, false, none⟩),
    (0b000011_0111001_1011110_0000011_000_1_1, .orB32 ⟨57, 94, 3, 0, true, none⟩),
    (0b000100_1110010_0010111_0111100_001_0_0, .xorB32 ⟨114, 23, 60, 1, false, none⟩),
    (0b000100_0101011_1010000_1110101_010_1_1, .andnB32 ⟨43, 80, 117, 2, true, none⟩),
    (0b000101_1100100_0001001_0101110_011_0_0, .shlB32 ⟨100, 9, 46, 3, false, none⟩),
    (0b000101_0011101_1000010_1100111_100_1_1, .shrN32 ⟨29, 66, 103, 4, true, none⟩)] : List (Word × Instr)),
    decode (bytesOf (splitWord e.1)) = some (e.2, 4) := by decide
theorem test_decode_integer_2 : ∀ e ∈ ([(0b000110_1010110_0000011_0100000_101_0_0, .shrS32 ⟨86, 3, 32, 5, false, none⟩),
    (0b000110_0001111_0110100_1011001_110_1_1, .rotlB32 ⟨15, 52, 89, 6, true, none⟩),
    (0b000111_1001000_1101101_0010010_111_0_0, .minS32 ⟨72, 109, 18, 7, false, none⟩),
    (0b000111_0000001_0100110_1001011_000_1_1, .maxS32 ⟨1, 38, 75, 0, true, none⟩),
    (0b001000_0111010_1011111_0000100_001_0_0, .minN32 ⟨58, 95, 4, 1, false, none⟩),
    (0b001000_1110011_0011000_0111101_010_1_1, .maxN32 ⟨115, 24, 61, 2, true, none⟩),
    (0b001001_0101100_1010001_1110110_011_0_0, .addsS32 ⟨44, 81, 118, 3, false, none⟩),
    (0b001001_1100101_0001010_0101111_100_1_1, .subsS32 ⟨101, 10, 47, 4, true, none⟩),
    (0b001010_0011110_1000011_1101000_101_0_0, .addsN32 ⟨30, 67, 104, 5, false, none⟩),
    (0b001010_1010111_0000100_0100001_110_1_1, .subsN32 ⟨87, 4, 33, 6, true, none⟩),
    (0b001011_0010000_0110101_1011010_111_0_0, .bfxN32 ⟨16, 53, 90, 7, false, none⟩),
    (0b001011_1001001_1101110_0010011_000_1_1, .bfxS32 ⟨73, 110, 19, 0, true, none⟩)] : List (Word × Instr)),
    decode (bytesOf (splitWord e.1)) = some (e.2, 4) := by decide
theorem test_decode_integer_3 : ∀ e ∈ ([(0b001100_0000010_0100111_1001100_001_0_0, .bfiB32 ⟨2, 39, 76, 1, false, none⟩),
    (0b001100_0111011_1100000_0000101_010_1_1, .absdN32 ⟨59, 96, 5, 2, true, none⟩),
    (0b001101_1110100_0011001_0111110_011_0_0, .addN64 ⟨116, 25, 62, 3, false, none⟩),
    (0b001101_0101101_1010010_1110111_100_1_1, .subN64 ⟨45, 82, 119, 4, true, none⟩),
    (0b001110_1100110_0001011_0110000_101_0_0, .mulN64 ⟨102, 11, 48, 5, false, none⟩),
    (0b001110_0011111_1000100_1101001_110_1_1, .mulwN32 ⟨31, 68, 105, 6, true, none⟩),
    (0b001111_1011000_0000101_0100010_111_0_0, .mulwS32 ⟨88, 5, 34, 7, false, none⟩),
    (0b001111_0010001_0110110_1011011_000_1_1, .addaS64 ⟨17, 54, 91, 0, true, none⟩),
    (0b010000_1001010_1101111_0010100_001_0_0, .shlN64 ⟨74, 111, 20, 1, false, none⟩),
    (0b010000_0000011_0101000_1001101_010_1_1, .shrN64 ⟨3, 40, 77, 2, true, none⟩),
    (0b010001_0111100_1100001_0000110_011_0_0, .shrS64 ⟨60, 97, 6, 3, false, none⟩),
    (0b010001_1110101_0011010_0111111_100_1_1, .rotlN64 ⟨117, 26, 63, 4, true, none⟩)] : List (Word × Instr)),
    decode (bytesOf (splitWord e.1)) = some (e.2, 4) := by decide
/-- Words of the compare, immediate instructions, written out field by field from R131 to R140 and R243. -/
theorem test_decode_compare_immediate : ∀ e ∈ ([(0b010010_110_1_000_0011101_1000010_111_0_0, .cmpS32 ⟨6, true, 0, 29, 66, 7, false, none⟩),
    (0b010010_001_0_011_0100000_1000101_010_1_1, .cmpN32 ⟨1, false, 3, 32, 69, 2, true, none⟩),
    (0b010011_100_1_110_0100011_1001000_101_0_0, .cmpS64 ⟨4, true, 6, 35, 72, 5, false, none⟩),
    (0b010011_111_0_001_0100110_1001011_000_1_1, .cmpN64 ⟨7, false, 1, 38, 75, 0, true, none⟩),
    (0b010100_0111010_1011111_100_100101100, .addB32Imm ⟨58, 95, 4, 300⟩),
    (0b010101_0101001_1001110_011_00_00_10101, .shlB32Imm ⟨41, 78, 3, 21⟩),
    (0b010101_0011000_0111101_010_00_01_10011, .shrN32Imm ⟨24, 61, 2, 19⟩),
    (0b010101_0000111_0101100_001_00_10_11110, .shrS32Imm ⟨7, 44, 1, 30⟩),
    (0b010110_1110110_0011011_000_001001101, .addN64Imm ⟨118, 27, 0, 77⟩),
    (0b010111_1100101_010_0100001001000101, .movB32Imm ⟨101, 2, 16965⟩),
    (0b011000_1010100_001_1101000111001010, .movB32ImmS ⟨84, 1, 53706⟩)] : List (Word × Instr)),
    decode (bytesOf (splitWord e.1)) = some (e.2, 4) := by decide
/-- Words of the one, source instructions, written out field by field from R131 to R140 and R243. -/
theorem test_decode_one_source : ∀ e ∈ ([(0b011001_1000011_1101000_101_0_00000000, .movB32 ⟨67, 104, 5, false, none⟩),
    (0b011001_1010111_0000100_001_0_00000001, .notB32 ⟨87, 4, 1, false, none⟩),
    (0b011001_1101011_0010000_101_0_00000010, .negS32 ⟨107, 16, 5, false, none⟩),
    (0b011001_0000111_0100100_001_0_00000011, .absS32 ⟨7, 36, 1, false, none⟩),
    (0b011001_0010011_0111000_101_0_00000100, .popcB32 ⟨19, 56, 5, false, none⟩),
    (0b011001_0100111_1001100_001_0_00000101, .clzB32 ⟨39, 76, 1, false, none⟩),
    (0b011001_0111011_1100000_101_0_00000110, .ctzB32 ⟨59, 96, 5, false, none⟩),
    (0b011001_1001111_1110100_001_0_00000111, .brevB32 ⟨79, 116, 1, false, none⟩),
    (0b011001_1100011_0001000_101_0_00001000, .sxbS32 ⟨99, 8, 5, false, none⟩),
    (0b011001_1110111_0011100_001_0_00001001, .sxhS32 ⟨119, 28, 1, false, none⟩),
    (0b011001_0001011_0110000_101_0_00001010, .div3N32 ⟨11, 48, 5, false, none⟩),
    (0b011001_0011111_1000100_001_0_00001011, .mod3N32 ⟨31, 68, 1, false, none⟩)] : List (Word × Instr)),
    decode (bytesOf (splitWord e.1)) = some (e.2, 4) := by decide
theorem test_decode_one_source_2 : ∀ e ∈ ([(0b011001_0110011_1011000_101_0_00001100, .movN64 ⟨51, 88, 5, false, none⟩),
    (0b011001_1000111_1101100_001_0_00001101, .negS64 ⟨71, 108, 1, false, none⟩),
    (0b011001_1011011_0000000_101_0_00001110, .div3N64 ⟨91, 0, 5, false, none⟩),
    (0b011001_1101111_0010100_001_0_00001111, .mod3N64 ⟨111, 20, 1, false, none⟩),
    (0b011001_0000011_0101000_101_0_00010000, .mset ⟨3, 40, 5, false, none⟩),
    (0b011001_0010111_0111100_001_0_00010001, .mget ⟨23, 60, 1⟩),
    (0b011010_0000011_0000000_0000101_010_0_0, .mand ⟨3, 0, 5, 2⟩),
    (0b011010_0000111_0000100_0000001_110_0_1, .mor ⟨7, 4, 1, 6⟩),
    (0b011011_0000011_0000000_0000101_010_0_0, .mxor ⟨3, 0, 5, 2⟩),
    (0b011011_0000111_0000100_0000001_110_0_1, .mandn ⟨7, 4, 1, 6⟩)] : List (Word × Instr)),
    decode (bytesOf (splitWord e.1)) = some (e.2, 4) := by decide
/-- Words of the control instructions, written out field by field from R131 to R140 and R243. -/
theorem test_decode_control : ∀ e ∈ ([(0b011100_101_1111000_1111111111100000, .br ⟨5, 65504⟩),
    (0b011100_010_0001110_0001001000110100, .call ⟨2, 14, 4660⟩),
    (0b011101_0000000_0100000_101_0_00000000, .jmp ⟨32, 5, false, none⟩),
    (0b011101_0000000_0110100_001_0_00000001, .ret ⟨52, 1, false, none⟩),
    (0b011101_0100011_1001000_101_0_00000010, .calli ⟨35, 72, 5, false, none⟩),
    (0b011101_0000000_0000000_001_0_00000011, .exit 1),
    (0b011101_0000000_0000000_101_0_00000100, .yield 5),
    (0b011101_0000000_0000100_000_1_00000101, .wbase ⟨4, true, none⟩),
    (0b011101_0000000_0011000_000_1_00000110, .wbadd ⟨24, true, none⟩),
    (0b011101_0000000_0000000_001_0_00000111, .nop 1)] : List (Word × Instr)),
    decode (bytesOf (splitWord e.1)) = some (e.2, 4) := by decide
/-- Words of the float instructions, written out field by field from R131 to R140 and R243. -/
theorem test_decode_float : ∀ e ∈ ([(0b011110_0011011_1000000_1100101_010_1_0, .faddF32 ⟨27, 64, 101, 2, true, none⟩),
    (0b011110_1010100_0000001_0011110_011_0_1, .fmulF32 ⟨84, 1, 30, 3, false, none⟩),
    (0b011111_0001101_0110010_1010111_100_1_0, .ffmaF32 ⟨13, 50, 87, 4, true, none⟩),
    (0b011111_1000110_1101011_0010000_101_0_1, .fsubF32 ⟨70, 107, 16, 5, false, none⟩),
    (0b100000_0000111_0100100_1001001_110_1_0, .fminF32 ⟨7, 36, 73, 6, true, none⟩),
    (0b100000_0111000_1011101_0000010_111_0_1, .fmaxF32 ⟨56, 93, 2, 7, false, none⟩),
    (0b100001_1110001_0010110_0111011_000_1_0, .faddF16 ⟨113, 22, 59, 0, true, none⟩),
    (0b100001_0101010_1001111_1110100_001_0_1, .fmulF16 ⟨42, 79, 116, 1, false, none⟩),
    (0b100010_1100011_0001000_0101101_010_1_0, .ffmaF16 ⟨99, 8, 45, 2, true, none⟩),
    (0b100010_0011100_1000001_1100110_011_0_1, .fsubF16 ⟨28, 65, 102, 3, false, none⟩),
    (0b100011_1010101_0000010_0011111_100_1_0, .fminF16 ⟨85, 2, 31, 4, true, none⟩),
    (0b100011_0001110_0110011_1011000_101_0_1, .fmaxF16 ⟨14, 51, 88, 5, false, none⟩)] : List (Word × Instr)),
    decode (bytesOf (splitWord e.1)) = some (e.2, 4) := by decide
theorem test_decode_float_2 : ∀ e ∈ ([(0b100100_1000111_1101100_0010001_110_1_0, .faddBf16 ⟨71, 108, 17, 6, true, none⟩),
    (0b100100_0000000_0100101_1001010_111_0_1, .fmulBf16 ⟨0, 37, 74, 7, false, none⟩),
    (0b100101_0111001_1011110_0000011_000_1_0, .ffmaBf16 ⟨57, 94, 3, 0, true, none⟩),
    (0b100101_1110010_0010111_0111100_001_0_1, .fsubBf16 ⟨114, 23, 60, 1, false, none⟩),
    (0b100110_0101011_1010000_1110101_010_1_0, .fminBf16 ⟨43, 80, 117, 2, true, none⟩),
    (0b100110_1100100_0001001_0101110_011_0_1, .fmaxBf16 ⟨100, 9, 46, 3, false, none⟩),
    (0b100111_101_0_111_0001100_0110001_110_1_0, .fcmpF32 ⟨5, false, 7, 12, 49, 6, true, none⟩),
    (0b100111_000_1_010_0001111_0110100_001_0_1, .fcmpF16 ⟨0, true, 2, 15, 52, 1, false, none⟩)] : List (Word × Instr)),
    decode (bytesOf (splitWord e.1)) = some (e.2, 4) := by decide
/-- Words of the rounded, float instructions, written out field by field from R131 to R140 and R243. -/
theorem test_decode_rounded_float : ∀ e ∈ ([(0b101000_0100011_1001000_101_0_010_00000, .faddF32Rm ⟨35, 72, 5, false, 2, none⟩),
    (0b101000_1011100_0000001_110_1_000_00001, .fsubF32Rm ⟨92, 1, 6, true, 0, none⟩),
    (0b101000_0010101_0111010_111_0_001_00010, .fmulF32Rm ⟨21, 58, 7, false, 1, none⟩),
    (0b101000_1001110_1110011_000_1_010_00011, .fdivF32 ⟨78, 115, 0, true, 2, none⟩),
    (0b101000_0000111_0101100_001_0_011_00100, .fsqrtF32 ⟨7, 44, 1, false, 3, none⟩),
    (0b101000_1000000_1100101_010_1_100_00101, .frndF32 ⟨64, 101, 2, true, 4, none⟩),
    (0b101000_0000001_0011110_011_0_000_00110, .frcp ⟨1, 30, 3, false, none⟩),
    (0b101000_0110010_1010111_100_1_000_00111, .frsq ⟨50, 87, 4, true, none⟩),
    (0b101000_1101011_0010000_101_0_000_01000, .fex2 ⟨107, 16, 5, false, none⟩),
    (0b101000_0100100_1001001_110_1_000_01001, .flg2 ⟨36, 73, 6, true, none⟩),
    (0b101000_1011101_0000010_111_0_000_01010, .fsin ⟨93, 2, 7, false, none⟩),
    (0b101000_0010110_0111011_000_1_000_01011, .fcos ⟨22, 59, 0, true, none⟩)] : List (Word × Instr)),
    decode (bytesOf (splitWord e.1)) = some (e.2, 4) := by decide
theorem test_decode_rounded_float_2 : ∀ e ∈ ([(0b101000_1001111_1110100_001_0_000_01100, .fabsF32 ⟨79, 116, 1, false, none⟩),
    (0b101000_0001000_0101101_010_1_000_01101, .fnegF32 ⟨8, 45, 2, true, none⟩),
    (0b101000_1000001_1100110_011_0_000_01110, .fsgnF32 ⟨65, 102, 3, false, none⟩),
    (0b101001_0000010_0011111_100_1_001_00000, .faddF16Rm ⟨2, 31, 4, true, 1, none⟩),
    (0b101001_0110011_1011000_101_0_010_00001, .fsubF16Rm ⟨51, 88, 5, false, 2, none⟩),
    (0b101001_1101100_0010001_110_1_000_00010, .fmulF16Rm ⟨108, 17, 6, true, 0, none⟩),
    (0b101001_0100101_1001010_111_0_001_00011, .fdivF16 ⟨37, 74, 7, false, 1, none⟩),
    (0b101001_1011110_0000011_000_1_010_00100, .fsqrtF16 ⟨94, 3, 0, true, 2, none⟩),
    (0b101001_0010111_0111100_001_0_011_00101, .frndF16 ⟨23, 60, 1, false, 3, none⟩),
    (0b101001_1010000_1110101_010_1_000_01100, .fabsF16 ⟨80, 117, 2, true, none⟩),
    (0b101001_0001001_0101110_011_0_000_01101, .fnegF16 ⟨9, 46, 3, false, none⟩),
    (0b101001_1000010_1100111_100_1_000_01110, .fsgnF16 ⟨66, 103, 4, true, none⟩)] : List (Word × Instr)),
    decode (bytesOf (splitWord e.1)) = some (e.2, 4) := by decide
theorem test_decode_rounded_float_3 : ∀ e ∈ ([(0b101010_0000011_0100000_101_0_010_00000, .faddBf16Rm ⟨3, 32, 5, false, 2, none⟩),
    (0b101010_0110100_1011001_110_1_000_00001, .fsubBf16Rm ⟨52, 89, 6, true, 0, none⟩),
    (0b101010_1101101_0010010_111_0_001_00010, .fmulBf16Rm ⟨109, 18, 7, false, 1, none⟩),
    (0b101010_0100110_1001011_000_1_010_00011, .fdivBf16 ⟨38, 75, 0, true, 2, none⟩),
    (0b101010_1011111_0000100_001_0_011_00100, .fsqrtBf16 ⟨95, 4, 1, false, 3, none⟩),
    (0b101010_0011000_0111101_010_1_100_00101, .frndBf16 ⟨24, 61, 2, true, 4, none⟩),
    (0b101010_1010001_1110110_011_0_000_01100, .fabsBf16 ⟨81, 118, 3, false, none⟩),
    (0b101010_0001010_0101111_100_1_000_01101, .fnegBf16 ⟨10, 47, 4, true, none⟩),
    (0b101010_1000011_1101000_101_0_000_01110, .fsgnBf16 ⟨67, 104, 5, false, none⟩)] : List (Word × Instr)),
    decode (bytesOf (splitWord e.1)) = some (e.2, 4) := by decide
/-- Words of the conversion instructions, written out field by field from R131 to R140 and R243. -/
theorem test_decode_conversion : ∀ e ∈ ([(0b101011_0000100_0100001_110_1_000_10000, .cvtF16F32 ⟨4, 33, 6, true, 0, true, none⟩),
    (0b101011_1011010_0000111_100_1_001_10001, .cvtBf16F32 ⟨90, 7, 4, true, 1, true, none⟩),
    (0b101011_0111000_1011101_010_1_100_10010, .cvtE4m3F32 ⟨56, 93, 2, true, 4, true, none⟩),
    (0b101011_0010110_0111011_000_1_010_10011, .cvtE5m2F32 ⟨22, 59, 0, true, 2, true, none⟩),
    (0b101011_1110100_0011001_110_1_000_00100, .cvtF32F16 ⟨116, 25, 6, true, none⟩),
    (0b101011_0101101_1010010_111_0_000_00101, .cvtF32Bf16 ⟨45, 82, 7, false, none⟩),
    (0b101011_1100110_0001011_000_1_000_00110, .cvtF32E4m3 ⟨102, 11, 0, true, none⟩),
    (0b101011_0011111_1000100_001_0_000_00111, .cvtF32E5m2 ⟨31, 68, 1, false, none⟩),
    (0b101011_1011000_0000101_010_1_100_01000, .cvtS32F32 ⟨88, 5, 2, true, 4, none⟩),
    (0b101011_0010001_0110110_011_0_000_01001, .cvtN32F32 ⟨17, 54, 3, false, 0, none⟩),
    (0b101011_1001010_1101111_100_1_001_01010, .cvtF32S32 ⟨74, 111, 4, true, 1, none⟩),
    (0b101011_0000011_0101000_101_0_010_01011, .cvtF32N32 ⟨3, 40, 5, false, 2, none⟩)] : List (Word × Instr)),
    decode (bytesOf (splitWord e.1)) = some (e.2, 4) := by decide
theorem test_decode_conversion_2 : ∀ e ∈ ([(0b101011_0111100_1100001_110_1_000_01100, .cvtS64F32 ⟨60, 97, 6, true, 0, none⟩),
    (0b101011_1110101_0011010_111_0_001_01101, .cvtF32S64 ⟨117, 26, 7, false, 1, none⟩),
    (0b101011_0101110_1010011_000_1_000_11110, .cvtS8S32 ⟨46, 83, 0, true, true, none⟩),
    (0b101011_1100111_0001100_001_0_000_11111, .cvtS16S32 ⟨103, 12, 1, false, true, none⟩),
    (0b101100_0100000_1000101_010_0_00000000, .qntQn4 ⟨32, 69, 2⟩),
    (0b101100_0110100_1011001_110_1_00000001, .dqnQn4 ⟨52, 89, 6, true, none⟩)] : List (Word × Instr)),
    decode (bytesOf (splitWord e.1)) = some (e.2, 4) := by decide
/-- Words of the wave instructions, written out field by field from R131 to R140 and R243. -/
theorem test_decode_wave : ∀ e ∈ ([(0b101101_1001000_1101101_0010010_111_0_0, .shflB32 ⟨72, 109, 18, 7, false, none⟩),
    (0b101101_0000001_0100110_1001011_000_1_1, .shflxB32 ⟨1, 38, 75, 0, true, none⟩),
    (0b101110_0111010_1011111_100_1_00000000, .voteAny ⟨58, 95, 4, true, none⟩),
    (0b101110_1001110_1110011_000_1_00000001, .voteAll ⟨78, 115, 0, true, none⟩),
    (0b101110_1100010_0000111_100_1_00000010, .ballot ⟨98, 7, 4, true, none⟩),
    (0b101110_1110110_0011011_000_1_00000011, .scanAddS32 ⟨118, 27, 0, true, none⟩),
    (0b101110_0001010_0101111_100_1_00000100, .scanxAddS32 ⟨10, 47, 4, true, none⟩),
    (0b101110_0011110_1000011_000_1_00000101, .wredAddS32 ⟨30, 67, 0, true, none⟩),
    (0b101110_0110010_1010111_100_1_00000110, .wredMinS32 ⟨50, 87, 4, true, none⟩),
    (0b101110_1000110_1101011_000_1_00000111, .wredMaxS32 ⟨70, 107, 0, true, none⟩),
    (0b101110_1011010_0000111_100_1_00001000, .wredMinN32 ⟨90, 7, 4, true, none⟩),
    (0b101110_1101110_0010011_000_1_00001001, .wredMaxN32 ⟨110, 19, 0, true, none⟩)] : List (Word × Instr)),
    decode (bytesOf (splitWord e.1)) = some (e.2, 4) := by decide
theorem test_decode_wave_2 : ∀ e ∈ ([(0b101110_0000010_0100111_100_1_00001010, .wredAndB32 ⟨2, 39, 4, true, none⟩),
    (0b101110_0010110_0111011_000_1_00001011, .wredOrB32 ⟨22, 59, 0, true, none⟩),
    (0b101110_0101010_1001111_100_1_00001100, .wredXorB32 ⟨42, 79, 4, true, none⟩),
    (0b101110_0111110_1100011_000_1_00001101, .firstB32 ⟨62, 99, 0, true, none⟩)] : List (Word × Instr)),
    decode (bytesOf (splitWord e.1)) = some (e.2, 4) := by decide
/-- Words of the memory instructions, written out field by field from R131 to R140 and R243. -/
theorem test_decode_memory : ∀ e ∈ ([(0b101111_1010010_1110111_100_1_110_01011, .ldg ⟨82, 119, 4, true, 6, 11⟩),
    (0b110000_0110000_1010101_010_1_100_01001, .stg ⟨48, 85, 2, true, 4, 9⟩),
    (0b110001_0001110_0110011_000_1_010_00111, .ldl ⟨14, 51, 0, true, 2, 7⟩),
    (0b110010_1101100_0010001_110_1_000_00101, .stl ⟨108, 17, 6, true, 0, 5⟩),
    (0b110011_1001010_1101111_100_1_110_00011, .ldgTry ⟨74, 111, 4, true, 6, 3⟩),
    (0b110100_0101000_1001101_010_1_100_00001, .stgTry ⟨40, 77, 2, true, 4, 1⟩),
    (0b110101_0000110_0101011_000_1_0_1_01_1001, .atom ⟨6, 43, 0, true, true, 1, 9⟩),
    (0b110101_0101011_0000110_000_0_0_0_10_0011, .atom2 ⟨43, 6, 0, false, false, 3⟩),
    (0b110110_1110101_0011010_111_0_00000000, .redF32 ⟨117, 26, 7, false, none⟩),
    (0b110110_0001001_0101110_011_0_00000001, .redF16 ⟨9, 46, 3, false, none⟩),
    (0b110110_0011101_1000010_111_0_00000010, .redBf16 ⟨29, 66, 7, false, none⟩),
    (0b110110_0110001_1010110_011_0_00000011, .redS32 ⟨49, 86, 3, false, none⟩)] : List (Word × Instr)),
    decode (bytesOf (splitWord e.1)) = some (e.2, 4) := by decide
theorem test_decode_memory_2 : ∀ e ∈ ([(0b110110_1000101_1101010_111_0_00000100, .redS64 ⟨69, 106, 7, false, none⟩),
    (0b110110_1011001_0000110_011_0_00000101, .red2F16 ⟨89, 6, 3, false, none⟩),
    (0b110110_1101101_0010010_111_0_00000110, .red2Bf16 ⟨109, 18, 7, false, none⟩),
    (0b110111_0000001_0100110_011_0_000_00000, .rfinF32 ⟨1, 38, 3, false, 0, none⟩),
    (0b110111_0111010_1011111_100_1_001_00001, .rfinF16 ⟨58, 95, 4, true, 1, none⟩),
    (0b110111_1110011_0011000_101_0_010_00010, .rfinBf16 ⟨115, 24, 5, false, 2, none⟩),
    (0b110111_0101100_1010001_110_1_000_00011, .rfinS32 ⟨44, 81, 6, true, 0, none⟩),
    (0b110111_1100101_0001010_111_0_001_00100, .rfinS64 ⟨101, 10, 7, false, 1, none⟩)] : List (Word × Instr)),
    decode (bytesOf (splitWord e.1)) = some (e.2, 4) := by decide
/-- Words of the asynchronous, wait instructions, written out field by field from R131 to R140 and R243. -/
theorem test_decode_asynchronous_wait : ∀ e ∈ ([(0b111000_000000_011110_001110_111110_00, .tcopyGl ⟨30, 14, 62⟩),
    (0b111000_000001_001101_111101_101101_00, .tcopyLg ⟨13, 61, 45⟩),
    (0b111000_000010_111100_101100_011100_00, .tcopyLl ⟨60, 44, 28⟩),
    (0b111000_001000_101011_011011_001011_00, .collRed ⟨43, 27, 11⟩),
    (0b111000_001001_011010_001010_111010_00, .collBcast ⟨26, 10, 58⟩),
    (0b111000_001010_001001_111001_101001_00, .collAgat ⟨9, 57, 41⟩),
    (0b111001_0000_001010_00010_0_010100_00_1_0, .bwait ⟨10, 2, 20, true, false⟩),
    (0b111001_0001_100001_10001_11001000_011, .waitc ⟨33, 17, 200, 3⟩),
    (0b111001_0010_101001_01001_0010110_1_101, .monw ⟨41, 9, 22, true, 5⟩),
    (0b111001_0011_000111_00000_0111011_0000, .qsend ⟨7, 59⟩),
    (0b111001_0100_001000_00011_0110010_0000, .qrecv ⟨8, 3, 50⟩),
    (0b111001_0101_111110_11110_0_100101_0000, .fence ⟨62, 30, 37⟩)] : List (Word × Instr)),
    decode (bytesOf (splitWord e.1)) = some (e.2, 4) := by decide
theorem test_decode_asynchronous_wait_2 : ∀ e ∈ ([(0b111001_0110_001011_00100_0000000_0110, .fbar ⟨11, 4, 6⟩),
    (0b111001_0111_000000_00000_0010010_0000, .bexp ⟨18⟩),
    (0b111001_1000_000000_00000_0010011_0000, .barr ⟨19⟩),
    (0b111001_1001_001100_00110_1100101_0000, .procEnter ⟨12, 6, 101⟩),
    (0b111001_1010_000000_00000_1100110_0000, .procLeave ⟨102⟩),
    (0b111001_1011_001101_01000_0_100010_0000, .gbar ⟨13, 8, 34⟩)] : List (Word × Instr)),
    decode (bytesOf (splitWord e.1)) = some (e.2, 4) := by decide
/-- Words of the matrix, graphics, system instructions, written out field by field from R131 to R140 and R243. -/
theorem test_decode_matrix_graphics_system : ∀ e ∈ ([(0b111010_0000_10_01_0_011_1_010100_101000_0, .mmaS8 ⟨2, 1, 3, true, 20, 40⟩),
    (0b111010_0001_10_01_0_100_1_010101_101001_0, .mmaE4m3 ⟨2, 1, 4, true, 21, 41⟩),
    (0b111010_0010_10_01_0_101_1_010110_101010_0, .mmaE5m2 ⟨2, 1, 5, true, 22, 42⟩),
    (0b111010_0011_01_10_0001_0_001100_001101_0, .mmaQn4 ⟨1, 2, false, 12, 13⟩),
    (0b111010_0100_00_10_1101_1_001110_001111_0, .mmaF16 ⟨0, 2, 13, true, 14, 15⟩),
    (0b111010_0101_10_00_0110_0_010000_010001_0, .mmaBf16 ⟨2, 0, 6, false, 16, 17⟩),
    (0b111010_0110_01_01_0000_0_010010_010011_0, .msacc ⟨1, 1, 18, 19⟩),
    (0b111010_0111_10_01_0101_1_111100_111111_0, .mdrain ⟨2, 1, 5, true, 60, 63⟩),
    (0b111010_1000_01_10_0010_0_111011_111110_0, .mdrainAdd ⟨1, 2, 2, false, 59, 62⟩),
    (0b111010_1001_00_01_0000_0_111010_111101_0, .mclear ⟨0, 1, 58, 61⟩),
    (0b111011_00000_0111000_0000000_000010_0, .cover ⟨56, 2⟩),
    (0b111011_00001_0100111_1001100_110001_0, .flins ⟨39, 76, 49⟩)] : List (Word × Instr)),
    decode (bytesOf (splitWord e.1)) = some (e.2, 4) := by decide
theorem test_decode_matrix_graphics_system_2 : ∀ e ∈ ([(0b111011_00010_0010110_0111011_100000_0, .flrep ⟨22, 59, 32⟩),
    (0b111011_00011_0000101_0101010_001111_0, .flget ⟨5, 42, 15⟩),
    (0b111011_00100_1110100_0011001_111110_0, .flclr ⟨116, 25, 62⟩),
    (0b111011_00101_1100011_0001000_101101_0, .trace ⟨99, 8, 45⟩),
    (0b111011_00110_1010010_1110111_000000_0, .boxu ⟨82, 119⟩),
    (0b111011_00111_1000001_1100110_000000_0, .sah ⟨65, 102⟩),
    (0b111011_01000_0110000_1010101_111010_0, .npack ⟨48, 85, 58⟩),
    (0b111011_01001_0011111_1000100_101001_0, .sampleD ⟨31, 68, 41⟩),
    (0b111011_01010_0001110_0110011_011000_0, .sampleC ⟨14, 51, 24⟩),
    (0b111011_01011_0000101_0100010_000111_0, .sampleL ⟨5, 34, 7⟩),
    (0b111011_01100_1101100_0000000_110110_0, .rmapinv ⟨108, 54⟩),
    (0b111100_000000_0000000_0000000_000101, .trap 5)] : List (Word × Instr)),
    decode (bytesOf (splitWord e.1)) = some (e.2, 4) := by decide
theorem test_decode_matrix_graphics_system_3 : ∀ e ∈ ([(0b111100_000001_00000000000000000000, .tret),
    (0b111100_000010_0101110_0100000_000011, .srd ⟨46, 0x803⟩),
    (0b111100_000011_0001001_0000001_111110, .swr ⟨9, 0x7E⟩),
    (0b111100_000100_00000000000000000000, .halt),
    (0b111100_000101_00000000000000_101100, .brk 44),
    (0b111100_000110_000000000000000000_10, .prog 2),
    (0b111100_000111_00000000000000_100001, .ckmark 33)] : List (Word × Instr)),
    decode (bytesOf (splitWord e.1)) = some (e.2, 4) := by decide

/-! ## The spec's worked numbers -/

/-- The example of R153. -/
theorem test_bit_field : bfxN 0xB0000000 0x0000061C = 0xB ∧ bfxS 0xB0000000 0x0000061C = 0xFFFFFFFB ∧
    bfi 0x00000005 0x0000061C 0x12345678 = 0x52345678 := by decide
/-- The smallest value divided, doubled or made positive wraps (R152, R155). -/
theorem test_smallest : absS 0x80000000 = 0x80000000 ∧ addsS 0x80000000 0xFFFFFFFF = 0x80000000 ∧ addsS 0x7FFFFFFF 1 = 0x7FFFFFFF := by decide
/-- The example of R182. -/
theorem test_scan : foldLanes (· + ·) [0, 2, 3, 5] (fun i => [4, 0, -1, 7, 0, 2].getD i 0) = 12 ∧
    foldLanes minN [0, 2, 3, 5] (fun i => [4, 0, -1, 7, 0, 2].getD i 0) = 2 := by decide
/-- The example of R82: the choice turns on h below D. -/
theorem test_stochastic : ([0, 1, 0xFFFFFFFF, 0x12345678] : List Word).all (fun seed =>
    convert .f32 .bf16 (.rs seed) false 0x3F804000 == if (stochasticHash 0x40000000 seed).toNat < 0x40000000 then 0x3F81 else 0x3F80) = true := by
  decide +kernel
/-- The example of R86: 191 is chosen over 192. -/
theorem test_quantise : qnScale 0x3C000000 (0x3FC00000 :: 0xBF000000 :: List.replicate 62 0) = 191 := by decide +kernel
theorem test_quantise_error : qnError (units149 0x3C000000) (0x3FC00000 :: 0xBF000000 :: List.replicate 62 0) 191 * 57401344 =
    qnError (units149 0x3C000000) (0x3FC00000 :: 0xBF000000 :: List.replicate 62 0) 192 * 56866638 := by decide +kernel
/-- The example of R92 and R93: the cell of 1, 2^−24 twice and −1. -/
def exampleCell : Cell := ([0x3F800000, 0x33800000, 0x33800000, 0xBF800000].map (CellFmt.value (.float .f32))).foldl Cell.add (Cell.read [])
theorem test_cell : exampleCell.sum = 2 ^ 126 ∧ exampleCell.count = 4 ∧ numAt exampleCell.image 44 4 = 0x04000000 ∧
    exampleCell.image.getD 15 0 = 0x40 := by decide +kernel
theorem test_cell_final : exampleCell.finFloat .f32 .rd = 0x34000000 ∧ exampleCell.finFloat .bf16 .rn = 0x3400 ∧
    exampleCell.finFloat .f16 .rn = 2 := by decide +kernel
/-- The example of R224. -/
def exampleTri : CoverTri := { x := [0, 2048, 0], y := [0, 0, 1024], cull := false }
theorem test_cover : (List.range 32).filter (fun i => (coverLane exampleTri 0 0 i).getD 0 0 != 0) =
    [0, 1, 2, 3, 4, 5, 6, 8, 9, 10, 11, 12, 16, 17, 18, 24] := by decide +kernel
theorem test_cover_weights : coverLane exampleTri 0 0 0 = [1, 0x3D800000, 0x3E000000] ∧ (coverLane exampleTri 0 0 7).take 2 = [0, 0x3F700000] := by
  decide +kernel

end Sys2Proof.Tests

namespace Sys2Proof.Tests

open Sys2Proof Sys2Proof.Machine

/-! ## Small states -/

/-- The gang that `withFetchWord` places, with nothing of it being issued. -/
def placed : State := { State.reset.withFetchWord 32 0 with agenda := [] }
/-- A state with its first fibre changed. -/
def State.fibre (s : State) (f : Fibre → Fibre) : State := modFibre s 0 0 f
/-- A state in which that fibre issues, in kernel or in supervisor mode. -/
def State.issuing (s : State) (sup : Bool) : State := { s with issue := some { issueAt 0 0 (BitVec.allOnes 32) sup 192 with next := 196 } }
/-- The fibre issues in kernel mode. -/
def kernelMode : State := State.issuing placed false
/-- The fibre is in a trap handler and issues there. -/
def handlerMode : State :=
  State.issuing (State.fibre placed fun f => { f with sup := BitVec.allOnes 32, state := .trap, trap := { ret := 196, lanes := BitVec.allOnes 32 } }) true
/-- What an issue sees. -/
def seen (s : State) (h : (hereOf s).isSome = true) : Here := (hereOf s).get h
def kernel : Here := seen kernelMode (by decide)
def handler : Here := seen handlerMode (by decide)

theorem hereOf_seen {s : State} {h : (hereOf s).isSome = true} : hereOf s = some (seen s h) := (Option.some_get _).symm
theorem issuing_seen {s : State} {h : (hereOf s).isSome = true} (hs : (seen s h).f.scout = none) : Issuing s (seen s h) :=
  ⟨hereOf_seen, hs⟩
theorem issuing_kernel : Issuing kernelMode kernel := issuing_seen (by decide)
theorem issuing_handler : Issuing handlerMode handler := issuing_seen (by decide)

/-- An issue in kernel mode to which no unit owes anything, without errors of the store, whose fibre has a window of 128
registers from 0 on. -/
structure Plain (h : Here) : Prop where
  pending : h.w.pending = []
  mode    : h.i.sup = false
  base    : h.f.wbase = 0
  win     : (h.g.hdr.winOf h.i.fibre).2 = 128
  bad     : h.w.bad = []

theorem readsLiteral {h : Here} (x : Word) : h.canRead 126 false (some x) := ⟨.inr ⟨rfl, rfl⟩, fun h => absurd h (by decide)⟩

section
variable {h : Here} (P : Plain h)
include P

theorem Plain.ready {c : Nat} (hc : c < 128) : h.ready c := by
  refine ⟨?_, fun p hp' => by simp [P.pending] at hp'⟩
  rw [if_neg (by simp [P.mode]), P.base, P.win]
  omega
theorem Plain.sound (c : Nat) : h.sound c := by simp [Here.sound, Here.poisoned, P.bad, get?]
theorem Plain.soundN (c : BitVec 7) (n : Nat) : h.soundN c n := fun _ _ _ => P.sound _
/-- The fields that it can read and write: every one that the spec gives a meaning. -/
theorem Plain.reads {c : BitVec 7} (hc : c.toNat ≤ 125) : h.canRead c false none := ⟨.inl ⟨hc, rfl⟩, fun _ => ⟨P.ready (by omega), P.sound _⟩⟩
theorem Plain.readsUniform {c : BitVec 7} {l : Option Word} (hc : c.toNat < 64) : h.canRead c true l := by
  unfold Here.canRead
  rw [if_pos rfl, P.mode]
  exact hc
theorem Plain.readsPair {c : BitVec 7} (hc : c.toNat ≤ 125) (he : c.toNat < 120 → c.toNat % 2 = 0) : h.canRead64 c false none :=
  ⟨.inl ⟨hc, rfl⟩, fun h => ⟨he h, P.ready (by omega), P.ready (by omega), P.sound _, P.sound _⟩⟩
theorem Plain.readsUniformPair {c : BitVec 7} {l : Option Word} (hc : c.toNat < 64) (he : c.toNat % 2 = 0) : h.canRead64 c true l := by
  unfold Here.canRead64
  rw [if_pos rfl, P.mode]
  exact ⟨he, hc⟩
theorem Plain.writes {c : BitVec 7} (hc : c.toNat ≤ 120) : h.canWrite c := ⟨hc, fun _ => P.ready (by omega)⟩
theorem Plain.updates {c : BitVec 7} (hc : c.toNat ≤ 120) : h.canUpdate c := ⟨P.writes hc, fun _ => P.sound _⟩
theorem Plain.writesPair {c : BitVec 7} (hc : c.toNat ≤ 120) (he : c.toNat < 120 → c.toNat % 2 = 0) : h.canWrite64 c :=
  ⟨hc, fun h => ⟨he h, P.ready (by omega), P.ready (by omega)⟩⟩
theorem Plain.writesN {c : BitVec 7} {n : Nat} (hc : c.toNat ≤ 120) (hn : n ≤ 8) : h.canWriteN c n := ⟨hc, fun _ _ _ => P.ready (by omega)⟩

end

theorem plain_kernel : Plain kernel := ⟨by decide, by decide, by decide, by decide, by decide⟩
theorem ready_handler {c : Nat} (hc : c < 32) : handler.ready c := by
  have hp : handler.w.pending = [] := by decide
  refine ⟨?_, fun p hp' => by simp [hp] at hp'⟩
  rw [if_pos (by decide)]
  exact hc
theorem sound_handler (c : Nat) : handler.sound c := by
  have hp : handler.i.sup = true := by decide
  simp [Here.sound, Here.poisoned, hp]
/-- The fields of an issue in a handler, at the last register of each file. -/
theorem reads_handler : handler.canRead 31 false none := ⟨.inl ⟨by decide, rfl⟩, fun _ => ⟨ready_handler (by decide), sound_handler _⟩⟩
theorem readsUniform_handler : handler.canRead 15 true none := by
  unfold Here.canRead
  rw [if_pos rfl, if_pos (by decide)]
  decide
theorem readsPair_handler : handler.canRead64 30 false none :=
  ⟨.inl ⟨by decide, rfl⟩, fun _ => ⟨by decide, ready_handler (by decide), ready_handler (by decide), sound_handler _, sound_handler _⟩⟩
theorem writes_handler : handler.canWrite 31 := ⟨by decide, fun _ => ready_handler (by decide)⟩
theorem updates_handler : handler.canUpdate 31 := ⟨writes_handler, fun _ => sound_handler _⟩
theorem writesPair_handler : handler.canWrite64 30 :=
  ⟨by decide, fun _ => ⟨by decide, ready_handler (by decide), ready_handler (by decide)⟩⟩

end Sys2Proof.Tests
namespace Sys2Proof.Tests

open Sys2Proof Sys2Proof.Machine

/-! ## States and operands that meet the hypotheses of the statements -/

/-- A state with a register of the allocation given. -/
def State.reg (s : State) (r : Nat) (val : Nat → Word) : State := modWave s 0 fun w => { w with alloc := setAt w.alloc r (rowOf val) }
/-- A state with some `s` registers of the first fibre given, from one on. -/
def State.sregs (s : State) (n : Nat) (xs : List Word) : State :=
  State.fibre s fun f => { f with s := xs.zipIdx.foldl (fun t x => setAt t (n + x.2) x.1) f.s }

theorem witness_IntegerArithmetic :
    Issuing kernelMode kernel ∧ kernel.canUpdate 119 ∧ (kernel.canRead 0 false none ∧ kernel.canRead 119 false none ∧ kernel.canRead 125 false none) ∧
    (kernel.canRead 126 false (some 7) ∧ kernel.canRead 63 true none) ∧ (kernel.canWrite 0 ∧ kernel.canWrite 119 ∧ kernel.canWrite 120) ∧
    (kernel.canRead64 118 false none ∧ kernel.canRead64 62 true none ∧ kernel.canWrite64 118 ∧ kernel.canWrite64 120) ∧
    (63 : BitVec 7).toNat < (if kernel.i.sup then 16 else 64) ∧
    Issuing handlerMode handler ∧ handler.canRead 31 false none ∧ handler.canRead 15 true none ∧ handler.canWrite 31 ∧
    handler.canRead64 30 false none ∧ handler.canWrite64 30 ∧ (15 : BitVec 7).toNat < (if handler.i.sup then 16 else 64) :=
  ⟨issuing_kernel, plain_kernel.updates (by decide), ⟨plain_kernel.reads (by decide), plain_kernel.reads (by decide), plain_kernel.reads (by decide)⟩,
    ⟨readsLiteral 7, plain_kernel.readsUniform (by decide)⟩,
    ⟨plain_kernel.writes (by decide), plain_kernel.writes (by decide), plain_kernel.writes (by decide)⟩,
    ⟨plain_kernel.readsPair (by decide) (by decide), plain_kernel.readsUniformPair (by decide) (by decide),
      plain_kernel.writesPair (by decide) (by decide), plain_kernel.writesPair (by decide) (by decide)⟩, by decide,
    issuing_handler, reads_handler, readsUniform_handler, writes_handler, readsPair_handler, writesPair_handler, by decide⟩

theorem witness_ComparesAndMasks :
    Issuing kernelMode kernel ∧ (0 : BitVec 3) ≠ 7 ∧ (6 : BitVec 3) ≠ 7 ∧ kernel.canRead 119 false none ∧ kernel.canRead 126 false (some 7) ∧
    kernel.canRead64 118 false none ∧ kernel.canRead64 62 true none ∧ (0 : BitVec 7).toNat < 8 ∧ (7 : BitVec 7).toNat < 8 ∧ kernel.canWrite 120 ∧
    Issuing handlerMode handler ∧ handler.canRead 31 false none ∧ handler.canRead64 30 false none ∧ handler.canWrite 31 :=
  ⟨issuing_kernel, by decide, by decide, plain_kernel.reads (by decide), readsLiteral 7, plain_kernel.readsPair (by decide) (by decide),
    plain_kernel.readsUniformPair (by decide) (by decide), by decide, by decide, plain_kernel.writes (by decide), issuing_handler, reads_handler,
    readsPair_handler, writes_handler⟩

/-- A state in which `v0` is odd in lane 31 alone. -/
def oddTarget : State := State.reg kernelMode 0 fun i => if i = 31 then 1 else 0
def oddSeen : Here := seen oddTarget (by decide)
/-- An issue at an odd address, whose branches have odd targets. -/
def oddIssue : State := { kernelMode with issue := some (issueAt 0 0 (BitVec.allOnes 32) false 193) }
def oddIssueSeen : Here := seen oddIssue (by decide)
theorem plain_odd : Plain oddSeen := ⟨by decide, by decide, by decide, by decide, by decide⟩
theorem plain_oddIssue : Plain oddIssueSeen := ⟨by decide, by decide, by decide, by decide, by decide⟩

theorem witness_ControlTransfers :
    (Issuing kernelMode kernel ∧ (kernel.perf 0 ≠ 0 → (kernel.i.opc + 2 * (0x8000 : BitVec 16).signExtend 64).getLsbD 0 = false)) ∧
    ((118 : BitVec 7) ≠ 120 ∧ kernel.canWrite64 118) ∧
    (kernel.canRead64 118 false none ∧ kernel.canWrite64 120 ∧
      ∀ i, i < 32 → (kernel.perf 0).getLsbD i → (kernel.quad 118 false none i).getLsbD 0 = false) ∧
    (Issuing oddIssue oddIssueSeen ∧ oddIssueSeen.perf 0 ≠ 0 ∧ (118 : BitVec 7) ≠ 120 ∧ oddIssueSeen.canWrite64 118 ∧ (oddIssueSeen.i.opc + 2 * (0 : BitVec 16).signExtend 64).getLsbD 0 = true) ∧
    (Issuing oddTarget oddSeen ∧ oddSeen.canRead64 0 false none ∧ oddSeen.canWrite64 120 ∧ (oddSeen.perf 0).getLsbD 31 = true ∧
      (oddSeen.quad 0 false none 31).getLsbD 0 = true ∧
      ∀ i, i < 31 → (oddSeen.perf 0).getLsbD i → (oddSeen.quad 0 false none i).getLsbD 0 = false) ∧
    (kernel.f.exited ||| kernel.perf 1) ≠ BitVec.allOnes 32 ∧ (kernel.f.exited ||| kernel.perf 0) = BitVec.allOnes 32 ∧ kernel.i.sup = false ∧
    ((0 ≤ (127 : Word).toNat ∧ (127 : Word).toNat < (kernel.g.hdr.winOf kernel.i.fibre).2) ∧
      ¬((128 : Word).toNat < (kernel.g.hdr.winOf kernel.i.fibre).2) ∧
      (((kernel.g.hdr.winOf kernel.i.fibre).1 : Int) ≤ kernel.f.wbase + (127 : Word).toInt ∧
        kernel.f.wbase + (127 : Word).toInt < (kernel.g.hdr.winOf kernel.i.fibre).2) ∧
      ¬((kernel.g.hdr.winOf kernel.i.fibre).1 : Int) ≤ kernel.f.wbase + (-1 : Word).toInt) := by
  refine ⟨⟨issuing_kernel, by decide⟩, ⟨by decide, plain_kernel.writesPair (by decide) (by decide)⟩,
    ⟨plain_kernel.readsPair (by decide) (by decide), plain_kernel.writesPair (by decide) (by decide), by decide⟩,
    ⟨issuing_seen (by decide), by decide, by decide, plain_oddIssue.writesPair (by decide) (by decide), by decide⟩,
    ⟨issuing_seen (by decide), plain_odd.readsPair (by decide) (by decide), plain_odd.writesPair (by decide) (by decide), by decide, by decide,
      by decide⟩, by decide, by decide, by decide, by decide, by decide, by decide, by decide⟩

theorem witness_FloatArithmetic :
    Issuing kernelMode kernel ∧ kernel.canUpdate 119 ∧ kernel.canRead 119 false none ∧ kernel.canRead 126 false (some 0x3F800000) ∧ kernel.canWrite 120 ∧
    ((4 : BitVec 3).toNat ≤ 4 ∧ (3 : BitVec 3).toNat ≤ 3) ∧ (4 < (5 : BitVec 3).toNat ∧ 3 < (4 : BitVec 3).toNat) ∧
    Issuing handlerMode handler ∧ handler.canRead 31 false none ∧ handler.canWrite 31 :=
  ⟨issuing_kernel, plain_kernel.updates (by decide), plain_kernel.reads (by decide), readsLiteral _, plain_kernel.writes (by decide), by decide, by decide, issuing_handler,
    reads_handler, writes_handler⟩
theorem witness_FloatComparisonsAndSigns :
    Issuing kernelMode kernel ∧ kernel.canRead 119 false none ∧ kernel.canRead 63 true none ∧ kernel.canUpdate 119 ∧
    Issuing handlerMode handler ∧ handler.canRead 31 false none ∧ handler.canUpdate 31 :=
  ⟨issuing_kernel, plain_kernel.reads (by decide), plain_kernel.readsUniform (by decide), plain_kernel.updates (by decide), issuing_handler, reads_handler,
    updates_handler⟩
theorem witness_ApproximationsAndConversions :
    Issuing kernelMode kernel ∧ kernel.canRead 119 false none ∧ kernel.canWrite 120 ∧ kernel.canRead64 118 false none ∧ kernel.canWrite64 118 ∧
    (0 : BitVec 3).toNat ≤ 3 ∧ (4 : BitVec 3).toNat ≤ 4 :=
  ⟨issuing_kernel, plain_kernel.reads (by decide), plain_kernel.writes (by decide), plain_kernel.readsPair (by decide) (by decide),
    plain_kernel.writesPair (by decide) (by decide), by decide, by decide⟩
theorem witness_WaveOperations :
    Issuing kernelMode kernel ∧ kernel.canRead 119 false none ∧ kernel.canRead 126 false (some 31) ∧ kernel.canWrite 120 ∧
    (7 : BitVec 7).toNat < 8 ∧ (63 : BitVec 7).toNat < (if kernel.i.sup then 16 else 64) ∧ kernel.perf 1 = 0 ∧
    ((kernel.perf 0).getLsbD 0 = true ∧ ∀ i < 0, (kernel.perf 0).getLsbD i = false) ∧ kernel.perf 0 ≠ 0 :=
  ⟨issuing_kernel, plain_kernel.reads (by decide), readsLiteral 31, plain_kernel.writes (by decide), by decide, by decide, by decide,
    ⟨by decide, by decide⟩, by decide⟩
theorem witness_Qn4Results :
    Issuing kernelMode kernel ∧ kernel.canUpdate 119 ∧ (118 : BitVec 7).toNat < 120 ∧ kernel.canRead64 118 false none ∧ (119 : BitVec 7).toNat < 120 ∧
    kernel.canWrite 119 ∧ kernel.perf 0 ≠ 0 ∧ kernel.perf 1 = 0 ∧ kernel.canRead 125 false none ∧ kernel.canWrite64 120 :=
  ⟨issuing_kernel, plain_kernel.updates (by decide), by decide, plain_kernel.readsPair (by decide) (by decide), by decide, plain_kernel.writes (by decide), by decide, by decide,
    plain_kernel.reads (by decide), plain_kernel.writesPair (by decide) (by decide)⟩

end Sys2Proof.Tests
namespace Sys2Proof.Tests

open Sys2Proof Sys2Proof.Machine

theorem granted_of {h : Here} {s : State} {k : Kind} {us : List Access} (e : (checkUnits h s k us).2 = us.map fun u => (u, Acc.ok)) :
    h.granted s k us (checkUnits h s k us).1 := Prod.ext rfl e
theorem pair_of {α β : Type} {x : α × β} {b : β} (h : x.2 = b) : ∃ t, x = (t, b) := ⟨x.1, Prod.ext rfl h⟩
theorem ok_of {ε α : Type} {x : Except ε α} (h : x.isOk = true) : ∃ a, x = .ok a := by
  cases x with
  | ok a => exact ⟨a, rfl⟩
  | error _ => cases h

/-- The last 8-byte word of the page that the context may reach; in `v2` the address of lane `i` is 8 below that of lane `i + 1`. -/
def lastWord : Word := 49152 * 4096 - 8
def loading : State := State.reg (State.reg kernelMode 0 fun _ => 11) 2 fun i => lastWord - 8 * BitVec.ofNat 32 (31 - i)
def loadSeen : Here := seen loading (by decide)
theorem issuing_loading : Issuing loading loadSeen := issuing_seen (by decide)
theorem plain_loading : Plain loadSeen := ⟨by decide, by decide, by decide, by decide, by decide⟩
theorem Plain.loads {h : Here} (P : Plain h) {o : Mem} (hz : o.sz ≠ 7) (hm : o.d.toNat % memWords o.sz = 0) (hd : o.d.toNat ≤ 120)
    (hn : memWords o.sz ≤ 8) : h.loads o := ⟨hz, hm, P.writesN hd hn⟩
theorem Plain.stores {h : Here} (P : Plain h) {o : Mem} (hz : o.sz = 0 ∨ o.sz = 2 ∨ o.sz = 4 ∨ o.sz = 5 ∨ o.sz = 6)
    (hm : o.d.toNat % memWords o.sz = 0) (hd : o.d.toNat ≤ 125) (hn : memWords o.sz ≤ 8) : h.stores o :=
  ⟨hz, hm, hd, fun _ j hj => P.ready (by omega), P.soundN _ _⟩
/-- Eight bytes at the address in `v2` and `v3`, to or from `v118` and `v119`. -/
def wideAt : Mem := ⟨118, 2, 0, false, 5, 0⟩
theorem loads_wideAt : loadSeen.loads wideAt := plain_loading.loads (by decide) (by decide) (by decide) (by decide)
theorem stores_wideAt : loadSeen.stores wideAt := plain_loading.stores (by decide) (by decide) (by decide) (by decide)
theorem aligned_wideAt : AllAligned (loadSeen.perf 0) 8 (loadSeen.memAddrAt wideAt) := by unfold AllAligned; decide

theorem witness_GlobalAccess :
    Issuing loading loadSeen ∧ loadSeen.canRead64 wideAt.a wideAt.u none ∧
    AllAligned (loadSeen.perf wideAt.p) (memBytes wideAt.sz) (loadSeen.memAddrAt wideAt) ∧ loadSeen.loads wideAt ∧ loadSeen.stores wideAt ∧
    (∃ t, loadSeen.granted loading loadKind (accessesOf (loadSeen.perf wideAt.p) (loadSeen.memAddrAt wideAt)) t) ∧
    (∃ t, loadSeen.granted loading storeKind (accessesOf (loadSeen.perf wideAt.p) (loadSeen.memAddrAt wideAt)) t) ∧
    loading.l1 = [] :=
  ⟨issuing_loading, plain_loading.readsPair (by decide) (by decide), aligned_wideAt, loads_wideAt, stores_wideAt,
    ⟨_, granted_of (by decide +kernel)⟩, ⟨_, granted_of (by decide +kernel)⟩, rfl⟩

/-- The `.try` form of the same, whose status goes to `v102`. -/
def tryAt : Mem := ⟨100, 2, 0, false, 5, 0⟩
theorem witness_GlobalAccess_try :
    loadSeen.canRead64 tryAt.a tryAt.u none ∧ tryAt.d.toNat ≤ 117 ∧ tryAt.sz ≠ 6 ∧ loadSeen.ready (tryAt.d.toNat + 2) ∧
    AllAligned (loadSeen.perf tryAt.p) (memBytes tryAt.sz) (loadSeen.memAddrAt tryAt) ∧ loadSeen.loads tryAt ∧ loadSeen.stores tryAt ∧
    (∃ r, examine loadSeen loading loadKind true (carryLoad (memBytes tryAt.sz)) (accessesOf (loadSeen.perf tryAt.p) (loadSeen.memAddrAt tryAt)) = .ok r) ∧
    (∃ r, examine loadSeen loading storeKind true (loadSeen.carriesStore tryAt) (accessesOf (loadSeen.perf tryAt.p) (loadSeen.memAddrAt tryAt)) = .ok r) :=
  ⟨plain_loading.readsPair (by decide) (by decide), by decide, by decide, plain_loading.ready (by decide), by unfold AllAligned; decide,
    plain_loading.loads (by decide) (by decide) (by decide) (by decide), plain_loading.stores (by decide) (by decide) (by decide) (by decide),
    ok_of (by decide +kernel), ok_of (by decide +kernel)⟩

/-- In lane 31 alone the address, and the local offset, are one byte too far. -/
def unaligned : State := State.reg kernelMode 2 fun i => if i = 31 then 1 else 0
def unalignedSeen : Here := seen unaligned (by decide)
def oneWord : Mem := ⟨119, 2, 0, false, 4, 0⟩
theorem plain_unaligned : Plain unalignedSeen := ⟨by decide, by decide, by decide, by decide, by decide⟩
/-- Addresses beyond what the context may reach, of an absent device, of a page that is absent, and of a poisoned sector. -/
def failing (lo hi : Word) : State :=
  let s := State.reg (State.reg kernelMode 2 fun _ => lo) 3 fun _ => hi
  { s with
    contexts := upd s.contexts 0 fun c => { c with rights := [{ start := 0, pages := 8192, bits := 7 }, { start := 2 ^ 57, pages := 8192, bits := 7 }] }
    l2 := put s.l2 1 { bytes := List.replicate 48 0, cell := false, poison := some 7, sys := false, writers := [] } }
def failingRow (lo hi : Word) : Option Nat :=
  match hereOf (failing lo hi) with
  | none => none
  | some h => match examine h (failing lo hi) loadKind false (carryLoad 4) (accessesOf (h.perf 0) (h.memAddrAt oneWord)) with
    | .ok r => (deciding r.2).map fun d => d.2.1
    | .error _ => none
def failingStore (lo hi : Word) : Option Nat :=
  match hereOf (failing lo hi) with
  | none => none
  | some h => match examine h (failing lo hi) storeKind false (h.carriesStore oneWord) (accessesOf (h.perf 0) (h.memAddrAt oneWord)) (h.makesStore oneWord) with
    | .ok r => (deciding r.2).map fun d => d.2.1
    | .error _ => none
theorem witness_AccessStops :
    (Issuing unaligned unalignedSeen ∧ (unalignedSeen.perf 0).getLsbD 31 = true ∧ unalignedSeen.canRead64 oneWord.a false none ∧
      unalignedSeen.canRead oneWord.a false none ∧ unalignedSeen.loads oneWord ∧ unalignedSeen.stores oneWord ∧
      unalignedSeen.memAddrAt oneWord 31 % 4 ≠ 0 ∧ unalignedSeen.memOffsetAt oneWord 31 % 4 ≠ 0 ∧
      (∀ i < 31, (unalignedSeen.perf 0).getLsbD i = true → unalignedSeen.memAddrAt oneWord i % 4 = 0) ∧
      (∀ i < 31, (unalignedSeen.perf 0).getLsbD i = true → unalignedSeen.memOffsetAt oneWord i % 4 = 0 ∧
        isAperture (unalignedSeen.memOffsetAt oneWord i) = false)) ∧
    (failingRow 0 0x01000000 = some 2 ∧ failingRow 0x30000000 0 = some 3 ∧ failingRow 0 0x02000000 = some 4 ∧
      failingRow 0x0C000000 0 = some 5 ∧ failingRow 48 0 = some 6) ∧
    (failingStore 0 0x01000000 = some 2 ∧ failingStore 0 0x02000000 = some 4 ∧ failingStore 0x0C000000 0 = some 5) := by
  exact ⟨⟨issuing_seen (by decide), by decide, plain_unaligned.readsPair (by decide) (by decide), plain_unaligned.reads (by decide),
    plain_unaligned.loads (by decide) (by decide) (by decide) (by decide), plain_unaligned.stores (by decide) (by decide) (by decide) (by decide),
    by decide, by decide, by decide, by decide⟩, ⟨by decide +kernel, by decide +kernel, by decide +kernel, by decide +kernel, by decide +kernel⟩,
    by decide +kernel, by decide +kernel, by decide +kernel⟩

/-- Offsets of local memory, of stray ones, and of the register aperture, in different lanes. -/
def localPlaces : State := State.reg kernelMode 2 fun i => if i = 30 then 0xE0000000 else if i = 31 then 0x10000000 else 4 * BitVec.ofNat 32 i
def localSeen : Here := seen localPlaces (by decide)
theorem plain_local : Plain localSeen := ⟨by decide, by decide, by decide, by decide, by decide⟩
theorem witness_LocalAccess :
    Issuing localPlaces localSeen ∧ localSeen.canRead oneWord.a oneWord.u none ∧
    AllAligned (localSeen.perf oneWord.p) (memBytes oneWord.sz) (localSeen.memOffsetAt oneWord) ∧
    (∀ i < 32, (localSeen.perf oneWord.p).getLsbD i = true → isAperture (localSeen.memOffsetAt oneWord i) = true → oneWord.sz = 4 ∨ oneWord.sz = 5) ∧
    localSeen.loads oneWord ∧ localSeen.stores oneWord ∧
    localSeen.localSound localPlaces (localSeen.perf oneWord.p) (memBytes oneWord.sz) (localSeen.memOffsetAt oneWord) :=
  ⟨issuing_seen (by decide), plain_local.reads (by decide), by unfold AllAligned; decide, fun _ _ _ _ => .inl rfl,
    plain_local.loads (by decide) (by decide) (by decide) (by decide), plain_local.stores (by decide) (by decide) (by decide) (by decide),
    by unfold Here.localSound; decide⟩

/-- The last byte of a sector of the placed page, reached through a kept translation; and the first of the next. -/
def translated : State := (check placed (some 0) 47 rightRead true true true).1
theorem witness_MemoryLaws :
    (∃ x, get? placed.gangs 0 = some x ∧ x.mem.wf = true) ∧
    (placeOf translated 47 = .own 47 ∧ secOff translated 47 + [(5 : Byte)].length ≤ 48 ∧ Reached translated 47 ∧ Reached translated 48) ∧
    translated.dram.wf = true := by
  have r (a : Nat) (h : placeOf translated a = .own a) (ht : (tlbFind translated a).isSome = true) : Reached translated a := by
    intro o ho
    rw [h] at ho
    cases ho
    exact .inr ht
  exact ⟨⟨_, rfl, by decide⟩, ⟨by decide, by decide, r 47 (by decide +kernel) (by decide +kernel), r 48 (by decide +kernel) (by decide +kernel)⟩, by decide +kernel⟩

/-- An atomic on eight bytes at the addresses of `loading`, and one on words of local memory. -/
theorem witness_Atomics :
    (32 = 32 ∨ 32 = 64) ∧
    Issuing loading loadSeen ∧ (9 : BitVec 4).toNat ≤ 9 ∧ (116 : BitVec 7).toNat + 4 ≤ 120 ∧ loadSeen.canWriteN 116 4 ∧ loadSeen.soundN 116 4 ∧
    (2 : BitVec 7).toNat < 120 ∧ loadSeen.canRead64 2 false none ∧ AllAligned (loadSeen.perf 0) 8 (fun i => (loadSeen.quad 2 false none i).toNat) ∧
    (∃ t, loadSeen.granted loading (atomKind 9 64 fun i => atomParts false 64 (loadSeen.words ((List.range 4).map fun j => loadSeen.regOf (116 + j)) 4 i))
      (accessesOf (loadSeen.perf 0) fun i => (loadSeen.quad 2 false none i).toNat) t) ∧
    loadSeen.canRead 4 false none ∧ AllAligned (loadSeen.perf 0) 4 (fun i => (loadSeen.word 4 false none i).toNat) ∧
    (∀ k < 32, (loadSeen.perf 0).getLsbD k = true → isAperture (loadSeen.word 4 false none k).toNat = false) ∧
    loadSeen.localSound loading (loadSeen.perf 0) 4 (fun i => (loadSeen.word 4 false none i).toNat) :=
  ⟨.inl rfl, issuing_loading, by decide, by decide, plain_loading.writesN (by decide) (by decide), plain_loading.soundN _ _, by decide, plain_loading.readsPair (by decide) (by decide),
    by unfold AllAligned; decide, ⟨_, granted_of (by decide +kernel)⟩, plain_loading.reads (by decide), by unfold AllAligned; decide, by decide,
    by unfold Here.localSound; decide⟩

/-- Every lane's cell is the second of the page. -/
def cells : State := State.reg kernelMode 2 fun _ => 48
def cellSeen : Here := seen cells (by decide)
theorem plain_cells : Plain cellSeen := ⟨by decide, by decide, by decide, by decide, by decide⟩
theorem witness_ReductionsAndFinalisations :
    Issuing cells cellSeen ∧ cellSeen.canRead 119 false none ∧ cellSeen.canRead64 118 false none ∧ cellSeen.canRead64 2 false none ∧
    AllAligned (cellSeen.perf 0) 48 (fun i => (cellSeen.quad 2 false none i).toNat) ∧
    (∃ t, cellSeen.granted cells redKind ((cellSeen.contributions (.float .f16) true ⟨119, 2, 0, false, none⟩).map (·.access)) t) ∧
    ((4 : BitVec 3).toNat ≤ 4 ∧ (3 : BitVec 3).toNat ≤ 3) ∧ cellSeen.canWrite 119 ∧ cellSeen.canWrite64 118 ∧
    (∃ t, cellSeen.granted cells rfinKind (accessesOf (cellSeen.perf 0) fun i => (cellSeen.quad 2 false none i).toNat) t) :=
  ⟨issuing_seen (by decide), plain_cells.reads (by decide), plain_cells.readsPair (by decide) (by decide),
    plain_cells.readsPair (by decide) (by decide), by unfold AllAligned; decide, ⟨_, granted_of (by decide +kernel)⟩, by decide,
    plain_cells.writes (by decide), plain_cells.writesPair (by decide) (by decide), ⟨_, granted_of (by decide +kernel)⟩⟩
theorem witness_CellOrderIndependent : [(Exact.fin false 1 2), .nan none].Perm [.nan none, .fin false 1 2] := by decide

end Sys2Proof.Tests
namespace Sys2Proof.Tests

open Sys2Proof Sys2Proof.Machine

theorem pair_eq {α β : Type} {x : α × β} {b : β} (h : x.2 = b) : x = (x.1, b) := Prod.ext rfl h
/-- A command that its issue accepts, with room for it. -/
def Commands (s : State) (h : Here) (c : Command) : Prop :=
  Issuing s h ∧ Accepts h c ∧ BarrierOk c.bar ∧ (∀ t ∈ c.lasts, t < 8 * h.g.hdr.acc) ∧ h.room s c.cls

/-- The `s` registers hold the descriptor of one 16-byte element in one dimension, at `s52`; no barrier object in `s0`. -/
def copying (ctl n : Word) : State := State.sregs (State.sregs kernelMode 0 [0xF0000000]) 52 [0, 0, ctl, n, 0, 0, 0, 0, 0, 0, 0, 0]
def copySeen : Here := seen (copying 4 1) (by decide)
def copyDesc : CopyDesc := { form := 0, base := 0, esz := 16, dims := 0, tile := false, n := [1], st := [], dense := 0 }
theorem copyDesc_described : copySeen.describes ⟨52, 0, 4⟩ 0 copyDesc := ⟨4, 0, false, by decide, by decide, by decide, by decide⟩
theorem copyDesc_valid : copyDesc.Valid := by
  refine ⟨by decide, by decide, by decide, by decide, by decide, fun h => absurd h (by decide)⟩
theorem witness_CopyIssues : ∃ c, c.cls ∈ [0] ∧ Commands (copying 4 1) copySeen c := by
  refine ⟨_, .head _, issuing_seen (by decide),
    .copy (.tcopyGl, 0) _ _ (by simp [copyTable]) (by decide) (by decide) (by decide) copyDesc_described copyDesc_valid, .inl (by decide), by simp, ?_⟩
  exact ⟨by decide, fun _ => by decide, by decide⟩

/-- The last subtiles of the claim, of 128 × 128 elements: a multiply, an accumulator scaled in place, one cleared, and a drain to
local memory in FP32 row by row. -/
def multiplying : State := State.sregs (State.sregs kernelMode 0 [0xF0000000]) 60 [0, 16, 112, 0]
def multiplySeen : Here := seen multiplying (by decide)
def scaling : State := State.sregs (State.sregs kernelMode 0 [0xF0000000]) 60 [112, 0xF0000000, 112, 0xF0000000]
def scaleSeen : Here := seen scaling (by decide)
def clearing (t : Word) : State := State.sregs (State.sregs kernelMode 0 [0xF0000000]) 60 [t]
def clearSeen : Here := seen (clearing 112) (by decide)
def draining : State := State.sregs (State.sregs kernelMode 0 [0xF0000000]) 60 [112, 0x20001, 0, 0]
def drainSeen : Here := seen draining (by decide)
theorem witness_MatrixIssues :
    (∃ c, c.instr = .mmaS8 ⟨2, 2, 7, true, 60, 0⟩ ∧ Commands multiplying multiplySeen c ∧ c.cls = 1 ∧ c.lasts = [127]) ∧
    (∃ c, c.instr = .mmaQn4 ⟨2, 2, true, 60, 0⟩ ∧ Commands multiplying multiplySeen c) ∧
    (∃ c, c.instr = .mmaBf16 ⟨2, 2, 15, true, 60, 0⟩ ∧ Commands multiplying multiplySeen c) ∧
    (∃ c, c.instr = .msacc ⟨2, 2, 60, 0⟩ ∧ Commands scaling scaleSeen c) ∧
    (∃ c, c.instr = .mclear ⟨2, 2, 60, 0⟩ ∧ Commands (clearing 112) clearSeen c) ∧
    (∃ c, c.instr = .mdrain ⟨2, 2, 0, false, 60, 0⟩ ∧ Commands draining drainSeen c ∧ c.cls = 4) := by
  have room (s : State) (h : Here) (hc : h.f.counts.getD 1 0 < 255) (hx : mxeUsed s h.g.cluster < 32) : h.room s 1 :=
    ⟨hc, fun e => absurd e (by decide), fun _ => hx⟩
  refine ⟨⟨_, rfl, ⟨issuing_seen (by decide), .multiplyByte (.mmaS8, 0) _ _ (by simp) ⟨by unfold Here.shaped; decide, by decide, by decide, by decide,
      fun _ => by decide, rfl⟩, .inl (by decide), by decide, room _ _ (by decide) (by decide)⟩, rfl, by decide⟩,
    ⟨_, rfl, issuing_seen (by decide), .multiplyQn _ _ ⟨by unfold Here.shaped; decide, by decide, by decide, by decide, fun _ => by decide, rfl⟩,
      .inl (by decide), by decide, room _ _ (by decide) (by decide)⟩,
    ⟨_, rfl, issuing_seen (by decide), .multiplyHalf (.mmaBf16, 5) _ _ (by simp) ⟨by unfold Here.shaped; decide, by decide, by decide, by decide,
      fun _ => by decide, rfl⟩, .inl (by decide), by decide, room _ _ (by decide) (by decide)⟩,
    ⟨_, rfl, issuing_seen (by decide), .scale _ 112 112 _ ⟨by unfold Here.shaped; decide, by decide, by decide, by decide, by decide, .inl rfl,
      .inl (by decide), .inl (by decide), rfl⟩, .inl (by decide), by decide, room _ _ (by decide) (by decide)⟩,
    ⟨_, rfl, issuing_seen (by decide), .clear _ (by unfold Here.shaped; decide) (by decide), .inl (by decide), by decide,
      room _ _ (by decide) (by decide)⟩,
    ⟨_, rfl, ⟨issuing_seen (by decide), .drain (.mdrain, false) _ _ (by simp) ⟨by unfold Here.shaped; decide, by decide, fun h => absurd h (by decide),
      by decide, by decide, by decide, by decide, fun h => absurd h (by decide), by decide, rfl⟩, .inl (by decide), by decide,
      by decide, fun e => absurd e (by decide), fun _ => by decide⟩, rfl⟩⟩

/-- A trace that appends to a list context of local memory, and a collective of one element of handle 65,535. -/
def tracing : State := State.sregs kernelMode 52 [0, 0, 0, 0, 1, 2, 0, 0, 16, 0, 0x10000, 0xF0000000]
def traceSeen : Here := seen tracing (by decide)
theorem plain_trace : Plain traceSeen := ⟨by decide, by decide, by decide, by decide, by decide⟩
def collecting : State := State.sregs (State.sregs kernelMode 0 [0xF0000000]) 58 [0, 0, 1, 0, 0, 0]
def collectSeen : Here := seen collecting (by decide)
/-- The same with a group at handle 0, of which this device is the only member. -/
def grouped : State := { collecting with colCount := 1, dram := collecting.dram.writeN 0 [1, 0, 0, 0, 7] }
def groupSeen : Here := seen grouped (by decide)
/-- What an issue of `coll.red` in FP32 identifies. -/
def oneKey (handle : Nat) : CollKey := { handle, epoch := 0, count := 0, op := 8, fmt := 0, c := 1, root := 0 }
theorem collects_one : collectSeen.collects 8 ⟨58, 0, 2⟩ (oneKey 0) ∧ groupSeen.collects 8 ⟨58, 0, 2⟩ (oneKey 0) := by
  constructor <;> unfold Here.collects <;> decide
theorem witness_TraceAndCollectiveIssues :
    (∃ c, c.instr = .trace ⟨116, 118, 52⟩ ∧ c.cls ∈ [2] ∧ c.status = 0 ∧ Commands tracing traceSeen c) ∧
    (Issuing collecting collectSeen ∧ collectSeen.collects 8 ⟨58, 0, 2⟩ (oneKey 0) ∧ BarrierOk (collectSeen.sreg 0) ∧
      collectSeen.f.counts.getD 3 0 < 255 ∧ ∃ t, readGroup collecting 0 = (t, none)) ∧
    (Issuing grouped groupSeen ∧ groupSeen.collects 8 ⟨58, 0, 2⟩ (oneKey 0) ∧ BarrierOk (groupSeen.sreg 0) ∧
      groupSeen.f.counts.getD 3 0 < 255 ∧
      ∃ t x, readGroup grouped 0 = (t, some x) ∧ (oneKey 0).root < x.count ∧ ownRange t 0 4 = true ∧ ownRange t 0 48 = true ∧
        x.devs.headD 0 = t.devId.toNat ∧ ¬2 < x.count) := by
  refine ⟨⟨_, rfl, .head _, rfl, issuing_seen (by decide), .trace _ _ 0 ⟨by decide, by decide, by decide, by decide, by decide, by decide, by decide,
      plain_trace.readsPair (by decide) (by decide), plain_trace.readsPair (by decide) (by decide), by decide, by decide, ?_, rfl⟩,
      .inl (by decide), by simp, by decide, fun e => absurd e (by decide), by decide⟩,
    ⟨issuing_seen (by decide), collects_one.1, .inl (by decide), by decide, pair_of (by decide +kernel)⟩,
    ⟨issuing_seen (by decide), collects_one.2, .inl (by decide), by decide, (readGroup grouped 0).1, { epoch := 7, rank := 0, count := 1, devs := [0] },
      pair_eq (by decide +kernel), by decide, by decide +kernel, by decide +kernel, by decide +kernel, by decide⟩⟩
  rw [if_pos (by decide)]
  exact ⟨(listCtx ((List.range 5).map fun k => traceSeen.sreg (58 + k))).get (by decide), by simp, by decide, by decide, by decide⟩

end Sys2Proof.Tests
namespace Sys2Proof.Tests

open Sys2Proof Sys2Proof.Machine
/-- Counters at their greatest value. -/
def fullCounters (s : State) : State := State.fibre s fun f => { f with counts := [255, 255, 255, 255, 255] }
/-- The first core, or its cluster's matrix unit, has all the operations that it can hold. -/
def crowded (s : State) (cls n : Nat) : State :=
  { s with ops := (List.range n).map fun k => (k, { kind := .mclear 32 32 0, gang := 0, launch := 0, tag := 0, wave := 0, fibre := 0
                                                    pc := 0, lanes := 1, seq := 0, cls, bar := none, issued := 0, cluster := 0, core := 0 }) }
def fullCopy : State := fullCounters (copying 4 1)
def fullCopySeen : Here := seen fullCopy (by decide)
def crowdedCopy : State := crowded (copying 4 1) 0 96
def crowdedCopySeen : Here := seen crowdedCopy (by decide)
def crowdedClear : State := crowded (clearing 112) 1 32
def crowdedClearSeen : Here := seen crowdedClear (by decide)
def fullColl : State := fullCounters collecting
def fullCollSeen : Here := seen fullColl (by decide)
/-- No element size of 2 ^ 5; a count of 0; a barrier object off its boundary; an accumulator one subtile beyond the claim; none of
that number; rows off their boundary. -/
def noForm : Here := seen (copying 5 1) (by decide)
def noCount : Here := seen (copying 4 0) (by decide)
def offBarrier : State := State.sregs (copying 4 1) 0 [8]
def offBarrierSeen : Here := seen offBarrier (by decide)
def offColl : State := State.sregs collecting 0 [8]
def offCollSeen : Here := seen offColl (by decide)
def beyondClaim : Here := seen (clearing 113) (by decide)
def beyondTiles : Here := seen (clearing 128) (by decide)
def offRows : Here := seen (clearing 8) (by decide)
theorem witness_CommandStops :
    (∃ c, Issuing fullCopy fullCopySeen ∧ Accepts fullCopySeen c ∧ BarrierOk c.bar ∧ (∀ t ∈ c.lasts, t < 8 * fullCopySeen.g.hdr.acc) ∧
      255 ≤ fullCopySeen.f.counts.getD c.cls 0) ∧
    (∃ c, Issuing crowdedCopy crowdedCopySeen ∧ Accepts crowdedCopySeen c ∧ BarrierOk c.bar ∧ c.cls = 0 ∧
      crowdedCopySeen.f.counts.getD 0 0 < 255 ∧ 96 ≤ aceUsed crowdedCopy crowdedCopySeen.g.cluster crowdedCopySeen.coreOf) ∧
    (∃ c, Issuing crowdedClear crowdedClearSeen ∧ Accepts crowdedClearSeen c ∧ BarrierOk c.bar ∧ c.cls = 1 ∧
      crowdedClearSeen.f.counts.getD 1 0 < 255 ∧ 32 ≤ mxeUsed crowdedClear crowdedClearSeen.g.cluster) ∧
    (Issuing fullColl fullCollSeen ∧ fullCollSeen.collects 8 ⟨58, 0, 2⟩ (oneKey 0) ∧ BarrierOk (fullCollSeen.sreg 0) ∧
      255 ≤ fullCollSeen.f.counts.getD 3 0) := by
  refine ⟨⟨_, issuing_seen (by decide), .copy (.tcopyGl, 0) ⟨52, 0, 4⟩ copyDesc (by simp [copyTable]) (by decide) (by decide) (by decide)
      ⟨4, 0, false, by decide, by decide, by decide, by decide⟩ copyDesc_valid, .inl (by decide), by simp, by decide⟩,
    ⟨_, issuing_seen (by decide), .copy (.tcopyGl, 0) ⟨52, 0, 4⟩ copyDesc (by simp [copyTable]) (by decide) (by decide) (by decide)
      ⟨4, 0, false, by decide, by decide, by decide, by decide⟩ copyDesc_valid, .inl (by decide), rfl, by decide, by decide +kernel⟩,
    ⟨_, issuing_seen (by decide), .clear ⟨2, 2, 60, 0⟩ (by unfold Here.shaped; decide) (by decide), .inl (by decide), rfl, by decide,
      by decide +kernel⟩,
    ⟨issuing_seen (by decide), by unfold Here.collects; decide, .inl (by decide), by decide⟩⟩
theorem witness_CommandStops_traps :
    (Issuing handlerMode handler ∧ AsyncCommand (.trace ⟨0, 0, 0⟩) ∧ handler.i.sup = true) ∧
    (∃ c, Issuing offBarrier offBarrierSeen ∧ Accepts offBarrierSeen c ∧ ¬BarrierOk c.bar) ∧
    (∃ c, Issuing (clearing 113) beyondClaim ∧ Accepts beyondClaim c ∧ BarrierOk c.bar ∧
      c.lasts.find? (fun t => decide (8 * beyondClaim.g.hdr.acc ≤ t)) = some 128) ∧
    (Issuing offColl offCollSeen ∧ offCollSeen.collects 8 ⟨58, 0, 2⟩ (oneKey 0) ∧ ¬BarrierOk (offCollSeen.sreg 0)) ∧
    (Issuing (copying 5 1) noForm ∧ ∀ c, noForm.describes ⟨52, 0, 4⟩ 0 c → ¬c.Valid) ∧
    (Issuing (copying 4 0) noCount ∧ noCount.describes ⟨52, 0, 4⟩ 0 { copyDesc with n := [0] } ∧ ¬({ copyDesc with n := [0] } : CopyDesc).Valid) ∧
    (Issuing (clearing 128) beyondTiles ∧ beyondTiles.shaped 2 2 60 ∧ 128 ≤ (beyondTiles.sreg 60).toNat) ∧
    (Issuing (clearing 8) offRows ∧ offRows.shaped 2 2 60 ∧ (offRows.sreg (60 + 2)).toNat < 256 ∧ (offRows.sreg 60).toNat % 16 ≠ 0) := by
  have off {x : Word} (h : x = 8) : ¬BarrierOk x := by rintro (h1 | h1) <;> rw [h] at h1 <;> exact absurd h1 (by decide)
  refine ⟨⟨issuing_handler, .trace _, by decide⟩,
    ⟨_, issuing_seen (by decide), .copy (.tcopyGl, 0) ⟨52, 0, 4⟩ copyDesc (by simp [copyTable]) (by decide) (by decide) (by decide)
      ⟨4, 0, false, by decide, by decide, by decide, by decide⟩ copyDesc_valid, off (by decide)⟩,
    ⟨_, issuing_seen (by decide), .clear ⟨2, 2, 60, 0⟩ (by unfold Here.shaped; decide) (by decide), .inl (by decide), by decide⟩,
    ⟨issuing_seen (by decide), by unfold Here.collects; decide, off (by decide)⟩, ⟨issuing_seen (by decide), ?_⟩,
    ⟨issuing_seen (by decide), ⟨4, 0, false, by decide, by decide, by decide, by decide⟩, fun h => h.1 0 (by decide) rfl⟩,
    ⟨issuing_seen (by decide), by unfold Here.shaped; decide, by decide⟩,
    ⟨issuing_seen (by decide), by unfold Here.shaped; decide, by decide, by decide⟩⟩
  rintro c ⟨e, d, tile, he, hd, h, -⟩
  have h5 : (noForm.sreg (52 + 2)).toNat = 5 := by decide
  change (noForm.sreg (52 + 2)).toNat = _ at h
  rw [h5] at h
  split at h <;> omega

/-! ### Waits -/

theorem seated_kernel : kernel.seated kernelMode := ⟨by decide, by decide, by decide, by decide⟩
/-- Three copies are outstanding. -/
def outstanding : State := State.fibre kernelMode fun f => { f with counts := [3, 0, 0, 0, 0] }
def outstandingSeen : Here := seen outstanding (by decide)
/-- A deadline that never comes, in `s2` and `s3`; `s0` and `s1` hold the barrier object at 16 and the count 1. -/
def awaiting : State := State.sregs outstanding 0 [16, 1, 0xFFFFFFFF, 0x7FFFFFFF]
def awaitingSeen : Here := seen awaiting (by decide)
theorem witness_CounterAndBarrierWaits :
    (Issuing outstanding outstandingSeen ∧ outstandingSeen.seated outstanding ∧ outstandingSeen.canWait 63 31 ∧ (4 : BitVec 3).toNat ≤ 4 ∧
      outstandingSeen.f.counts.getD 4 0 ≤ (0 : BitVec 8).toNat ∧ ¬outstandingSeen.f.counts.getD 0 0 ≤ (2 : BitVec 8).toNat ∧
      outstandingSeen.late outstanding (outstandingSeen.until 0) = true ∧ awaitingSeen.late awaiting (awaitingSeen.until 1) = false) ∧
    (hereOf outstanding = some outstandingSeen ∧ (62 : BitVec 6).toNat + 1 < 64 ∧ fenceWriteBack outstanding = (outstanding, none) ∧
      (outstandingSeen.drained outstanding 0x3E).toNat = 0x3E ∧ (outstandingSeen.drained outstanding 0x3F).toNat ≠ 0x3F ∧
      outstandingSeen.drained outstanding 1 = 0) ∧
    (Issuing awaiting awaitingSeen ∧ awaitingSeen.seated awaiting ∧ (awaitingSeen.sreg 0).toNat % 16 = 0 ∧ awaitingSeen.plainLocal awaiting 16 ∧
      awaitingSeen.unlogged ∧ (barrierAt awaiting 0 awaitingSeen.g.hdr 16).phase ≠ true ∧ (barrierAt awaiting 0 awaitingSeen.g.hdr 16).phase = false ∧
      (awaitingSeen.sreg 1).toNat % 16 ≠ 0) := by
  refine ⟨⟨issuing_seen (by decide), ⟨by decide, by decide, by decide, by decide⟩, ?_, by decide, by decide, by decide, by decide, by decide⟩,
    ⟨rfl, by decide, ?_, by decide, by decide, by decide⟩,
    ⟨issuing_seen (by decide), ⟨by decide, by decide, by decide, by decide⟩, by decide, ⟨⟨16, by decide⟩, by decide, by decide⟩, .inl (by decide), by decide,
      by decide, by decide⟩⟩
  · unfold Here.canWait; decide
  · exact Prod.ext rfl (by decide)

/-- A word at address 0 that is 5, and `s0` to `s3`: its address, and what it is compared with. -/
def monitoring (v : Word) : State :=
  let s := State.sregs kernelMode 0 [0, 0, v, 0]
  { s with dram := s.dram.writeN 0 [5] }
def seesFive : Here := seen (monitoring 5) (by decide)
def seesOther : Here := seen (monitoring 6) (by decide)
def checkedAt (h : Here) (s : State) (k : Kind) : State := (checkUnits h s k [{ lane := 0, unit := 0, addr := 0 }]).1
/-- A grid barrier at address 0: the last arrival, and the first of two. -/
def gathering (pend : Byte) : State :=
  let s := State.sregs kernelMode 0 [0, 0, 0xFFFFFFFF, 0x7FFFFFFF]
  { s with dram := s.dram.writeN 0 [2, 0, 0, 0, pend] }
def lastSeen : Here := seen (gathering 1) (by decide)
def firstSeen : Here := seen (gathering 2) (by decide)
/-- The barrier after the first arrival, checked again for its withdrawal. -/
def arrivedAt : State :=
  let t := checkedAt firstSeen (gathering 2) gbarKind
  putGrid t 0 { gridAt t 0 with pend := (gridAt t 0).pend - 1 } firstSeen.writer
def withdrawn : State × Acc := check arrivedAt (some firstSeen.g.tag) 0 rightAtomic true true false
theorem witness_MonitorAndGridWaits :
    (Issuing (monitoring 5) seesFive ∧ seesFive.canWait 63 31 ∧ (58 : BitVec 6).toNat ≤ 58 ∧ 0 + 4 + 1 < 64 ∧
      seesFive.granted (monitoring 5) loadKind [{ lane := 0, unit := 0, addr := 0 }] (checkedAt seesFive (monitoring 5) loadKind) ∧
      condHolds 0 (ofBytes (readGlobal (checkedAt seesFive (monitoring 5) loadKind) 0 4)) 5) ∧
    (Issuing (monitoring 6) seesOther ∧
      seesOther.granted (monitoring 6) loadKind [{ lane := 0, unit := 0, addr := 0 }] (checkedAt seesOther (monitoring 6) loadKind) ∧
      ¬condHolds 0 (ofBytes (readGlobal (checkedAt seesOther (monitoring 6) loadKind) 0 4)) 6 ∧ hereOf (checkedAt seesOther (monitoring 6) loadKind) = some seesOther ∧
      seesOther.seated (checkedAt seesOther (monitoring 6) loadKind) ∧ seesOther.late (checkedAt seesOther (monitoring 6) loadKind) (seesOther.until 31) = true ∧
      tableUsed (checkedAt seesOther (monitoring 6) loadKind) (sliceOf 0) < 128) ∧
    (Issuing (gathering 1) lastSeen ∧ lastSeen.granted (gathering 1) gbarKind [{ lane := 0, unit := 0, addr := 0 }] (checkedAt lastSeen (gathering 1) gbarKind) ∧
      hereOf (checkedAt lastSeen (gathering 1) gbarKind) = some lastSeen ∧ (gridAt (checkedAt lastSeen (gathering 1) gbarKind) 0).pend ≤ 1 ∧ lastSeen.unlogged) ∧
    (Issuing (gathering 2) firstSeen ∧ firstSeen.granted (gathering 2) gbarKind [{ lane := 0, unit := 0, addr := 0 }] (checkedAt firstSeen (gathering 2) gbarKind) ∧
      1 < (gridAt (checkedAt firstSeen (gathering 2) gbarKind) 0).pend ∧ firstSeen.seated (checkedAt firstSeen (gathering 2) gbarKind) ∧
      firstSeen.late (checkedAt firstSeen (gathering 2) gbarKind) (firstSeen.until 1) = false ∧
      firstSeen.late (checkedAt firstSeen (gathering 2) gbarKind) (firstSeen.until 31) = true ∧ withdrawn.2 = .ok ∧
      (gridAt withdrawn.1 0).gen = (gridAt (checkedAt firstSeen (gathering 2) gbarKind) 0).gen) := by
  refine ⟨⟨issuing_seen (by decide), by unfold Here.canWait; decide, by decide, by decide, granted_of (by decide +kernel), ?_⟩,
    ⟨issuing_seen (by decide), granted_of (by decide +kernel), ?_, rfl, ⟨by decide, by decide, by decide, by decide +kernel⟩, by decide +kernel, by decide +kernel⟩,
    ⟨issuing_seen (by decide), granted_of (by decide +kernel), rfl, by decide +kernel, .inl (by decide)⟩,
    ⟨issuing_seen (by decide), granted_of (by decide +kernel), by decide +kernel, ⟨by decide, by decide, by decide, by decide +kernel⟩, by decide +kernel,
      by decide +kernel, by decide +kernel, by decide +kernel⟩⟩
  · change ofBytes _ = 5; decide +kernel
  · change ¬ofBytes _ = 6; decide +kernel

end Sys2Proof.Tests
namespace Sys2Proof.Tests

open Sys2Proof Sys2Proof.Machine

/-- A stage queue of two one-word entries at local offset 16, with so many entries behind HEAD; its offset in `s0`, and a deadline
that never comes in `s2` and `s3`. -/
def queueing (tail : Byte) : State :=
  modGang (State.sregs kernelMode 0 [16, 7, 0xFFFFFFFF, 0x7FFFFFFF]) 0 fun g => { g with mem := Memory.writeN [] 16 [1, 0, 0, 0, 0, 0, 0, 0, tail] }
def queueSeen (tail : Byte) (h : (hereOf (queueing tail)).isSome = true) : Here := seen (queueing tail) h
def emptyQueue : Here := seen (queueing 0) (by decide)
def fullQueue : Here := seen (queueing 2) (by decide)
/-- No queue at 32, whose first word is 0; and an offset in the aperture. -/
def noQueue : State := State.sregs (queueing 0) 0 [32]
def noQueueSeen : Here := seen noQueue (by decide)
def apertureQueue : State := State.sregs (queueing 0) 0 [0x10000000]
def apertureQueueSeen : Here := seen apertureQueue (by decide)
/-- A header outside local memory. -/
def strayQueue : State := State.sregs (queueing 0) 0 [0xE0000000]
def strayQueueSeen : Here := seen strayQueue (by decide)

/-- A wave of two fibres, of which the second is done, or waits at the barrier of both, or has not arrived. -/
def twoFibres (g : Fibre → Fibre) : State :=
  State.sregs (modWave kernelMode 0 fun w => { w with fibres := w.fibres ++ w.fibres.map g }) 2 [0xFFFFFFFF, 0x7FFFFFFF]
def otherDone : State := twoFibres fun f => { f with state := .done }
def otherDoneSeen : Here := seen otherDone (by decide)
def barrierWait : Wait := { kind := .fbar 3, pc := 192, next := 196, lanes := BitVec.allOnes 32, st := 0, sup := false, deadline := .never, ides := 0, gen := 0, last := 0, since := 0, monitor := none }
def otherArrived : State := twoFibres fun f => { f with state := .fbarrier, wait := some barrierWait }
def otherArrivedSeen : Here := seen otherArrived (by decide)
def otherAway : State := twoFibres fun f => { f with state := .ready }
def otherAwaySeen : Here := seen otherAway (by decide)

/-- Two waves; the strands of the first are inside a section, or outside. -/
def inSection : State := State.fibre kernelMode fun f => { f with proc := [(31, { inside := true, order := 4 })] }
def inSectionSeen : Here := seen inSection (by decide)
/-- The other wave's strands admit no order yet. -/
def behind : State := { State.sregs kernelMode 2 [0xFFFFFFFF, 0x7FFFFFFF] with
  waves := (State.sregs kernelMode 2 [0xFFFFFFFF, 0x7FFFFFFF]).waves ++ (placed.waves.map fun p => (1, { p.2 with slot := 1, index := 1 })) }
def behindSeen : Here := seen behind (by decide)
/-- Whether every strand of the group is admitted, each with a key of its own and an order. -/
def admits (s : State) (h : Here) (order : Nat) : Bool :=
  groupInside (admitGroup ((lanesIn h.i.lanes).foldl (fun s i => registerLane s h.i.wave h.i.fibre i (BitVec.ofNat 32 i) order) s) h.i.wave h.i.fibre h.i.lanes)
    h.i.wave h.i.fibre h.i.lanes

theorem witness_QueueAndFibreWaits :
    (Issuing (queueing 0) emptyQueue ∧ emptyQueue.seated (queueing 0) ∧ emptyQueue.canWait 63 1 ∧ (59 : BitVec 6).toNat ≤ 59 ∧
      (emptyQueue.sreg 0).toNat % 16 = 0 ∧ emptyQueue.plain 16 ∧ isAperture 16 = false ∧
      (∃ q, queueAt (queueing 0) 0 emptyQueue.g.hdr 16 = some q ∧ 0 + q.words < 64 ∧ q.head = q.tail ∧ (q.tail + 2 ^ 32 - q.head) % 2 ^ 32 < 2 ^ q.log) ∧
      emptyQueue.late (queueing 0) (emptyQueue.until 1) = false ∧ emptyQueue.late (queueing 0) (emptyQueue.until 31) = true) ∧
    (localPoison (queueing 0) 0 emptyQueue.g.hdr 16 16 = false ∧ localPoison (queueing 2) 0 fullQueue.g.hdr 20 4 = false) ∧
    (Issuing (queueing 2) fullQueue ∧ fullQueue.seated (queueing 2) ∧ ∃ q, queueAt (queueing 2) 0 fullQueue.g.hdr 16 = some q ∧ q.head ≠ q.tail ∧
      2 ^ q.log ≤ (q.tail + 2 ^ 32 - q.head) % 2 ^ 32) ∧
    (Issuing strayQueue strayQueueSeen ∧ strayQueueSeen.seated strayQueue ∧ (strayQueueSeen.sreg 0).toNat % 16 = 0 ∧
      isStray strayQueueSeen.g.hdr (strayQueueSeen.sreg 0).toNat = true) ∧
    (Issuing noQueue noQueueSeen ∧ noQueueSeen.seated noQueue ∧ localPoison noQueue 0 noQueueSeen.g.hdr 32 16 = false ∧ noQueueSeen.plain 32 ∧ queueAt noQueue 0 noQueueSeen.g.hdr 32 = none) ∧
    (Issuing apertureQueue apertureQueueSeen ∧ isAperture (apertureQueueSeen.sreg 0).toNat = true ∧ (apertureQueueSeen.sreg 0).toNat % 16 = 0) ∧
    (Issuing otherDone otherDoneSeen ∧ otherDoneSeen.seated otherDone ∧ (3 : BitVec 4).getLsbD otherDoneSeen.i.fibre = true ∧ otherDoneSeen.unlogged ∧
      otherDoneSeen.canWait 63 31 ∧ otherDoneSeen.w.fibres[1]?.map (fun f => (f.state, f.wait)) = some (.done, none)) ∧
    (Issuing otherArrived otherArrivedSeen ∧ otherArrivedSeen.seated otherArrived ∧
      otherArrivedSeen.w.fibres[1]?.map (fun f => f.wait.map (·.kind)) = some (some (.fbar 3))) ∧
    (Issuing otherAway otherAwaySeen ∧ otherAwaySeen.seated otherAway ∧ otherAwaySeen.w.fibres[1]?.map (fun f => (f.state, f.wait)) = some (.ready, none) ∧
      otherAwaySeen.late otherAway (otherAwaySeen.until 0) = true ∧ otherAwaySeen.late otherAway (otherAwaySeen.until 1) = false) ∧
    (Issuing inSection inSectionSeen ∧ inSectionSeen.seated inSection ∧ (inSectionSeen.f.procAt 31).inside = true ∧ inSectionSeen.canRead 118 false none ∧
      inSectionSeen.canRead 119 false none) ∧
    (Issuing behind behindSeen ∧ behindSeen.seated behind ∧ (∀ i ∈ lanesIn behindSeen.i.lanes, (behindSeen.f.procAt i).registered = false ∧
      (behindSeen.f.procAt i).inside = false ∧ (behindSeen.f.procAt i).floor = some 0) ∧ behindSeen.late behind (behindSeen.until 1) = false ∧
      behindSeen.late behind (behindSeen.until 31) = true ∧ admits behind behindSeen 1 = false ∧ admits kernelMode kernel 0 = true) := by
  have P : Plain inSectionSeen := ⟨by decide, by decide, by decide, by decide, by decide⟩
  refine ⟨⟨issuing_seen (by decide), ⟨by decide, by decide, by decide, by decide⟩, by unfold Here.canWait; decide, by decide, by decide, ⟨16, by decide⟩, by decide,
      ⟨{ log := 1, words := 1, head := 0, tail := 0 }, by decide, by decide, by decide, by decide⟩, by decide, by decide⟩, ⟨by decide, by decide⟩,
    ⟨issuing_seen (by decide), ⟨by decide, by decide, by decide, by decide⟩, { log := 1, words := 1, head := 0, tail := 2 }, by decide, by decide, by decide⟩,
    ⟨issuing_seen (by decide), ⟨by decide, by decide, by decide, by decide⟩, by decide, by decide⟩,
    ⟨issuing_seen (by decide), ⟨by decide, by decide, by decide, by decide⟩, by decide, ⟨32, by decide⟩, by decide⟩, ⟨issuing_seen (by decide), by decide, by decide⟩,
    ⟨issuing_seen (by decide), ⟨by decide, by decide, by decide, by decide⟩, by decide, .inl (by decide), by unfold Here.canWait; decide, by decide⟩,
    ⟨issuing_seen (by decide), ⟨by decide, by decide, by decide, by decide⟩, by decide⟩,
    ⟨issuing_seen (by decide), ⟨by decide, by decide, by decide, by decide⟩, by decide, by decide, by decide⟩,
    ⟨issuing_seen (by decide), ⟨by decide, by decide, by decide, by decide⟩, by decide, P.reads (by decide), P.reads (by decide)⟩,
    ⟨issuing_seen (by decide), ⟨by decide, by decide, by decide, by decide⟩, by decide, by decide, by decide, by decide +kernel, by decide +kernel⟩⟩

theorem Plain.hasBlock {h : Here} (P : Plain h) {c : BitVec 7} {n : Nat} (hc : c.toNat + n ≤ 120) : h.hasBlock c n :=
  ⟨hc, fun _ _ => P.ready (by omega)⟩
theorem Plain.readsBlock {h : Here} (P : Plain h) {c : BitVec 7} {n : Nat} (hc : c.toNat + n ≤ 120) : h.readsBlock c n :=
  ⟨P.hasBlock hc, fun _ _ => P.sound _⟩
/-- A triangle over the block, in `s56` to `s63`; and a CVU that holds 16. -/
def covering : State := State.sregs kernelMode 56 [0, 0, 4096, 0, 0, 4096, 7, 0]
def coverSeen : Here := seen covering (by decide)
def fullCvu : State := modWave covering 0 fun w => { w with pending := (List.range 16).map fun k => (k, { kind := .cover, writes := [], fibre := 0 }) }
def fullCvuSeen : Here := seen fullCvu (by decide)
theorem witness_CoverageAndBvhAids :
    (Issuing covering coverSeen ∧ (56 : BitVec 6).toNat ≤ 56 ∧ coverSeen.hasBlock 117 3 ∧ (coverSeen.sreg 62).toNat < 8 ∧ cvuUsed covering 0 < 16) ∧
    (Issuing fullCvu fullCvuSeen ∧ fullCvuSeen.hasBlock 117 3 ∧ (fullCvuSeen.sreg 62).toNat < 8 ∧ 16 ≤ cvuUsed fullCvu fullCvuSeen.g.cluster) ∧
    (Issuing kernelMode kernel ∧ kernel.readsBlock 114 6 ∧ kernel.hasBlock 119 1 ∧ kernel.readsBlock 112 7 ∧ kernel.hasBlock 117 3 ∧
      (58 : BitVec 6).toNat + 5 < (if kernel.i.sup then 16 else 64)) := by
  have P : Plain coverSeen := ⟨by decide, by decide, by decide, by decide, by decide⟩
  refine ⟨⟨issuing_seen (by decide), by decide, P.hasBlock (by decide), by decide, by decide⟩,
    ⟨issuing_seen (by decide), ⟨by decide, fun j hj => ?_⟩, by decide, by decide⟩,
    ⟨issuing_kernel, plain_kernel.readsBlock (by decide), plain_kernel.hasBlock (by decide), plain_kernel.readsBlock (by decide),
      plain_kernel.hasBlock (by decide), by decide⟩⟩
  · have h0 : fullCvuSeen.f.wbase = 0 := by decide
    refine ⟨?_, fun p hp => ?_⟩
    · rw [if_neg (by decide), h0, show (fullCvuSeen.g.hdr.winOf fullCvuSeen.i.fibre).2 = 128 from by decide]
      change 0 + (117 + j) < 128
      omega
    · have hw : p.2.writes = [] := by
        have : ∀ p ∈ fullCvuSeen.w.pending, p.2.writes = [] := by decide
        exact this p hp
      simp [hw]

/-- Boxes: a NaN, minima above maxima, an infinite extent, numbers. -/
def nanBox : List Nat := [0x7FC00000, 0, 0, 0, 0, 0, 1]
def invertedBox : List Nat := [0x3F800000, 0, 0, 0, 0, 0, 1]
def infiniteBox : List Nat := [0, 0, 0, 0x7F800000, 0, 0, 1]
def pointBox : List Nat := [0, 0, 0, 0, 0, 0, 1]
theorem isNumber_point : ∀ k < 6, IsNumber (boxValue pointBox k) 0 (2 ^ 149) := by
  intro k hk
  have h : ∀ k < 6, boxValue pointBox k = .fin false 0 (2 ^ 149) := by decide
  exact ⟨by decide, false, 0, h k hk, rfl⟩
theorem witness_CoverageAndBvhAids_values :
    (∃ k < 6, (boxValue nanBox k).isNan = true) ∧
    ((∀ k < 6, (boxValue invertedBox k).isNan = false) ∧ ∃ k < 3, (boxValue invertedBox (k + 3)).lt (boxValue invertedBox k) = true) ∧
    (infiniteBox.getD 6 0 ≠ 0 ∧ (∀ k < 3, (boxValue infiniteBox (k + 3)).lt (boxValue infiniteBox k) = false) ∧
      ∃ k < 3, boxValue infiniteBox (k + 3) = .inf false ∧ boxValue infiniteBox k ≠ .inf false) ∧
    ((∀ k < 6, (boxValue pointBox k).isNan = false) ∧ (∀ k < 3, (boxValue pointBox (k + 3)).lt (boxValue pointBox k) = false) ∧
      ∃ (n : Nat → Int) (d : Nat → Nat), ∀ k < 6, IsNumber (boxValue pointBox k) (n k) (d k)) ∧
    ¬∃ n d, IsNumber (boxValue infiniteBox 3) n d := by
  refine ⟨by decide, by decide, by decide, ⟨by decide, by decide, fun _ => 0, fun _ => 2 ^ 149, isNumber_point⟩, ?_⟩
  have h : boxValue infiniteBox 3 = .inf false := by decide
  rintro ⟨n, d, -, s, m, h', -⟩
  rw [h] at h'
  cases h'

/-- A list context over local memory: heads from 0 on, the pool at 1024. -/
def listing : State := State.sregs kernelMode 58 [0, 0, 1024, 0, 0x10000]
def listSeen : Here := seen listing (by decide)
def listed : ListCtx := { imm := false, head := 0, pool := 1024, budget := 1, pitch := 1 }
/-- The head entry, and the number of nodes used and of pages of the pool, whose directory is at 2048 and whose only page is at 4096;
node 0 is the last of its list. -/
def listState (hd : List Byte) (free pages : Byte) : State :=
  modGang listing 0 fun g => { g with mem :=
    (((Memory.writeN [] 0 hd).writeN 1024 [free, 0, 0, 0, pages, 0, 0, 0, 0, 8]).writeN 2048 [0, 16]).writeN 4108 [0xFF, 0xFF, 0x0F] }
def listEnv : ListEnv := { tag := some 0, gang := 0, hdr := listSeen.g.hdr, who := (0, 0, 0) }
/-- The list read as far as FREE: its head entry, its pool's pages, its nodes. -/
def listRead4 (s : State) : Except ListStop (ListRun × Nat × Pool × List Node × Nat) := do
  let x ← listRead listEnv listed { s := s } 0 4
  let p ← readPool listEnv listed x.1
  let n ← readNodes listEnv listed p.2 (x.2 / 2 ^ 20 % 32) (x.2 % 2 ^ 20) p.1 []
  let f ← listRead listEnv listed n.1 listed.pool 4
  pure (f.1, x.2, p.2, n.2, f.2)
/-- What the head entry, the pages, the nodes' indices and FREE are read as. -/
def listFound (s : State) : Option (Nat × Nat × List Nat × Nat) :=
  (listRead4 s).toOption.map fun x => (x.2.1, x.2.2.1.pages, x.2.2.2.1.map (·.index), x.2.2.2.2)
/-- Whether a further step succeeds on the list as it has been read. -/
def thenList (s : State) (f : ListRun → Nat → Pool → List Node → Nat → Except ListStop ListRun) : Bool :=
  (do
    let x ← listRead4 s
    f x.1 x.2.1 x.2.2.1 x.2.2.2.1 x.2.2.2.2).isOk
/-- Reading the head entry and the pool succeeds, and reading the nodes meets a broken list. -/
def listBroken (s : State) : Bool :=
  (do
    let x ← listRead listEnv listed { s := s } 0 4
    let p ← readPool listEnv listed x.1
    match readNodes listEnv listed p.2 (x.2 / 2 ^ 20 % 32) (x.2 % 2 ^ 20) p.1 [] with
    | .error (.broken _) => pure true
    | _ => pure false).toOption.getD false
def newFragment : Fragment := { payload := 1, depth := 2, order := 3 }
theorem witness_FragmentLists_outcomes :
    -- an empty list, with a node to spare and without
    (listFound (listState [] 0 1) = some (0, 1, [], 0) ∧
      thenList (listState [] 0 1) (fun r hd p ns free => linkNode listEnv listed p r 0 hd ns free newFragment) = true) ∧
    listFound (listState [] 0 0) = some (0, 0, [], 0) ∧
    -- a list at its budget
    (listFound (listState [0, 0, 0x10] 1 1) = some (0x100000, 1, [0], 1) ∧
      thenList (listState [0, 0, 0x10] 1 1) (fun r hd _ ns _ => do
        let r ← refill listEnv listed r (ns.map fun n => (n, newFragment))
        listWrite listEnv listed r 0 4 (hd + 2 ^ 25)) = true) ∧
    -- a tail is pending; and one without a node
    (listFound (listState [0, 0, 0x10, 2] 1 1) = some (0x2100000, 1, [0], 1) ∧
      thenList (listState [0, 0, 0x10, 2] 1 1) (fun r hd _ ns _ => do
        let r ← putNode listEnv listed r ((ns.map (·.addr)).headD 0) newFragment listEnd
        listWrite listEnv listed r 0 4 (hd - 2 ^ 25)) = true) ∧
    listFound (listState [0, 0, 0, 2] 1 1) = some (0x2000000, 1, [], 1) ∧
    -- a broken list
    listBroken (listState [0xFF, 0xFF, 0x1F] 1 1) = true := by
  refine ⟨⟨?_, ?_⟩, ?_, ⟨?_, ?_⟩, ⟨?_, ?_⟩, ?_, ?_⟩ <;> decide +kernel
theorem witness_FragmentLists :
    Issuing listing listSeen ∧ (58 : BitVec 6).toNat ≤ 58 ∧ (58 : BitVec 6).toNat + 4 < (if listSeen.i.sup then 16 else 64) ∧ listSeen.readsBlock 115 5 ∧
    listSeen.hasBlock 111 9 ∧ listCtx ((List.range 5).map fun k => listSeen.sreg (58 + k)) = some listed ∧ listed.pool % 16 = 0 ∧
    (∀ u ∈ accessesOf listSeen.i.lanes fun _ => listed.entry 0, u.addr % 4 = 0) ∧
    (∃ r, listLanes listSeen listing listed 1 ((List.range 5).map fun k => listSeen.sreg (58 + k)) (fun _ => List.replicate 5 0)
      (accessesOf listSeen.i.lanes fun _ => listed.entry 0) = .ok r) ∧
    (([] : List Node).map (·.frag)).Pairwise (fun x y => depthKey x.depth < depthKey y.depth) := by
  have P : Plain listSeen := ⟨by decide, by decide, by decide, by decide, by decide⟩
  exact ⟨issuing_seen (by decide), by decide, by decide, P.readsBlock (by decide), P.hasBlock (by decide), by decide, by decide, by decide,
    ok_of (by decide +kernel), .nil⟩

end Sys2Proof.Tests
namespace Sys2Proof.Tests

open Sys2Proof Sys2Proof.Machine

/-- One strand samples a texture of one texel at address 0, whose only tile is not marked at 96. -/
def sampling : State :=
  let s := State.sregs kernelMode 60 [0, 0, 0]
  { s with
    issue := some { issueAt 0 0 1 false 192 with next := 196 }
    dram := s.dram.writeN 0 ([0, 0, 1, 0, 0, 0, 0, 0, 96, 0, 0, 0, 0, 0, 0, 0, 1, 0, 1, 0, 1]) }
def sampleSeen : Here := seen sampling (by decide)
def sampler : Sampler := { addr := 0, linear := false, aniso := 1, bias := 0 }
def texture : Texture := { base := 65536, map := 96, w := 1, h := 1, levels := 1, half := false, fallback := [0, 0, 0, 0] }
def descriptorRead : TexRun × List Byte := readDescriptor sampleSeen 0 0 { s := sampling }
def oneSample : TexRun × Sampled := sampleFrom sampleSeen texture sampler (levelFootprint texture sampler 0 0 0) 0 1 0 descriptorRead.1
/-- The same with its tile marked in a map of device 3, which has answered; the texels may lie beyond the page that is present. -/
def mapBase : Nat := 3 * 2 ^ 57
def marking : State :=
  let s := State.fibre sampling fun f => { f with answers := [{ key := texKey mapBase, status := 0, value := [1] }] }
  { s with
    fabEnable := true, ports := (List.replicate 15 {}) ++ [{ up := true, enable := true, peer := 3 }], routes := [(3, 0x8000)], reach := [3]
    contexts := upd s.contexts 0 fun c => { c with rights := [{ start := 0, pages := 8192, bits := 7 }, { start := mapBase, pages := 1, bits := 7 }] } }
def markSeen : Here := seen marking (by decide)
/-- Whether the tiles of a level's texels are marked, and whether a texel's page is absent. -/
def levelRead (h : Here) (s : State) (t : Texture) : Bool × Bool :=
  let xs := levelTexels t sampler (levelFootprint t sampler 0 0 0) 0
  let m := tilesMarked h t 0 0 { s } xs
  (m.2, (xs.foldl (readTexel h t 0) { run := m.1 : Texels }).absent)
/-- A result that a unit owes to `v127`. -/
def owedResult (k : UnitKind) : Pending := { kind := k, writes := [{ sup := false, reg := 127, lanes := 1, row := rowOf fun _ => 9 }], fibre := 0 }
def owedWave (k : UnitKind) : Wave := { (get? placed.waves 0).get (by decide) with pending := [(5, owedResult k)] }
def owedState (k : UnitKind) : State := { placed with waves := [(0, owedWave k)] }
/-- `rmapinv` of 192 bytes from 0 on, by its operands and in progress; and of none. -/
def droppingSeen : Here := seen (State.sregs kernelMode 60 [0, 0, 192]) (by decide)
def mapWait : Wait := { barrierWait with kind := .rmapinv 0 192 63 [] }
def mapWaiting : State := State.fibre placed fun f => { f with state := .stalled, wait := some mapWait }
theorem witness_SamplesAndUnitResults :
    (Issuing sampling sampleSeen ∧ (60 : BitVec 6).toNat ≤ 60 ∧ (sampleSeen.sreg 60).toNat % 48 = 0 ∧ readSampler (sampleSeen.sreg 62).toNat = some sampler ∧
      sampleSeen.readsBlock 114 6 ∧ sampleSeen.hasBlock 115 5 ∧ lanesIn sampleSeen.i.lanes = [0] ∧
      descriptorRead.1.missing = false ∧ descriptorRead.1.bad = [] ∧ readTexture descriptorRead.2 = some texture ∧
      texture.levels - (levelFootprint texture sampler 0 0 0).level = 1 ∧ oneSample.1.missing = false ∧ oneSample.1.bad = []) ∧
    ((levelRead sampleSeen sampling texture).1 = false ∧ levelRead markSeen marking { texture with map := mapBase } = (true, false) ∧
      levelRead markSeen marking { texture with map := mapBase, base := 49152 * 4096 } = (true, true)) ∧
    (get? (owedState .sample).waves 0 = some (owedWave .sample) ∧ get? (owedWave .sample).pending 5 = some (owedResult .sample) ∧
      (owedResult .sample).kind = .sample ∧ get? (owedState .cover).waves 0 = some (owedWave .cover) ∧
      get? (owedState .list).waves 0 = some (owedWave .list) ∧ 127 < (owedWave .sample).alloc.length ∧
      ((get? placed.waves 0).bind fun x => get? x.pending 5) = none) ∧
    (Issuing (State.sregs kernelMode 60 [0, 0, 192]) droppingSeen ∧ (63 : BitVec 7).toNat < 64 ∧ (60 : BitVec 6).toNat ≤ 61 ∧
      (droppingSeen.sreg 62).toNat = 192 ∧ (kernel.sreg 62).toNat = 0 ∧
      (∃ t, droppingSeen.granted (State.sregs kernelMode 60 [0, 0, 192]) { loadKind with reads := false }
        ((rangeProbes 0 192).zipIdx.map fun x => { lane := 0, unit := x.2, addr := x.1 % 2 ^ 64 }) t) ∧
      (∃ t, kernel.granted kernelMode { loadKind with reads := false } ((rangeProbes 0 0).zipIdx.map fun x => { lane := 0, unit := x.2, addr := x.1 % 2 ^ 64 }) t)) ∧
    (liveWait mapWaiting 0 0 = some mapWait ∧ mapWait.kind = .rmapinv 0 192 63 [] ∧ ∀ y ∈ mapWaiting.waves, ∀ i ∈ ([] : List Nat), get? y.2.pending i = none) := by
  have P : Plain sampleSeen := ⟨by decide, by decide, by decide, by decide, by decide⟩
  refine ⟨⟨issuing_seen (by decide), by decide, by decide, by decide, P.readsBlock (by decide), P.hasBlock (by decide), by decide,
      by decide +kernel, by decide +kernel, by decide +kernel, by decide +kernel,
      by decide +kernel, ?_⟩, ⟨by decide +kernel, by decide +kernel, by decide +kernel⟩,
    ⟨rfl, rfl, rfl, rfl, rfl, by decide +kernel, by decide +kernel⟩,
    ⟨issuing_seen (by decide), by decide, by decide, by decide, by decide, ⟨_, granted_of (by decide +kernel)⟩, ⟨_, granted_of (by decide +kernel)⟩⟩,
    ⟨by decide, rfl, by decide⟩⟩
  rfl

/-- A fibre in scout mode. -/
def scout : Scout := { cp := { pcs := [], exited := 0, s := [], m := [], wbase := 0, regs := [] }, pages := [], code := 14, addr := 192, info := 0, lanes := BitVec.allOnes 32, ended := true }
def scouting : State := State.fibre kernelMode fun f => { f with scout := some scout, state := .scout }
def scoutSeen : Here := seen scouting (by decide)
/-- A handler that would return to an odd address. -/
def oddReturn : State := State.fibre handlerMode fun f => { f with trap := { f.trap with ret := 197 } }
def oddReturnSeen : Here := seen oddReturn (by decide)
theorem witness_TrapEntryAndReturn :
    (hereOf kernelMode = some kernel ∧ kernel.f.scout = none ∧ kernel.i.sup = false) ∧ (hereOf handlerMode = some handler ∧ handler.i.sup = true) ∧
    (hereOf scouting = some scoutSeen ∧ scoutSeen.f.scout = some scout) ∧
    (Issuing handlerMode handler ∧ handler.f.trap.ret.getLsbD 0 = false) ∧ (Issuing oddReturn oddReturnSeen ∧ oddReturnSeen.f.trap.ret.getLsbD 0 = true) :=
  ⟨⟨issuing_kernel.here, by decide, by decide⟩, ⟨issuing_handler.here, by decide⟩, ⟨hereOf_seen, by decide⟩, ⟨issuing_handler, by decide⟩,
    ⟨issuing_seen (by decide), by decide⟩⟩

/-- A window that ends at register 16, at whose last register the fibre stands. -/
def narrow : State := modGang (State.fibre kernelMode fun f => { f with wbase := 15 }) 0 fun g => { g with hdr := { g.hdr with win := [(0, 16)] } }
def narrowSeen : Here := seen narrow (by decide)
/-- A kernel in the memory of device 3, whose code must be asked for. -/
def remoteCode : State :=
  let base : Quad := 3 * 2 ^ 57
  let s := modGang kernelMode 0 fun g => { g with hdr := { g.hdr with addr := base } }
  { s with
    fabEnable := true, ports := (List.replicate 15 {}) ++ [{ up := true, enable := true, peer := 3 }], routes := [(3, 0x8000)], reach := [3]
    contexts := upd s.contexts 0 fun c => { c with rights := [{ start := base.toNat, pages := 1, bits := 7 }] }
    issue := some (issueAt 0 0 (BitVec.allOnes 32) false (base + 192)) }
def remoteSeen : Here := seen remoteCode (by decide)
/-- The same with a credit for a request to device 3. -/
def creditCode : State := { remoteCode with credits := [(15, 3, 4, 4)] }
def creditSeen : Here := seen creditCode (by decide)
/-- Whether a part of an access must be asked for first, and its request is out from then on, or not. -/
def asked {α : Type} (h : Here) (out : Bool) : Except Stop α → Bool
  | .error (.ask t) => h.asked t == out
  | _ => false
theorem asked_of {α : Type} {h : Here} {b : Bool} {x : Except Stop α} (hx : asked h b x = true) : ∃ t, x = .error (.ask t) ∧ h.asked t = b := by
  rcases x with e | _
  · cases e <;> first | exact ⟨_, rfl, by simpa [asked] using hx⟩ | simp [asked] at hx
  · simp [asked] at hx
/-- Register 2 of lane 31 holds an error. -/
def poisonedReg : State := modWave kernelMode 0 fun w => { w with bad := [(2, 0x80000000)] }
def poisonedSeen : Here := seen poisonedReg (by decide)
theorem witness_IllegalInstructions :
    (Issuing kernelMode kernel ∧ kernel.i.sup = false ∧ (∃ p, peekParcel kernelMode kernel kernel.i.opc = .ok p) ∧
      ∃ q, peekParcel kernelMode kernel (kernel.i.opc + 2) = .ok q) ∧
    (Issuing remoteCode remoteSeen ∧ ∃ t, peekParcel remoteCode remoteSeen remoteSeen.i.opc = .error (.ask t) ∧ remoteSeen.asked t = false) ∧
    (Issuing creditCode creditSeen ∧ ∃ t, peekParcel creditCode creditSeen creditSeen.i.opc = .error (.ask t) ∧ creditSeen.asked t = true) ∧
    (Issuing narrow narrowSeen ∧ (narrowSeen.g.hdr.winOf narrowSeen.i.fibre).2 ≤ narrowSeen.f.wbase + (1 : BitVec 7).toNat) ∧
    (Issuing handlerMode handler ∧ handler.i.sup = true ∧ 32 ≤ (32 : BitVec 7).toNat) ∧ 120 < (121 : BitVec 7).toNat ∧
    (Issuing poisonedReg poisonedSeen ∧ poisonedSeen.ready (2 : BitVec 7).toNat ∧ ¬poisonedSeen.sound (2 : BitVec 7).toNat) := by
  refine ⟨⟨issuing_kernel, by decide, ok_of (by decide +kernel), ok_of (by decide +kernel)⟩,
    ⟨issuing_seen (by decide), asked_of (by decide +kernel)⟩, ⟨issuing_seen (by decide), asked_of (by decide +kernel)⟩,
    ⟨issuing_seen (by decide), by decide⟩,
    ⟨issuing_handler, by decide, by decide⟩, by decide, issuing_seen (by decide), ?_, by unfold Here.sound; decide⟩
  have hp : poisonedSeen.w.pending = [] := by decide
  refine ⟨?_, fun p h => by simp [hp] at h⟩
  rw [if_neg (by decide)]
  decide

/-- The lowest strand of a handler asks with `v0` for what register 0x106 does: nothing, the end of the fibre, the end of the context. -/
def asking (x : Word) : State := modWave handlerMode 0 fun w => { w with supV := setAt w.supV 0 (rowOf fun _ => x) }
def askingEnd : Here := seen (asking 1) (by decide)
def askingContext : Here := seen (asking 2) (by decide)
def askingWindow : Here := seen (asking 128) (by decide)
theorem witness_SystemRegisters :
    (Issuing kernelMode kernel ∧ (0x000, true, kernelMode.calends.toNat) ∈ sysTable kernel kernelMode ∧ kernel.canWrite64 118 ∧
      (0x00F, false, kernel.f.wbase) ∈ sysTable kernel kernelMode ∧ kernel.canWrite 119 ∧ kernel.i.sup = false ∧
      (0x100, false, kernel.f.trap.cause) ∈ sysTable kernel kernelMode ∧ ∀ e ∈ sysTable kernel kernelMode, (0x014 : BitVec 12).toNat ≠ e.1) ∧
    (Issuing handlerMode handler ∧ handler.i.sup = true ∧ (0x113, true, (handler.c.progs.getD 3 0).toNat) ∈ sysTable handler handlerMode ∧
      handler.canWrite64 30 ∧ handler.canRead 31 false none ∧ handler.canRead64 30 false none ∧
      (handler.word 0 false none (lowest handler.i.lanes)).getLsbD 1 = false ∧ (handler.word 0 false none (lowest handler.i.lanes)).getLsbD 0 = false ∧
      (handler.word 0 false none (lowest handler.i.lanes)).toNat < (handler.g.hdr.winOf handler.i.fibre).2 ∧
      ¬0x100 ∈ ([0x00D, 0x00E, 0x00F, 0x102, 0x106, 0x110, 0x111, 0x112, 0x113] : List Nat)) ∧
    (Issuing (asking 1) askingEnd ∧ (askingEnd.word 0 false none (lowest askingEnd.i.lanes)).getLsbD 1 = false ∧
      (askingEnd.word 0 false none (lowest askingEnd.i.lanes)).getLsbD 0 = true) ∧
    (Issuing (asking 2) askingContext ∧ (askingContext.word 0 false none (lowest askingContext.i.lanes)).getLsbD 1 = true) ∧
    (Issuing (asking 128) askingWindow ∧
      ¬(askingWindow.word 0 false none (lowest askingWindow.i.lanes)).toNat < (askingWindow.g.hdr.winOf askingWindow.i.fibre).2) :=
  ⟨⟨issuing_kernel, by decide, plain_kernel.writesPair (by decide) (by decide), by decide, plain_kernel.writes (by decide), by decide, by decide, by decide⟩,
    ⟨issuing_handler, by decide, by decide, writesPair_handler, reads_handler, readsPair_handler, by decide, by decide, by decide, by decide⟩,
    ⟨issuing_seen (by decide), by decide, by decide⟩, ⟨issuing_seen (by decide), by decide⟩, ⟨issuing_seen (by decide), by decide⟩⟩

/-- A context under a debugger. -/
def debugged : State := modContext kernelMode 0 fun c => { c with dbg := true }
def debuggedSeen : Here := seen debugged (by decide)
theorem witness_StopsAndMarks :
    (Issuing debugged debuggedSeen ∧ debuggedSeen.c.dbg = true) ∧ (Issuing kernelMode kernel ∧ kernel.c.dbg = false ∧ kernel.i.sup = false ∧ kernel.unlogged) ∧
    (Issuing handlerMode handler ∧ handler.i.sup = true) :=
  ⟨⟨issuing_seen (by decide), by decide⟩, ⟨issuing_kernel, by decide, by decide, .inl (by decide)⟩, ⟨issuing_handler, by decide⟩⟩

/-- A dictionary of one word, `add.b32 v5, v2, v3` under `m1`. -/
def dictionary : State := modGang kernelMode 0 fun g => { g with dicts := [(0, [0x00282066], [])] }
def dictionarySeen : Here := seen dictionary (by decide)
theorem witness_DictionaryResults :
    Issuing dictionary dictionarySeen ∧ dictionarySeen.dictionary[(0 : BitVec 10).toNat]? = some 0x00282066 ∧
    decodeWord 0x00282066 dictionarySeen.i.lit = some (.addB32 ⟨5, 2, 3, 1, true, none⟩) ∧ dictionarySeen.canRead 2 false none ∧
    dictionarySeen.canRead 3 true none ∧ dictionarySeen.canWrite 5 ∧ dictionarySeen.dictionary.length ≤ (1 : BitVec 10).toNat := by
  have P : Plain dictionarySeen := ⟨by decide, by decide, by decide, by decide, by decide⟩
  exact ⟨issuing_seen (by decide), by decide, by decide, P.reads (by decide), P.readsUniform (by decide), P.writes (by decide), by decide⟩

end Sys2Proof.Tests
namespace Sys2Proof.Tests

open Sys2Proof Sys2Proof.Machine

/-! ### Events -/

def placedWave : Wave := (get? placed.waves 0).get (by decide)
def placedFibre : Fibre := fibreAt placed 0 0
def placedGang : Gang := (get? placed.gangs 0).get (by decide)
/-- The placed fibre changed, in its slot or out of it. -/
def standing (f : Fibre) : State := { placed with waves := [(0, { placedWave with fibres := [f] })] }
/-- The fibre waits in its slot, with some operations outstanding. -/
def stalledFibre (x : Wait) (c : List Nat) : Fibre := { placedFibre with state := .stalled, wait := some x, counts := c }
def waitOf (k : WaitKind) (d : Deadline) (m : Option Nat) : Wait := { barrierWait with kind := k, deadline := d, monitor := m }
def stalled (x : Wait) (c : List Nat) (ms : List (Nat × Monitor)) : State := { standing (stalledFibre x c) with monitors := ms }
theorem waiting_stalled (x : Wait) (c : List Nat) (ms : List (Nat × Monitor)) :
    Waiting (stalled x c ms) 0 0 { placedWave with fibres := [stalledFibre x c] } placedGang (stalledFibre x c) x :=
  ⟨rfl, rfl, rfl, rfl, rfl, .inl ⟨rfl, rfl⟩, by intro r hr; cases hr⟩
def watcher (woken : Option Quad) : Monitor := { addr := 0, wide := true, cond := 0, operand := 5, who := .fibre 0 0, woken }
theorem witness_WaitEvents :
    (∀ x c ms, Waiting (stalled x c ms) 0 0 { placedWave with fibres := [stalledFibre x c] } placedGang (stalledFibre x c) x) ∧
    resourceFree (stalled (waitOf (.resource (.counter 0)) .never none) [] []) 0 0 (.counter 0) = true ∧
    (stalledFibre (waitOf (.waitc 0 2) .never none) [2]).counts.getD 0 0 ≤ 2 ∧
    get? (stalled (waitOf (.monw 0 true 0 5 4) .never (some 7)) [] [(7, watcher (some 5))]).monitors 7 = some (watcher (some 5)) ∧
    (∀ l, get? placed.launches placedGang.launch = some l → l.replay = false) ∧
    (barrierAt placed 0 placedGang.hdr 16).phase ≠ true ∧
    (∀ c < 5, (0x3F : BitVec 6).getLsbD c = true → (stalledFibre (waitOf (.fence 0x3F) .never none) []).counts.getD c 0 = 0) ∧
    (waitOf (.hold 0) .never none).kind = .hold 0 ∧ 0 ≤ placed.clk ∧ (waitOf .procEnter .never none).kind = .procEnter ∧
    (stalled (waitOf (.fence 0x3F) .never none) [] []).far = [] ∧
    (let f := stalledFibre (waitOf (.fbar 1) .never none) []
     (1 : BitVec 4).getLsbD 0 = true ∧ f.barrierMask = some 1 ∧ ∀ j, (1 : BitVec 4).getLsbD j = true → j = 0) :=
  ⟨waiting_stalled, by decide, by decide, rfl, by decide, by decide, by decide, rfl, by decide, rfl, rfl, by decide, by decide, by
    intro j h
    have h1 : (1 : BitVec 4).getLsbD j = decide (j = 0) := by simp [BitVec.getLsbD_one]
    simpa [h1] using h⟩

/-- A wait of the placed fibre that its condition does not end. -/
def Unended (x : Wait) (c : List Nat) (ms : List (Nat × Monitor)) : Prop :=
  x.ending = none ∧ x.stale = false ∧ ∃ s' xs st,
    Unmet (stalled x c ms) 0 0 { placedWave with fibres := [stalledFibre x c] } placedGang (stalledFibre x c) x s' xs st
/-- A stage queue of one-word entries at 16, which is empty, or holds one entry. -/
def queueGang (tail : Byte) : Gang := { placedGang with mem := Memory.writeN [] 16 [1, 0, 0, 0, 0, 0, 0, 0, tail] }
def receiving (tail : Byte) : State := { stalled (waitOf (.qrecv 16 1) .never none) [] [] with gangs := upd placed.gangs 0 fun _ => queueGang tail }
def receiver : Fibre := stalledFibre (waitOf (.qrecv 16 1) .never none) []
/-- Two fibres, of which the second waits at the barrier of both, or in supervisor mode for a counter, and the first holds the slot. -/
def second (k : WaitKind) (sup : Bool) (st : FibreState) (c : List Nat) : Fibre :=
  { placedFibre with state := st, wait := some { waitOf k .never none with sup }, counts := c }
def secondWave (f : Fibre) : Wave := { placedWave with fibres := [placedFibre, f] }
def seconded (f : Fibre) : State := { placed with waves := [(0, secondWave f)] }
theorem waiting_second (k : WaitKind) (sup : Bool) (st : FibreState) (c : List Nat) (h : st = .waiting ∨ st = .fbarrier) :
    Waiting (seconded (second k sup st c)) 0 1 (secondWave (second k sup st c)) placedGang (second k sup st c) { waitOf k .never none with sup } :=
  ⟨rfl, rfl, rfl, rfl, rfl, .inr ⟨h, 0, rfl⟩, by intro r hr; cases hr⟩
theorem witness_WaitExpiry :
    Unended (waitOf (.waitc 0 2) .poll none) [3] [] ∧ Unended (waitOf (.monw 0 true 0 5 4) .poll (some 7)) [] [(7, watcher none)] ∧
    Unended (waitOf (.monw 0 true 0 5 4) .poll none) [] [] ∧ Unended (waitOf (.bwait 16 false none) .poll none) [] [] ∧
    Unended (waitOf (.bwait 16 false (some 1)) .poll none) [] [] ∧ Unended (waitOf (.gbar 0 0) .poll none) [] [] ∧
    Unended (waitOf .procEnter .poll none) [] [] ∧
    (∃ s' xs, Unmet (stalled (waitOf (.fence 3) .poll none) [1] []) 0 0 { placedWave with fibres := [stalledFibre (waitOf (.fence 3) .poll none) [1]] }
      placedGang (stalledFibre (waitOf (.fence 3) .poll none) [1]) (waitOf (.fence 3) .poll none) s' xs 3) ∧
    (Waiting (receiving 0) 0 0 { placedWave with fibres := [receiver] } (queueGang 0) receiver (waitOf (.qrecv 16 1) .never none) ∧
      ∃ s' xs st, Unmet (receiving 0) 0 0 { placedWave with fibres := [receiver] } (queueGang 0) receiver (waitOf (.qrecv 16 1) .never none) s' xs st) ∧
    (Waiting (receiving 1) 0 0 { placedWave with fibres := [receiver] } (queueGang 1) receiver (waitOf (.qrecv 16 1) .never none) ∧
      localPoison (receiving 1) 0 (queueGang 1).hdr 16 16 = false ∧ localPoison (receiving 1) 0 (queueGang 1).hdr 32 4 = false ∧
      ∃ q, queueAt (receiving 1) 0 (queueGang 1).hdr 16 = some q ∧ q.head ≠ q.tail ∧ q.words = 1) ∧
    (let f := second (.fbar 3) false .fbarrier []
     Waiting (seconded f) 0 1 (secondWave f) placedGang f (waitOf (.fbar 3) .never none) ∧ f.state ≠ .stalled ∧
      ∃ s' xs st, Unmet (seconded f) 0 1 (secondWave f) placedGang f (waitOf (.fbar 3) .never none) s' xs st) ∧
    (let f := second (.waitc 0 2) true .waiting [3]
     ∃ x, Waiting (seconded f) 0 1 (secondWave f) placedGang f x ∧ x.sup = true ∧
      ∃ s' xs st, Unmet (seconded f) 0 1 (secondWave f) placedGang f x s' xs st) ∧
    reached placed placedGang.tag .poll = true ∧ reached placed placedGang.tag .never = false ∧
    (waitOf (.waitc 0 2) .never none).ides ≤ contextTime placed placedGang.tag ∧
    (stalledFibre (waitOf (.waitc 0 2) .never none) [3]).state = .stalled ∧ (waitOf (.waitc 0 2) .never none).sup = false := by
  refine ⟨⟨rfl, rfl, _, _, _, .waitc 0 2 rfl (by decide)⟩, ⟨rfl, rfl, _, _, _, .monw _ _ _ _ _ rfl ?_⟩,
    ⟨rfl, rfl, _, _, _, .monw _ _ _ _ _ rfl (by intro m e h; cases h)⟩, ⟨rfl, rfl, _, _, _, .bwait _ _ rfl rfl (by decide) (by decide)⟩,
    ⟨rfl, rfl, _, _, _, .arrived _ _ _ rfl rfl (by decide) (by decide) (by decide)⟩,
    ⟨rfl, rfl, _, _, _, .gbar _ _ _ rfl (by intro m e h; cases h) (Prod.ext rfl (by decide +kernel)) (by decide +kernel)⟩,
    ⟨rfl, rfl, _, _, _, .procEnter rfl (by decide +kernel)⟩,
    ⟨_, _, .fence 3 _ 2 rfl (by unfold State.writtenBack; rw [if_neg (by decide)]) ?_ (by decide)⟩,
    ⟨⟨rfl, rfl, rfl, rfl, rfl, .inl ⟨rfl, rfl⟩, by intro r hr; cases hr⟩, _, _, _,
      .qrecv 16 1 { log := 1, words := 1, head := 0, tail := 0 } rfl (by decide) (by decide) rfl⟩,
    ⟨⟨rfl, rfl, rfl, rfl, rfl, .inl ⟨rfl, rfl⟩, by intro r hr; cases hr⟩, by decide, by decide,
      { log := 1, words := 1, head := 0, tail := 1 }, by decide, by decide, rfl⟩,
    ⟨waiting_second _ _ _ _ (.inr rfl), by decide, _, _, _, .fbar 3 0 placedFibre rfl (by decide) rfl (by decide) (by decide)⟩,
    ⟨_, waiting_second _ _ _ _ (.inl rfl), rfl, _, _, _, .waitc 0 2 rfl (by decide)⟩, by decide, by decide, by decide, rfl, rfl⟩
  · intro m e hm he
    cases hm
    cases he
    rfl
  · intro c hc
    have h : c = 0 ∨ c = 1 ∨ c = 2 ∨ c = 3 ∨ c = 4 ∨ c = 5 := by omega
    rcases h with rfl | rfl | rfl | rfl | rfl | rfl <;> simp [fenced] <;> decide

/-- A monitor wait that polls, whose word at address 0 has been read; a scout run that has ended; a fibre passed over 256 times. -/
def polling : State := { stalled (waitOf (.monw 0 true 0 5 4) .never none) [] [] with clk := 2048 }
def polled : State := { polling with waves := upd polling.waves 0 fun v => { v with fibres := modAt v.fibres 0 fun f =>
  { f with wait := f.wait.map fun x => { x with polled := polling.clk } } } }
def scoutFibre : Fibre := { placedFibre with scout := some scout, state := .scout }
def heldRecord : Record := { code := 7, tag := 0 }
/-- The fault buffer has room, and a record is held. -/
def holding : State := { placed with fbEnable := true, fbSize := 4, held := [(.queueManager, heldRecord)] }
theorem witness_FibreEvents :
    (Waiting polling 0 0 { placedWave with fibres := [stalledFibre (waitOf (.monw 0 true 0 5 4) .never none) []] } placedGang
        (stalledFibre (waitOf (.monw 0 true 0 5 4) .never none) []) (waitOf (.monw 0 true 0 5 4) .never none) ∧
      (waitOf (.monw 0 true 0 5 4) .never none).polled + 2048 ≤ polling.clk ∧ (∀ d o, placeOf polling 0 ≠ .peer d o) ∧
      (∃ t, check polled (some placedGang.tag) 0 rightRead true false true = (t, .ok) ∧ monTrue 1 (ofBytes (readGlobal t 0 8)) 5 = true ∧
        monTrue 0 (ofBytes (readGlobal t 0 8)) 5 = false ∧ tableUsed t (sliceOf 0) < 128)) ∧
    (get? (standing scoutFibre).waves 0 = some { placedWave with fibres := [scoutFibre] } ∧ get? (standing scoutFibre).gangs placedWave.gang = some placedGang ∧
      placedGang.state = .running ∧ scoutFibre.state ≠ .halted ∧ scoutFibre.wait = none ∧ scoutFibre.retry = none ∧ scout.ended = true ∧ (standing scoutFibre).tokens.length < 2 ^ 31) ∧
    (256 ≤ ({ placedFibre with urgency := 256 } : Fibre).urgency ∧ get? (standing { placedFibre with urgency := 256 }).waves 0 =
      some { placedWave with fibres := [{ placedFibre with urgency := 256 }] }) ∧
    (holding.fbEnable = true ∧ holding.fbStop = false ∧ (holding.fbWr - holding.fbRd).toNat < 2 ^ holding.fbSize ∧ holding.posting = [] ∧
      holding.held = [] ++ (.queueManager, heldRecord) :: [] ∧
      ∃ t u, writeRange { holding with held := [], posting := [(.queueManager, heldRecord)] }
        (holding.fbBase.toNat + 192 * (holding.fbWr.toNat % 2 ^ holding.fbSize)) (heldRecord.bytes holding) = (t, .ok u)) := by
  refine ⟨⟨⟨rfl, rfl, rfl, rfl, rfl, .inl ⟨rfl, rfl⟩, by intro r hr; cases hr⟩, by decide, ?_,
      ⟨_, Prod.ext rfl (by decide +kernel), by decide +kernel, by decide +kernel, by decide +kernel⟩⟩,
    ⟨rfl, rfl, rfl, by decide, rfl, rfl, rfl, by decide⟩, ⟨by decide, rfl⟩, ⟨rfl, rfl, by decide, rfl, rfl, (pair_of ?_).imp fun _ h => ⟨(), h⟩⟩⟩
  · intro d o
    have h : placeOf polling 0 = .own 0 := by decide
    rw [h]
    simp
  · decide +kernel

/-- An operation of the placed fibre, alone in flight under the number 4. -/
def opOf (k : OpKind) (cls : Nat) (rs : List UnitRead) (cap : Option (List Word)) : Op :=
  { kind := k, gang := 0, launch := 0, tag := 0, wave := 0, fibre := 0, pc := 192, lanes := BitVec.allOnes 32, seq := 0, cls, bar := some 64, issued := 0
    cluster := 0, core := 0, reads := rs, captured := cap }
def flying (ops : List (Nat × Op)) : State := { placed with ops }
theorem inFlight_one (k : OpKind) (cls : Nat) (rs : List UnitRead) (cap : Option (List Word)) :
    InFlight (flying [(4, opOf k cls rs cap)]) 4 (opOf k cls rs cap) placedGang :=
  ⟨rfl, rfl, rfl, ⟨placedWave, placedFibre, rfl, rfl, rfl, by decide⟩, by
    intro p hp hlt
    rw [List.mem_singleton.mp hp] at hlt
    exact absurd hlt (by simp)⟩
def oneCopy : OpKind := .copy 0 0 16 0 false [1] [] 0
def oneRead : UnitRead := { unit := 0, status := 0, bytes := List.replicate 16 1 }
/-- A trace of one ray, all of whose words are zero, whose hit record stands at 96; and what it has read when its ray has ended. -/
def oneRay : List (Nat × Quad × Quad) := [(0, 0, 96)]
def traceKind : OpKind := .trace oneRay 0 0 0 false false false []
def traceEnv : TraceEnv := { id := 4, table := 0, count := 0, first := false, cull := false }
def traced : State := (runRays (flying [(4, opOf traceKind 2 [] none)]) traceEnv 0 oneRay).1
def tracedOp : Op := (get? traced.ops 4).get (by decide +kernel)
/-- The trace, without and with a list context of local memory, has the way there, and its writes reach no failing unit. -/
def hitRecords : List (Nat × UnitBytes) := gatherUnits ((hitRecord 0 none).zipIdx.map fun b => ((96 + b.2) % 2 ^ 64, b.1))
def listWords : List Word := [16, 0, 0, 0, 0x10000]
def appending : OpKind := .trace oneRay 0 0 0 false true false listWords
def appended : State := (runRays (flying [(4, opOf appending 2 [] none)]) traceEnv 0 oneRay).1
def appendedOp : Op := (get? appended.ops 4).get (by decide +kernel)
def tracesEnd (s : State) (o : Op) (ctx : Option (ListCtx × List Word)) : Bool :=
  let rs : List (Nat × RayEnd) := [(0, { status := 0, best := none, bad := none, pixel := 0, order := 0, payload := 0 })]
  let x := takeWay s 4 (tracePeers s ctx hitRecords)
  let a := appendAll 4 o x.1 ctx rs
  match restate x.1 4 o (a.sts.map (BitVec.ofNat 32)) with
  | some p =>
    let w := stageWrites p.1 4 p.2 hitRecords
    x.2 && a.aperture.isNone && !a.pending && !w.pending && w.bad.isEmpty && (appendAll 4 p.2 w.state ctx rs).bad.isEmpty
  | none => false
theorem witness_EngineReadsAndCompletions :
    (get? (flying [(4, opOf oneCopy 0 [] none)]).ops 4 = some (opOf oneCopy 0 [] none) ∧ get? placed.gangs 0 = some placedGang ∧ (0 : Nat) ≠ 3 ∧
      oneCopy.member = none ∧ oneCopy.units[0]? = some 0 ∧ (opOf oneCopy 0 [] none).read? 0 = none ∧
      (∃ t, check (flying [(4, opOf oneCopy 0 [] none)]) (some 0) 0 rightRead true false true = (t, .ok)) ∧
      (OpKind.copy 1 0 16 0 false [1] [] 0).units[0]? = some (2 ^ 64)) ∧
    (InFlight (flying [(4, opOf oneCopy 0 [oneRead] none)]) 4 (opOf oneCopy 0 [oneRead] none) placedGang ∧
      oneCopy.copyDesc = some copyDesc ∧ firstAperture copyDesc.localRuns = none ∧ firstStray placedGang.hdr copyDesc.localRuns = none ∧
      (opOf oneCopy 0 [oneRead] none).has copyDesc.sourceUnits ∧ copyDesc.dstLocal = true) ∧
    (InFlight (flying [(4, opOf traceKind 2 [] none)]) 4 (opOf traceKind 2 [] none) placedGang ∧
      ((runRays (flying [(4, opOf traceKind 2 [] none)]) traceEnv 0 oneRay).2.map fun e => e.map fun e => (e.status, e.bad.isNone, e.best.isNone)) =
        [some (0, true, true)] ∧
      InFlight traced 4 tracedOp placedGang ∧ tracedOp.kind = traceKind ∧ tracesEnd traced tracedOp none = true) ∧
    (∃ c, listCtx listWords = some c ∧ InFlight (flying [(4, opOf appending 2 [] none)]) 4 (opOf appending 2 [] none) placedGang ∧
      ((runRays (flying [(4, opOf appending 2 [] none)]) traceEnv 0 oneRay).2.map fun e => e.map fun e => (e.status, e.bad.isNone, e.best.isNone)) =
        [some (0, true, true)] ∧
      get? appended.ops 4 = some appendedOp ∧ appendedOp.kind = appending ∧ tracesEnd appended appendedOp (some (c, listWords)) = true) := by
  refine ⟨⟨rfl, rfl, by decide, rfl, by decide, rfl, ⟨_, Prod.ext rfl (by decide +kernel)⟩, by decide⟩,
    ⟨inFlight_one _ _ _ _, by decide, by decide, by decide, ?_, by decide⟩, ⟨inFlight_one _ _ _ _, by decide +kernel, ?_, by decide +kernel, by decide +kernel⟩,
    ⟨_, rfl, inFlight_one _ _ _ _, by decide +kernel, (Option.some_get _).symm, by decide +kernel, by decide +kernel⟩⟩
  · intro u hu
    have h : copyDesc.sourceUnits = [0] := by decide
    rw [h, List.mem_singleton] at hu
    exact ⟨oneRead, by rw [hu]; rfl, rfl⟩
  · refine ⟨(Option.some_get _).symm, by decide +kernel, rfl, ⟨placedWave, placedFibre, by decide +kernel, rfl, rfl, by decide⟩, ?_⟩
    have h : traced.ops.map (·.1) = [4] := by decide +kernel
    intro p hp hlt
    have hm : p.1 ∈ traced.ops.map (·.1) := List.mem_map_of_mem hp
    rw [h, List.mem_singleton] at hm
    omega

def oneDrain (cap : Option (List Word)) : Op := opOf (.drain false 32 32 0 false 0 false false false 0 true 0 0 0) 4 [] cap
/-- A drain of two elements that have been read, in FP32, to local or global memory, added or not. -/
def drainOf (add glob : Bool) : Op := opOf (.drain add 1 2 0 false 0 glob (add && glob) false 0 false 4 0 0) 4 [] (some [0x3F800000, 0x40000000])
def drainedWrites : Writes :=
  stageWrites (flying [(4, drainOf false true)]) 4 (drainOf false true) (gatherUnits ((drainElems 1 2 false 4 4 [0x3F800000, 0x40000000]).flatMap fun p =>
    (toBytes 4 (drainValue false 0 false (drainRm 0 0) p.2)).zipIdx.map fun b => (((0 : Quad).toNat + p.1 + b.2) % 2 ^ 64, b.1)))
def drainedCells := stageCells (flying [(4, drainOf true true)]) 4 (drainOf true true) (.float .f32)
  (bySector ((drainElems 1 2 true 4 48 [0x3F800000, 0x40000000]).map fun p => (((0 : Quad).toNat + p.1) % 2 ^ 64, p.2.toNat)))
theorem witness_MatrixCompletes :
    (InFlight (flying [(4, opOf (.mclear 32 32 112) 1 [] none)]) 4 (opOf (.mclear 32 32 112) 1 [] none) placedGang ∧
      firstInMxe (flying [(4, opOf (.mclear 32 32 112) 1 [] none)]) 4 (opOf (.mclear 32 32 112) 1 [] none) = true ∧
      firstAperture (OpKind.mclear 32 32 112).runs = none ∧ firstStray placedGang.hdr (OpKind.mclear 32 32 112).runs = none ∧
      (opOf (.mclear 32 32 112) 1 [] none).has (OpKind.mclear 32 32 112).operandUnits) ∧
    (get? (flying [(3, oneDrain (some [])), (4, oneDrain none)]).ops 4 = some (oneDrain none) ∧ get? placed.gangs 0 = some placedGang ∧
      firstInMxe (flying [(3, oneDrain (some [])), (4, oneDrain none)]) 4 (oneDrain none) = true ∧
      ∃ p ∈ (flying [(3, oneDrain (some [])), (4, oneDrain none)]).ops, p.1 < 4 ∧ p.2.wave = 0 ∧ p.2.fibre = 0 ∧ p.2.cls = 4) ∧
    (InFlight (flying [(4, oneDrain (some []))]) 4 (oneDrain (some [])) placedGang ∧ firstAperture (oneDrain none).kind.runs = none ∧
      firstStray placedGang.hdr (oneDrain none).kind.runs = none) ∧
    (InFlight (flying [(4, drainOf true false)]) 4 (drainOf true false) placedGang ∧ firstAperture (drainOf true false).kind.runs = none ∧
      firstStray placedGang.hdr (drainOf true false).kind.runs = none ∧
      ∀ y ∈ (drainOf true false).kind.operandUnits, localPoison (flying [(4, drainOf true false)]) 0 placedGang.hdr (y - 2 ^ 64) 16 = false) ∧
    (InFlight (flying [(4, drainOf false true)]) 4 (drainOf false true) placedGang ∧ firstAperture (drainOf false true).kind.runs = none ∧
      drainedWrites.pending = false ∧ drainedWrites.bad = []) ∧
    (InFlight (flying [(4, drainOf true true)]) 4 (drainOf true true) placedGang ∧ firstAperture (drainOf true true).kind.runs = none ∧
      drainedCells.pending = false ∧ drainedCells.bad = []) := by
  refine ⟨⟨inFlight_one _ _ _ _, by decide, by decide, by decide, ?_⟩, ⟨rfl, rfl, by decide, (3, oneDrain (some [])), .head _, by decide, rfl, rfl, rfl⟩,
    ⟨inFlight_one _ _ _ _, by decide +kernel, by decide +kernel⟩, ⟨inFlight_one _ _ _ _, by decide +kernel, by decide +kernel, by decide +kernel⟩,
    ⟨inFlight_one _ _ _ _, by decide +kernel, by decide +kernel, by decide +kernel⟩, ⟨inFlight_one _ _ _ _, by decide +kernel, by decide +kernel, by decide +kernel⟩⟩
  intro u hu
  have h : (OpKind.mclear 32 32 112).operandUnits = [] := by decide
  rw [h] at hu
  cases hu

/-- A collective of one member, whose only issue is ready; its deadline has passed; and 2,097,152 clk after that. -/
def collOf (rank : Nat) : OpKind := .coll 8 0 0 1 0 0 0 7 0 rank [0] .poll
def collective (rank : Nat) (issues : List CollIssue) : State := { flying [(4, opOf (collOf rank) 3 [] none)] with collIssues := issues }
def readyIssue : CollIssue := { ({ oneKey 0 with epoch := 7 } : CollKey).issue 0 with ready := true }
def lateOp : Op := { opOf (collOf 0) 3 [] none with expired := some 0 }
theorem witness_CollectiveProtocol :
    (rootGroup (collective 0 [readyIssue]) 0 = some [0] ∧ verdict (collective 0 [readyIssue]) 0 [0] = some (.commit { oneKey 0 with epoch := 7 }) ∧
      (openColls (collective 0 [readyIssue]) 0).length = 1) ∧
    (get? (collective 1 []).ops 4 = some (opOf (collOf 1) 3 [] none) ∧ (collOf 1).member.map (·.rank) = some 1 ∧ (collOf 0).member.map (·.rank) = some 0 ∧
      reached (collective 0 []) 0 .poll = true ∧ (collective 0 []).collIssues = [] ∧ (collGroup (collective 0 []) 0).made = none) ∧
    (get? { flying [(4, lateOp)] with clk := 2097152 }.ops 4 = some lateOp ∧ lateOp.kind.member.isSome = true ∧ lateOp.decided = none ∧
      lateOp.expired = some 0 ∧ 0 + 2097152 ≤ ({ flying [(4, lateOp)] with clk := 2097152 } : State).clk) :=
  ⟨⟨by decide, by decide, by decide⟩, ⟨rfl, rfl, rfl, by decide, rfl, by decide⟩, ⟨rfl, rfl, rfl, rfl, by decide⟩⟩


/-- Waits that have been decided before they end, and a fence with nothing dirty behind it. -/
def gridWatcher : Monitor := { addr := 8, wide := false, cond := 1, operand := 1, who := .fibre 0 0, woken := some 2 }
theorem witness_WaitEvents_more :
    (get? (stalled (waitOf (.gbar 0 1) .never (some 7)) [] [(7, gridWatcher)]).monitors 7 = some gridWatcher ∧ gridWatcher.woken = some 2 ∧
      gridWatcher.bad = false ∧ (waitOf (.gbar 0 1) .never (some 7)).ending = none) ∧
    ({ waitOf (.bwait 16 true none) .never none with won := some 2 } : Wait).won = some 2 ∧ (waitOf (.bwait 16 true none) .never none).won = none ∧
    localPoison placed 0 placedGang.hdr 16 16 = false ∧
    (stalled (waitOf (.fence 0x3F) .never none) [] []).writtenBack 0x3F (stalled (waitOf (.fence 0x3F) .never none) [] []) :=
  ⟨⟨rfl, rfl, rfl, rfl⟩, rfl, rfl, by decide, by unfold State.writtenBack; rw [if_pos (by decide)]; exact Prod.ext rfl (by decide)⟩

/-- An operation whose local unit holds an error, one whose unit of device 3 is 2,097,152 clk old, and a trace that was FAULT from its issue. -/
def localCopy : OpKind := .copy 1 0 16 0 false [1] [] 0
def poisonedUnit : State := modGang (flying [(4, opOf localCopy 0 [] none)]) 0 fun g => { g with badMem := [0] }
def farCopy : OpKind := .copy 0 (3 * 2 ^ 57) 16 0 false [1] [] 0
def farFlying : State :=
  { flying [(4, opOf farCopy 0 [] none)] with
    clk := 2097152, fabEnable := true, ports := (List.replicate 15 {}) ++ [{ up := true, enable := true, peer := 3 }], routes := [(3, 0x8000)]
    reach := [3], contexts := upd placed.contexts 0 fun c => { c with rights := [{ start := 3 * 2 ^ 57, pages := 1, bits := 7 }] } }
def stoppedTrace : Op := { opOf traceKind 2 [] none with status := 14, bar := none }
def isPeer : Acc → Bool
  | .peer _ => true
  | _ => false
theorem peer_of {x : State × Acc} (h : isPeer x.2 = true) : ∃ t d, x = (t, .peer d) := by
  obtain ⟨t, a⟩ := x
  cases a <;> first | exact ⟨_, _, rfl⟩ | simp [isPeer] at h
theorem witness_EngineReadsAndCompletions_more :
    (localCopy.units[0]? = some (2 ^ 64) ∧ localPoison (flying [(4, opOf localCopy 0 [] none)]) 0 placedGang.hdr 0 16 = false ∧
      (get? poisonedUnit.gangs 0).isSome = true ∧ localPoison poisonedUnit 0 placedGang.hdr 0 16 = true) ∧
    (farCopy.units[0]? = some (3 * 2 ^ 57) ∧ (∃ t d, check farFlying (some 0) (3 * 2 ^ 57) rightRead true false true = (t, .peer d)) ∧
      (opOf farCopy 0 [] none).issued + 2097152 ≤ farFlying.clk) ∧
    (∀ r ∈ (OpKind.mclear 32 32 112).accReads, accPoisoned placed 0 r.1 r.2 = false) ∧
    (let o := opOf localCopy 0 [{ oneRead with unit := 2 ^ 64 }] none
     InFlight (flying [(4, o)]) 4 o placedGang ∧ ∃ c, o.kind.copyDesc = some c ∧ c.dstLocal = false ∧ firstAperture c.localRuns = none ∧
      firstStray placedGang.hdr c.localRuns = none ∧ o.has c.sourceUnits ∧
      (stageWrites (flying [(4, o)]) 4 o (gatherUnits (copyBytes o c))).pending = false ∧
      (stageWrites (flying [(4, o)]) 4 o (gatherUnits (copyBytes o c))).bad = []) ∧
    (InFlight (flying [(4, stoppedTrace)]) 4 stoppedTrace placedGang ∧ stoppedTrace.status = 14 ∧ stoppedTrace.bar = none) := by
  refine ⟨⟨by decide, by decide, by decide, by decide⟩, ⟨by decide, peer_of (by decide +kernel), by decide⟩, by decide +kernel,
    ⟨inFlight_one _ _ _ _, _, rfl, by decide, by decide, by decide, ?_, by decide +kernel, by decide +kernel⟩,
    ⟨⟨rfl, rfl, rfl, ⟨placedWave, placedFibre, rfl, rfl, rfl, by decide⟩, ?_⟩, rfl, rfl⟩⟩
  · intro u hu
    rw [List.mem_singleton.mp (show u ∈ [2 ^ 64] from hu)]
    exact ⟨{ oneRead with unit := 2 ^ 64 }, rfl, rfl⟩
  intro p hp hlt
  rw [List.mem_singleton.mp hp] at hlt
  exact absurd hlt (by simp)

end Sys2Proof.Tests
namespace Sys2Proof.Tests

open Sys2Proof Sys2Proof.Machine

/-! ### Queues, launches, placement -/

/-- The placed state with some bytes of memory given. -/
def holds (s : State) (xs : List (Nat × List Byte)) : State := { s with dram := xs.foldl (fun m x => m.writeN x.1 x.2) s.dram }
/-- A queue table at 4096 whose entry 0 is good, whose entry 1 belongs to no context, and whose entry 2 is zero; queue 1,023's too. -/
def tabled : State :=
  let entry (owner : Nat) : List Byte := toBytes 8 2048 ++ toBytes 4 (4 + 2 ^ 5 * owner + 2 ^ 16)
  { holds placed [(4096, entry 0), (4160, entry 1), (4096 + 64 * 1023, entry 0)] with qtBase := 4096, qmEnable := true }
/-- A queue in a state, with counts. -/
def queued (q : Queue) : State := { tabled with queues := [(0, q)] }
def errorQueue : Queue := { state := 4, size := 4, err := 1, errIdx := 5, tail := 22 }
/-- The same with its table where no page is mapped. -/
def untabled : State := { tabled with qtBase := 49152 * 4096 }
theorem fail_of {α : Type} {x : State × Done α} (h : (match x.2 with | .fail .. => true | _ => false) = true) :
    ∃ t row level ro u, x = (t, .fail row level ro u) := by
  obtain ⟨t, r⟩ := x
  cases r with
  | fail row level ro u => exact ⟨t, row, level, ro, u, rfl⟩
  | ok _ => cases h
  | pending => cases h
theorem witness_QueueCommands :
    (tabled.live = true ∧ qmBusy tabled = false ∧ (queueOf tabled (1023 : BitVec 10).toNat).state = 0 ∧
      (queueOf (queued { errorQueue with atEnable := true }) 0).state = 4 ∧ (queueOf (queued { errorQueue with atEnable := true }) 0).atEnable = true ∧
      (∃ t bs, readRange (tabled.atQueue 1023 1) none (tabled.qtBase.toNat + 64 * (1023 : BitVec 10).toNat) 64 0 = (t, .ok bs) ∧ numAt bs 8 4 % 32 = 4 ∧
        numAt bs 8 4 / 2 ^ 16 % 256 = 1 ∧ numAt bs 0 8 % 16 = 0 ∧ (get? tabled.contexts (numAt bs 8 4 / 2 ^ 5 % 64)).isSome) ∧
      (∃ t bs, readRange (tabled.atQueue 1 1) none (tabled.qtBase.toNat + 64 * (1 : BitVec 10).toNat) 64 0 = (t, .ok bs) ∧
        get? tabled.contexts (numAt bs 8 4 / 2 ^ 5 % 64) = none) ∧
      (∃ t bs, readRange (tabled.atQueue 2 1) none (tabled.qtBase.toNat + 64 * (2 : BitVec 10).toNat) 64 0 = (t, .ok bs) ∧ ¬4 ≤ numAt bs 8 4 % 32) ∧
      ∃ t row level ro u, readRange (untabled.atQueue 0 1) none (untabled.qtBase.toNat + 64 * (0 : BitVec 10).toNat) 64 0 = (t, .fail row level ro u)) ∧
    ((queueOf (queued errorQueue) 0).state ≠ 0 ∧ errorQueue.state = 4 ∧ errorQueue.atEnable = false ∧
      (errorQueue.tail - (errorQueue.errIdx + 1)).toNat ≤ 2 ^ errorQueue.size ∧ (queueOf tabled 0).state ≠ 4) ∧
    qmBusy { tabled with waiting := [.queueEnable 0] } = true ∧
    ((queueOf (queued { state := 2, size := 4 }) 0).state = 2 ∧ (queued { state := 2, size := 4 }).qmEnable = true ∧
      ((16 : Word) - 0).toNat ≤ 2 ^ 4 ∧ 2 ^ 4 < ((17 : Word) - 0).toNat) ∧
    (∀ q ∈ (queued { state := 2, size := 4 }).queues.map (·.1), ((queueOf (queued { state := 2, size := 4 }) q).tail
      - (queueOf (queued { state := 2, size := 4 }) q).head).toNat ≤ 2 ^ (queueOf (queued { state := 2, size := 4 }) q).size) := by
  refine ⟨⟨rfl, by decide, by decide, by decide, by decide, ?_, ?_, ?_, fail_of (by decide +kernel)⟩, by decide, by decide, by decide, by decide⟩
  · obtain ⟨t, h⟩ := pair_of (x := readRange (tabled.atQueue 1023 1) none (tabled.qtBase.toNat + 64 * (1023 : BitVec 10).toNat) 64 0)
      (b := .ok (toBytes 8 2048 ++ toBytes 4 (4 + 2 ^ 16) ++ List.replicate 52 0)) (by decide +kernel)
    exact ⟨t, _, h, by decide, by decide, by decide, by decide⟩
  · obtain ⟨t, h⟩ := pair_of (x := readRange (tabled.atQueue 1 1) none (tabled.qtBase.toNat + 64 * (1 : BitVec 10).toNat) 64 0)
      (b := .ok (toBytes 8 2048 ++ toBytes 4 (4 + 32 + 2 ^ 16) ++ List.replicate 52 0)) (by decide +kernel)
    exact ⟨t, _, h, by decide⟩
  · obtain ⟨t, h⟩ := pair_of (x := readRange (tabled.atQueue 2 1) none (tabled.qtBase.toNat + 64 * (2 : BitVec 10).toNat) 64 0)
      (b := .ok (List.replicate 64 0)) (by decide +kernel)
    exact ⟨t, _, h, by decide⟩

/-- A ring at 2048 with entries NOP, FENCE, 3, LAUNCH of the descriptor at 768, LAUNCH of address 0, whose kernel object stands at 384. -/
def ring : State :=
  holds { placed with qmEnable := true } [(2048 + 16, toBytes 4 2), (2048 + 32, toBytes 4 3), (2048 + 48, toBytes 4 1 ++ toBytes 4 0 ++ toBytes 8 768),
    (2048 + 64, toBytes 4 1), (768, toBytes 8 384 ++ toBytes 4 1 ++ toBytes 4 1 ++ [1, 0, 1, 0]),
    (384, toBytes 4 0x4B4E4C49 ++ [1, 0, 0, 0, 128, 0, 1, 1]), (384 + 0x14, [1, 0, 0, 0, 0, 0, 128, 0]), (384 + 0x80, toBytes 4 192 ++ toBytes 4 64)]
/-- The queue with its HEAD at an entry of the ring. -/
def atEntry (n : Word) : State := { ring with queues := [(0, { state := 1, size := 4, ring := 2048, head := n, tail := n + 1 })], launches := [] }
def entryAt (n : Word) : State × Done (List Byte) := readRange (atEntry n) none (2048 + 16 * n.toNat) 16 0
def launched : State × Accepted := readLaunch (entryAt 3).1 0 (queueOf (atEntry 3) 0) 768
theorem queueReads_atEntry (n : Word) (h : n + 1 - n = 1) : QueueReads (atEntry n) 0 := by
  refine ⟨rfl, rfl, .inl rfl, ?_, ?_, show 0 < 64 by decide, show 0 < 4096 by decide⟩
  · change n ≠ n + 1
    intro e
    rw [← e] at h
    simp at h
  · change (n + 1 - n).toNat ≤ 16
    rw [h]
    decide
theorem entryRead_atEntry {n : Word} {bs : List Byte} (h : (entryAt n).2 = .ok bs)
    (e : (2048 : Quad).toNat + 16 * (n.toNat % 2 ^ 4) = 2048 + 16 * n.toNat) (hn : n.toNat < 16) :
    entryRead (atEntry n) 0 (entryAt n).1 (numAt bs 0 4) (numAt bs 4 4) (numAt bs 8 8) := by
  refine ⟨bs, ?_, rfl, rfl, rfl⟩
  change readRange (atEntry n) none (((2048 : Quad).toNat + 16 * (n.toNat % 2 ^ 4)) % 2 ^ 64) 16 0 = _
  rw [e, Nat.mod_eq_of_lt (by omega)]
  exact Prod.ext rfl h
theorem witness_RingEntries :
    (QueueReads (atEntry 0) 0 ∧ entryRead (atEntry 0) 0 (entryAt 0).1 0 0 0) ∧ (QueueReads (atEntry 1) 0 ∧ entryRead (atEntry 1) 0 (entryAt 1).1 2 0 0) ∧
    (QueueReads (atEntry 2) 0 ∧ entryRead (atEntry 2) 0 (entryAt 2).1 3 0 0) ∧
    (QueueReads (atEntry 3) 0 ∧ entryRead (atEntry 3) 0 (entryAt 3).1 1 0 768 ∧ ∃ l, launched.2 = .ok l) ∧
    (QueueReads (atEntry 4) 0 ∧ entryRead (atEntry 4) 0 (entryAt 4).1 1 0 0 ∧ (readLaunch (entryAt 4).1 0 (queueOf (atEntry 4) 0) 0).2 = .rejected 4) := by
  refine ⟨⟨queueReads_atEntry 0 (by decide), ?_⟩, ⟨queueReads_atEntry 1 (by decide), ?_⟩, ⟨queueReads_atEntry 2 (by decide), ?_⟩,
    ⟨queueReads_atEntry 3 (by decide), ?_, ?_⟩, ⟨queueReads_atEntry 4 (by decide), ?_, ?_⟩⟩
  · exact entryRead_atEntry (n := 0) (bs := List.replicate 16 0) (by decide +kernel) (by decide) (by decide)
  · exact entryRead_atEntry (n := 1) (bs := 2 :: List.replicate 15 0) (by decide +kernel) (by decide) (by decide)
  · exact entryRead_atEntry (n := 2) (bs := 3 :: List.replicate 15 0) (by decide +kernel) (by decide) (by decide)
  · exact entryRead_atEntry (n := 3) (bs := 1 :: List.replicate 7 0 ++ toBytes 8 768) (by decide +kernel) (by decide) (by decide)
  · have h : (match launched.2 with | .ok _ => true | _ => false) = true := by decide +kernel
    match e : launched.2 with
    | .ok l => exact ⟨l, rfl⟩
    | .rejected _ => rw [e] at h; cases h
    | .pending => rw [e] at h; cases h
  · exact entryRead_atEntry (n := 4) (bs := 1 :: List.replicate 15 0) (by decide +kernel) (by decide) (by decide)
  · have h : (match (readLaunch (entryAt 4).1 0 (queueOf (atEntry 4) 0) 0).2 with | .rejected n => n == 4 | _ => false) = true := by decide +kernel
    match e : (readLaunch (entryAt 4).1 0 (queueOf (atEntry 4) 0) 0).2 with
    | .ok _ => rw [e] at h; cases h
    | .rejected n => rw [e] at h; rw [eq_of_beq h]
    | .pending => rw [e] at h; cases h

def placedLaunch : Launch := (get? placed.launches 0).get (by decide)
/-- The launch with two dependences, none placed yet; and ready with its only gang still to be placed, late. -/
def depending : Launch := { placedLaunch with deps := [{ addr := 0, value := 0 }, { addr := 8, value := 1 }], nextGang := 0 }
def dependent (x : Launch) : State := { placed with launches := [(0, x)], gangs := [], waves := [], clk := 16777216 }
def eager : Launch := { placedLaunch with nextGang := 0, ready := some 0, candSince := some 0 }
/-- A saved gang that waits for its place. -/
def savedGang : State := modGang { placed with clk := 1048576 } 0 fun g => { g with state := .saved, eligible := some 0 }
/-- A gang whose only fibre is parked since clk 0. -/
def idle : State := { standing { placedFibre with state := .parked } with clk := 4096 }
/-- Device 3 is reached through port 15, and the context may read and write its first pages. -/
def neighboured : State :=
  { dependent { depending with deps := [{ addr := BitVec.ofNat 64 (3 * 2 ^ 57), value := 0 }] } with
    fabEnable := true, ports := (List.replicate 15 {}) ++ [{ up := true, enable := true, peer := 3 }], routes := [(3, 0x8000)], reach := [3]
    contexts := upd placed.contexts 0 fun c => { c with rights := [{ start := 3 * 2 ^ 57, pages := 64, bits := 7 }] } }
theorem witness_LaunchProgress :
    (get? (dependent placedLaunch).launches 0 = some placedLaunch ∧ placedLaunch.ready = none ∧ placedLaunch.start.toNat ≤ (dependent placedLaunch).calends.toNat ∧
      ∀ d ∈ placedLaunch.deps, d.held = true) ∧
    (get? (dependent eager).launches 0 = some eager ∧ eager.ready.isSome ∧ eager.nextGang < eager.gx * eager.gy * eager.gz ∧
      min 7 (eager.prio + eager.raised) < 7 ∧ eager.agedAt + 16777216 ≤ (dependent eager).clk) ∧
    (depending.deps[0]?.map (fun d => (d.held, d.monitor, d.polled, d.value)) = some (false, none, 0, 0) ∧
      depending.deps[1]?.map (fun d => (d.held, d.monitor, d.addr, d.value)) = some (false, none, 8, 1) ∧
      (∀ r ∈ (dependent depending).requests, r.2.who ≠ .dependence 0 1) ∧ (∀ p o, placeOf (dependent depending) 8 ≠ .peer p o) ∧
      (∃ t, readRange (dependent depending) (some depending.tag) 0 8 rightRead = (t, .ok (List.replicate 8 0)) ∧ 0 ≤ ofBytes (List.replicate 8 0)) ∧
      (∃ t, readRange (dependent depending) (some depending.tag) 8 8 rightRead = (t, .ok (List.replicate 8 0)) ∧ ofBytes (List.replicate 8 0) < 1 ∧
        tableUsed t (sliceOf 8) < 128)) ∧
    (get? ({ dependent depending with monitors := [(7, watcher (some 5))] } : State).monitors 7 = some (watcher (some 5)) ∧ (watcher (some 5)).bad = false) ∧
    (placeOf neighboured (3 * 2 ^ 57) = .peer 3 0 ∧ ∃ t, check neighboured (some depending.tag) (3 * 2 ^ 57) rightRead true false true = (t, .peer 3)) ∧
    ((∃ b, (bids (dependent eager)).find? (fun b => b.cand = .next 0) = some b ∧ b.rsv = none ∧ b.since + 1048576 ≤ (dependent eager).clk) ∧
      ∃ b, (bids savedGang).find? (fun b => b.cand = .saved 0) = some b ∧ b.rsv = none ∧ b.since + 1048576 ≤ savedGang.clk) ∧
    (get? idle.gangs 0 = some placedGang ∧ placedGang.state = .running ∧ placedGang.byDevice = false ∧
      (∃ p ∈ idle.waves, p.2.gang = 0 ∧ ∃ f ∈ p.2.fibres, f.idleFrom 0) ∧
      (∀ p ∈ idle.waves, p.2.gang = 0 → ∀ f ∈ p.2.fibres, f.state ≠ .done → ∃ m ≤ 0, f.idleFrom m) ∧
      0 + 4096 ≤ idle.clk ∧ placedGang.swapAt ≠ some (0 + 4096)) := by
  have hi : ∀ p ∈ idle.waves, ∀ f ∈ p.2.fibres, f.state = .parked ∧ f.parkedAt = 0 := by decide
  refine ⟨⟨rfl, by decide, by decide, by decide⟩, ⟨rfl, by decide, by decide, by decide, by decide⟩,
    ⟨by decide, by decide, by decide, ?_, ?_, ?_⟩, ⟨rfl, rfl⟩, ⟨by decide +kernel, pair_of (by decide +kernel)⟩, ⟨?_, ?_⟩,
    rfl, by decide, by decide, ⟨_, List.mem_singleton.2 rfl, rfl, _, List.mem_singleton.2 rfl, .inl ⟨rfl, rfl⟩⟩,
    fun p hp _ f hf _ => ⟨0, Nat.le_refl _, .inl (hi p hp f hf)⟩, by decide, by decide⟩
  · intro p o
    rw [show placeOf (dependent depending) 8 = .own 8 by decide]
    exact fun h => by cases h
  · obtain ⟨t, h⟩ := pair_of (x := readRange (dependent depending) (some depending.tag) 0 8 rightRead) (b := .ok (List.replicate 8 0)) (by decide +kernel)
    exact ⟨t, h, by decide⟩
  · exact ⟨(readRange (dependent depending) (some depending.tag) 8 8 rightRead).1, Prod.ext rfl (by decide +kernel), by decide, by decide +kernel⟩
  · exact ⟨((bids (dependent eager)).find? fun b => b.cand = .next 0).get (by decide), by simp, by decide, by decide⟩
  · exact ⟨((bids savedGang).find? fun b => b.cand = .saved 0).get (by decide), by simp, by decide, by decide⟩

/-- What the placer does with the launch, from cluster 63 on; and with one of higher priority when every cluster holds a gang. -/
def fullClusters : State :=
  let full := (List.range 64).map fun k => (k + 2, { placedGang with cluster := k })
  { placed with
    launches := [(0, placedLaunch), (1, { eager with prio := 7, queue := 1 })], gangs := full, waves := []
    contexts := upd placed.contexts 0 fun c => { c with poolPages := 64 } }
/-- Cluster 5 is held for the launch. -/
def heldRoom : State := { dependent eager with making := some (.next 0, 5) }
def placedContext : Context := (get? placed.contexts 0).get (by decide)
theorem witness_Placement :
    (∃ b, bids (dependent eager) = [] ++ b :: [] ∧ (∀ x ∈ [] ++ b :: [], x.rsv = none) ∧ findPlace (dependent eager) b.hdr 63 = some (63, 0)) ∧
    (∃ b, placerAct (placerReady (dependent eager)) 63 = some (.place b 63 0) ∧ b.cand = .next 0 ∧
      get? (placerReady (dependent eager)).launches 0 = some eager ∧ 0 < eager.hdr.members ∧
      ∃ c e d, readRange (placerReady (dependent eager)) (some eager.tag) (eager.hdr.addr.toNat + eager.hdr.doff) (4 * eager.hdr.dict.length) rightRead
          = (e, .ok []) ∧ get? e.contexts eager.tag = some c ∧
        readRange e none (c.handler.addr.toNat + c.handler.doff) (4 * c.handler.dict.length) 0 = (d, .ok []) ∧ inTheWay d b.hdr 63 0 none = []) ∧
    (∃ b, bids heldRoom = [] ++ b :: [] ∧ (∀ x ∈ [] ++ b :: [], x.rsv = none) ∧ heldRoom.making = some (b.cand, 5) ∧ coreFor heldRoom b.hdr 5 = some 0) := by
  have h : ∃ b, bids (dependent eager) = [b] ∧ placerAct (placerReady (dependent eager)) 63 = some (.place b 63 0) :=
    ⟨{ cand := .next 0, launch := 0, hdr := eager.hdr, prio := 0, since := 0, queue := 0, rsv := none }, by decide, by decide +kernel⟩
  obtain ⟨b, hb, hp⟩ := h
  have e : b = { cand := .next 0, launch := 0, hdr := eager.hdr, prio := 0, since := 0, queue := 0, rsv := none } := by
    have : bids (dependent eager) = [{ cand := .next 0, launch := 0, hdr := eager.hdr, prio := 0, since := 0, queue := 0, rsv := none }] := by decide
    rw [hb] at this
    exact (List.cons.inj this).1
  subst e
  exact ⟨⟨_, hb, by decide, by decide +kernel⟩, ⟨_, hp, rfl, by decide +kernel, by decide, placedContext, _, _, Prod.ext rfl (by decide +kernel), by decide +kernel,
    Prod.ext rfl (by decide +kernel), by decide +kernel⟩, ⟨{ cand := .next 0, launch := 0, hdr := eager.hdr, prio := 0, since := 0, queue := 0, rsv := none },
    by decide, by decide, by decide, by decide +kernel⟩⟩

/-- A saved gang, all still on its core but for what is not a bank, of one register a lane, few scratch bytes and no accumulators, in the slot at 49,152. -/
def savedResident : Gang := { placedGang with state := .saved, slot := some 49152, written := true, hdr := { placedGang.hdr with regs := 1, acc := 0, scratch := 192 } }
def savedThere : State := { placed with gangs := [(0, savedResident)] }
def stoppingGang : Gang := { placedGang with state := .stopping }
theorem witness_GangStops :
    (∃ g x a, placerAct (placerReady fullClusters) 0 = some (.stop [g] false) ∧ get? (placerReady fullClusters).gangs g = some x ∧ x.state = .running ∧
      x.slot = none ∧ slotFor (placerReady fullClusters) x = some a) ∧
    ((placed.waves.map (·.1)).Nodup ∧ get? { placed with gangs := [(0, stoppingGang)] }.gangs 0 = some stoppingGang ∧ stoppingGang.wasHalted = false ∧
      ∀ p ∈ placed.waves, p.2.gang = 0 → p.2.pending = [] ∧ ∀ f ∈ p.2.fibres, f.scout = none ∧ f.unfinished = false ∧ f.stopReq = false) ∧
    (get? savedThere.gangs 0 = some savedResident ∧ savedResident.state = .saved ∧ savedResident.slot = some 49152 ∧
      (∀ b, b ∉ savedResident.away) ∧ gangPoison savedThere 0 savedResident = [] ∧ ∃ b ∈ gangBanks savedResident.hdr, ∃ t, writeAll savedThere
        ((bankParts savedResident.hdr b ++ if savedResident.written then [] else controlParts savedResident.hdr).map fun p =>
          (49152 + p.1, ((gangImage savedThere 0 savedResident).drop p.1).take p.2)) = (t, .ok ())) ∧
    (get? { placed with gangs := [(0, { placedGang with byDevice := true })] }.gangs 0 = some { placedGang with byDevice := true } ∧
      ∀ p ∈ placed.waves, p.2.fibres.length ≤ 4 ∧ (p.2.gang = 0 → ∀ f ∈ p.2.fibres, f.unfinished = false)) ∧
    (stoppingGang.tag < 64 ∧ placed.haltAll = false ∧ (∀ p ∈ placed.gangs, asksHalt placed p.1 p.2 = false) ∧ { placed with haltAll := true }.haltAll = true ∧
      (∀ p ∈ placed.gangs, p.2.byDevice = false) ∧ ∀ p ∈ placed.ops, p.2.cls ≠ 3) := by
  refine ⟨⟨2, { placedGang with cluster := 0 }, 0, by decide +kernel, by decide +kernel, by decide, by decide, by decide +kernel⟩, ⟨by decide, rfl, rfl, by decide⟩, ⟨rfl, rfl, rfl, by decide, by decide +kernel, .regs 0 0, by decide, pair_of (by decide +kernel)⟩,
    ⟨rfl, by decide⟩, by decide, rfl, by decide, rfl, by decide, by decide⟩

end Sys2Proof.Tests
namespace Sys2Proof.Tests

open Sys2Proof Sys2Proof.Machine

/-! ### Contexts, translation, host, fabric, controller -/

/-- A context table at 49,152 whose entry 63 is in order: rights at 1,024 with one entry, the handler of `ring` at 384. -/
def contextTable : State :=
  holds { ring with cxBase := 49152 } [(49152 + 192 * 63, toBytes 8 1024 ++ toBytes 4 1 ++ toBytes 4 1 ++ toBytes 8 (2 ^ 62) ++ toBytes 8 384),
    (49152 + 192 * 63 + 0x38, [1]), (1024 + 8, toBytes 4 1 ++ toBytes 4 7),
    (49152, toBytes 8 1024 ++ toBytes 4 1 ++ toBytes 4 0 ++ toBytes 8 1)]
def entryBytes (s : State) (t : BitVec 6) (op : BitVec 4) : State × Done (List Byte) :=
  readKeep (s.commanded t op) none (s.cxBase.toNat + 192 * t.toNat) 192 0
def installBytes : List Byte :=
  toBytes 8 1024 ++ toBytes 4 1 ++ toBytes 4 1 ++ toBytes 8 (2 ^ 62) ++ toBytes 8 384 ++ List.replicate 24 0 ++ [1] ++ List.replicate 135 0
/-- The same with an entry whose FLAGS are not assigned. -/
def unflagged : State := holds contextTable [(49152 + 0x0C, [2])]
/-- The context may save its gangs. -/
def pooled : State := { placed with contexts := upd placed.contexts 0 fun c => { c with poolPages := 64 } }
theorem witness_Contexts :
    cxBusy { placed with waiting := [.install 0] } = true ∧
    (Commandable contextTable ∧ get? contextTable.contexts (63 : BitVec 6).toNat = none ∧ (get? contextTable.contexts (0 : BitVec 6).toNat).isSome) ∧
    ((∀ r ∈ contextTable.held ++ contextTable.posting, r.2.tag ≠ (63 : BitVec 6).toNat) ∧ (entryBytes contextTable 63 1).2 = .ok installBytes ∧
      contextFieldsOk (entryBytes contextTable 63 1).1 installBytes = true ∧
      (∃ h, (loadHandler (entryBytes contextTable 63 1).1 384).2 = .ok h) ∧
      (loadRights (loadHandler (entryBytes contextTable 63 1).1 384).1 1024 1).2 = some ([{ start := 0, pages := 1, bits := 7 }], false)) ∧
    (get? contextTable.contexts (0 : BitVec 6).toNat = some placedContext ∧
      (∃ bs, (entryBytes contextTable 0 2).2 = .ok bs ∧ numAt bs 0x0C 4 < 2 ∧ numAt bs 0x10 8 ≠ 0 ∧ numAt bs 0x10 8 ≤ 2 ^ 62 ∧ numAt bs 0x3C 132 = 0) ∧
      (∃ bs, (entryBytes unflagged 0 2).2 = .ok bs ∧ 2 ≤ numAt bs 0x0C 4) ∧
      ∃ r, (loadRights (contextTable.commanded 0 4) placedContext.rightsAt placedContext.rcount).2 = some r) ∧
    (Commandable pooled ∧ get? pooled.gangs 0 = some placedGang ∧ placedGang.tag = 0 ∧ placedGang.state = .running ∧ placedGang.slot = none ∧
      (slotFor pooled placedGang).isSome ∧ ∀ p ∈ pooled.gangs, p.1 = 0) := by
  refine ⟨by decide, ⟨⟨rfl, by decide⟩, by decide, by decide⟩, ⟨by decide, by decide +kernel, by decide +kernel, ?_, by decide +kernel⟩,
    ⟨rfl, ⟨toBytes 8 1024 ++ toBytes 4 1 ++ toBytes 4 0 ++ toBytes 8 1 ++ List.replicate 168 0, by decide +kernel, by decide, by decide, by decide, by decide +kernel⟩,
      ⟨toBytes 8 1024 ++ toBytes 4 1 ++ toBytes 4 2 ++ toBytes 8 1 ++ List.replicate 168 0, by decide +kernel, by decide⟩, ?_⟩,
    ⟨rfl, by decide⟩, rfl, by decide, by decide, by decide, by decide +kernel, by decide⟩
  · have h : (match (loadHandler (entryBytes contextTable 63 1).1 384).2 with | .ok _ => true | _ => false) = true := by decide +kernel
    match e : (loadHandler (entryBytes contextTable 63 1).1 384).2 with
    | .ok x => exact ⟨x, rfl⟩
    | .unreadable .. => rw [e] at h; cases h
    | .invalid => rw [e] at h; cases h
    | .pending => rw [e] at h; cases h
  · exact Option.isSome_iff_exists.mp (by decide +kernel)

/-- A parked fibre and its token. -/
def parkedFibre : Fibre := { placedFibre with state := .parked, park := some (scout.cp, { heldRecord with token := 6 }) }
def parked : State := { standing parkedFibre with cxArg0 := 6, tokens := [6], cxArg1 := 0 }
/-- A halted gang with its slot, whose image is in memory; small, without a slot, in a context that can save it; and a saved one. -/
def haltedGang : Gang := { placedGang with state := .halted, slot := some 98304, written := true }
def gangIs (g : Gang) : State := { pooled with gangs := [(0, g)] }
def halted : State := gangIs haltedGang
def smallHalted : Gang := { savedResident with state := .halted, slot := none, hdr := { savedResident.hdr with members := 0 } }
def poor : State := { gangIs smallHalted with contexts := upd placed.contexts 0 fun c => { c with poolPages := 0 } }
def noWaves : State := { placed with waves := [] }
def doneFibre : State := standing { placedFibre with state := .done }
def smallSaving : State := { (gangIs smallHalted).commanded 0 8 with gangs := [(0, { smallHalted with slot := slotFor ((gangIs smallHalted).commanded 0 8) smallHalted })] }
theorem slotRead_of {x : State × Done SlotPart} (h : (match x.2 with | .ok r => r.bad.isEmpty | _ => false) = true) :
    ∃ t bs, x = (t, .ok { bytes := bs }) := by
  obtain ⟨t, r⟩ := x
  cases r with
  | ok p =>
    obtain ⟨bs, bad⟩ := p
    cases bad with
    | nil => exact ⟨t, bs, rfl⟩
    | cons => cases h
  | fail => cases h
  | pending => cases h
theorem witness_ReplaysAndDebugger :
    (Commandable parked ∧ get? parked.contexts (0 : BitVec 6).toNat = some placedContext ∧
      (parkedOf (parked.commanded 0 5) 0).find? (fun p => p.2.2 == parked.cxArg0.toNat % 2 ^ 32) = some (0, 0, 6) ∧
      get? parked.waves 0 = some { placedWave with fibres := [parkedFibre] } ∧ get? parked.gangs placedWave.gang = some placedGang ∧
      placedGang.state = .running ∧ parkedFibre.state = .parked ∧ parkedFibre.park = some (scout.cp, { heldRecord with token := 6 })) ∧
    ((∀ p ∈ parkedOf (placed.commanded 0 5) 0, p.2.2 ≠ placed.cxArg0.toNat % 2 ^ 32) ∧ ∀ l ∈ placed.launches, l.2.heldStep = none) ∧
    (Commandable placed ∧ named placed 0 7 0 placedGang ∧ namedWave (placed.commanded 0 7) 0 = some 0 ∧
      (fibreAt placed 0 (placed.cxArg0.toNat / 2 ^ 39 % 4)).state ≠ .done ∧ placedGang.state = .running ∧ placedGang.state ≠ .halted ∧
      named placed 0 8 0 placedGang ∧ named placed 0 9 0 placedGang ∧ named placed 0 12 0 placedGang) ∧
    (Commandable noWaves ∧ named noWaves 0 7 0 placedGang ∧ namedWave (noWaves.commanded 0 7) 0 = none) ∧
    (named doneFibre 0 7 0 placedGang ∧ namedWave (doneFibre.commanded 0 7) 0 = some 0 ∧
      (fibreAt doneFibre 0 0).state = .done) ∧
    (named (gangIs savedResident) 0 7 0 savedResident ∧ savedResident.state = .saved ∧ namedWave ((gangIs savedResident).commanded 0 7) 0 = some 0) ∧
    (Commandable halted ∧ named halted 0 7 0 haltedGang ∧ named halted 0 9 0 haltedGang ∧ named halted 0 12 0 haltedGang ∧ haltedGang.state = .halted ∧
      haltedGang.slot = some 98304 ∧ haltedGang.written = true ∧ halted.haltAll = false) ∧
    (named (gangIs smallHalted) 0 8 0 smallHalted ∧ smallHalted.slot = none ∧ (slotFor ((gangIs smallHalted).commanded 0 8) smallHalted).isSome ∧
      let y : Gang := { smallHalted with slot := slotFor ((gangIs smallHalted).commanded 0 8) smallHalted }
      gangPoison smallSaving 0 y = [] ∧ ∃ t, writeAll smallSaving [((y.slot.getD 0).toNat, (gangImage smallSaving 0 y).take (slotBytes y.hdr))] = (t, .ok ())) ∧
    (let y : Gang := { smallHalted with slot := some 98304, written := true }
     let s := (gangIs y).commanded 0 9
     named (gangIs y) 0 9 0 y ∧ gangPoison s 0 y = [] ∧ ∃ t bs, readSlot s 98304 0 (slotBytes y.hdr) = (t, .ok { bytes := bs })) ∧
    (named poor 0 8 0 smallHalted ∧
      slotFor (poor.commanded 0 8) smallHalted = none) := by
  refine ⟨⟨⟨rfl, by decide⟩, rfl, by decide, rfl, rfl, rfl, rfl, rfl⟩, by decide, ⟨⟨rfl, by decide⟩, ⟨by decide, by decide, rfl⟩, by decide, by decide, by decide,
      by decide, ⟨by decide, by decide, rfl⟩, ⟨by decide, by decide, rfl⟩, ⟨by decide, by decide, rfl⟩⟩,
    ⟨⟨rfl, by decide⟩, ⟨by decide, by decide, rfl⟩, by decide⟩, ⟨⟨by decide, by decide, rfl⟩, by decide, by decide⟩,
    ⟨⟨by decide, by decide, rfl⟩, rfl, by decide⟩,
    ⟨⟨rfl, by decide⟩, ⟨by decide, by decide, rfl⟩, ⟨by decide, by decide, rfl⟩, ⟨by decide, by decide, rfl⟩, rfl, rfl, rfl, rfl⟩,
    ⟨⟨by decide, by decide, rfl⟩, rfl, by decide +kernel, by decide +kernel, pair_of (by decide +kernel)⟩,
    ⟨⟨by decide, by decide, rfl⟩, by decide +kernel, slotRead_of (by decide +kernel)⟩, ⟨by decide, by decide, rfl⟩, by decide +kernel⟩

/-- A page of 48 KiB under migration 5, two table levels down. -/
def migrating : State :=
  { holds placed [(49152 * 4096, toBytes 8 (1 + 5001 * 65536)), (49152 * 5001, toBytes 8 (1 + 5002 * 65536)),
      (49152 * 5002, toBytes 8 (1 + 2 + 4 + 32 + 3 * 65536 + 5 * 2 ^ 48))] with
    trArg0 := 5, migFrame := 6000, migCount := 6 }
def migration : Option (Nat × TlbEntry) := findMigration { migrating with trOp := 2 } 5
theorem wf_pullAll (s : State) (e : TlbEntry) (h : s.dram.wf = true) : (pullAll s e).dram.wf = true := by
  unfold pullAll
  generalize List.range 256 = ls
  induction ls generalizing s with
  | nil => exact h
  | cons l ls ih => exact ih _ (wf_pullLine s e l h)
def elsewhere : State := { placed with trArg0 := BitVec.ofNat 64 (3 * 2 ^ 57) }
theorem witness_TranslationCommands :
    (placed.live = true ∧ placed.trArg0.toNat % 49152 = 0 ∧ placed.trArg1.toNat % 49152 = 0 ∧ placeOf placed placed.trArg0.toNat = .own 0) ∧
    (elsewhere.trArg0.toNat % 49152 = 0 ∧ ∀ o, placeOf elsewhere elsewhere.trArg0.toNat ≠ .own o) ∧
    ({ placed with trArg1 := 1 } : State).trArg1.toNat % 49152 ≠ 0 ∧
    (migrating.live = true ∧ migrating.trArg0.toNat < migrating.migCount ∧
      ∃ pte e, migration = some (pte, e) ∧ pte = 49152 * 5002 ∧ e.size = 49152 ∧ pullsBad { migrating with trOp := 2 } e = none ∧ Memory.wf (pullAll { migrating with trOp := 2 } e).dram = true) ∧
    placed.migCount ≤ placed.trArg0.toNat := by
  refine ⟨by decide, ⟨by decide, ?_⟩, by decide, ⟨rfl, by decide, ?_⟩, by decide⟩
  · intro o
    rw [show placeOf elsewhere elsewhere.trArg0.toNat = .peer 3 0 by decide +kernel]
    exact fun h => by cases h
  · have h : (migration.map fun p => (p.1, p.2.size)) = some (49152 * 5002, 49152) := by decide +kernel
    match e : migration with
    | none => rw [e] at h; cases h
    | some (a, b) =>
      rw [e] at h
      simp only [Option.map_some, Option.some.injEq, Prod.mk.injEq] at h
      have hb : (migration.map fun p => (pullsBad { migrating with trOp := 2 } p.2).isNone) = some true := by decide +kernel
      rw [e, Option.map_some, Option.some.injEq] at hb
      exact ⟨a, b, rfl, h.1, h.2, Option.isNone_iff_eq_none.1 hb, wf_pullAll _ _ (by decide +kernel)⟩

/-- A condition that stands, an unmasked vector, and one whose message pends. -/
def interrupting : State := { placed with fxIntStat := 3, fxIntEn := 3, qmIntStat := 3, qmIntEn := 3, vectors := [{ mask := false }, { pending := true }] }
theorem witness_RegisterWritesAndInterrupts :
    (placed.live = true ∧ placed.calSrc ≠ 2 ∧ -200000 ≤ ((-200000 : Quad).setWidth 32).toInt ∧ ((200000 : Quad).setWidth 32).toInt ≤ 200000 ∧ 127 < 128 ∧
      (1 : Nat) ≠ 4 ∧ (1 : Nat) ≠ 8 ∧ 2 % 4 ≠ 0 ∧ 4 % 8 ≠ 0) ∧
    ((interrupting.fxIntStat &&& ~~~((1 : Word).setWidth 4)) &&& interrupting.fxIntEn ≠ 0 ∧
      (interrupting.qmIntStat &&& ~~~((1 : Word).setWidth 2)) &&& interrupting.qmIntEn ≠ 0 ∧ interrupting.vectors[1]? = some { pending := true } ∧
      interrupting.vectors[0]? = some { mask := false }) ∧
    (interrupting.fxIntStat &&& interrupting.fxIntEn ≠ 0 ∧ placed.vectors[1]?.map (·.pending) = some false) := by decide

/-- A modified host line, a translation, and questions to the host. -/
def hosted : State :=
  { placed with hostLines := [(3, { bytes := List.replicate 192 1, modified := true })], atc := [(0, true)], hostAsks := [(8, .line 3, none), (9, .translate 1 true, none)] }
theorem quiet_hosted : Quiet hosted := ⟨rfl, rfl, rfl, rfl, by decide, by decide⟩
theorem witness_HostWindow :
    (placed.live = true ∧ Memory.wf placed.dram = true ∧ placed.inWindow 0 ∧ ¬placed.inWindow (48 * 2 ^ 30)) ∧
    (hosted.live = true ∧ get? hosted.hostLines 3 = some { bytes := List.replicate 192 1, modified := true } ∧ hosted.monitors = []) ∧
    (576 < 0 + 577 ∧ 0 < 576 + 192) ∧
    (Quiet hosted ∧ (hosted.hostAsks.find? fun p => p.1 = 8 ∧ p.2.2 = none) = some (8, .line 3, none) ∧
      (hosted.hostAsks.find? fun p => p.1 = 9 ∧ p.2.2 = none) = some (9, .translate 1 true, none)) := by
  refine ⟨⟨rfl, by decide, ?_, ?_⟩, ⟨rfl, rfl, rfl⟩, by decide, ⟨quiet_hosted, by decide, by decide⟩⟩
  · unfold State.inWindow; decide
  · rintro ⟨h, -⟩
    exact absurd h (by decide)

/-- A route taken away from device 3 is its last way; a port's vector is unmasked and its condition not yet true; nothing is at 4 and at 0x30200 of 64 bits. -/
def waitingVector : State := { placed with qmIntStat := 1, fxIntStat := 8, vectors := [{ mask := false }, { mask := false }] }
theorem witness_RegisterWrites_more :
    (neighboured.live = true ∧ (∀ e ∈ neighboured.reach, upPorts { neighboured with routes := put neighboured.routes 3 0x8000 } e ≠ []) ∧
      3 ∈ neighboured.reach ∧ upPorts { neighboured with routes := put neighboured.routes 3 0 } 3 = []) ∧
    (neighboured.fabEnable = true ∧ State.reset.fabEnable = false ∧ State.reset.contexts = [] ∧ State.reset.live = true) ∧
    ((2 : Quad).getLsbD 1 = true ∧ (0 : Quad).getLsbD 1 = false) ∧
    (waitingVector.vectors[0]? = some { mask := false } ∧ ({ mask := false } : Vector).cond = false ∧
      waitingVector.qmIntStat &&& (1 : Quad).setWidth 2 ≠ 0 ∧ waitingVector.vectors[1]? = some { mask := false } ∧
      waitingVector.fxIntStat &&& (8 : Quad).setWidth 4 ≠ 0) ∧
    (4 ∉ written32 ∧ ¬(0x10000 ≤ 4 ∧ 4 < 0x12000 ∧ 4 % 8 = 0) ∧ ¬(0x30200 ≤ 4 ∧ 4 < 0x30240) ∧ 0x30200 ∉ written64) := by decide
/-- A vector that is masked while its message pends, with its condition true and not. -/
theorem witness_Unmask :
    (interrupting.live = true ∧ (interrupting.vectors[1]?.map fun x => (x.mask, x.pending)) = some (true, true) ∧ interrupting.fxIntStat &&& interrupting.fxIntEn ≠ 0) ∧
    (interrupting.vectors[0]?.map fun x => x.pending) = some false := by decide
/-- Lines and translations of the host, a line that is asked for beyond the range, and a page that no request has been made for. -/
theorem witness_HostLines_more :
    (hosted.live = true ∧ get? hosted.hostLines 3 = some { bytes := List.replicate 192 1, modified := true } ∧ hosted.monitors = []) ∧
    (0 < 577 ∧ 576 < 192 * 3 + 192 ∧ ∀ p ∈ hosted.hostAsks, ∀ n, p.2.1 = .line n → p.2.2 = none → ¬(192 * n < 0 + 192 ∧ 0 < 192 * n + 192)) ∧
    hosted.atsWaits = [] ∧ ∀ p ∈ hosted.hostAsks, p.2.1 ≠ .pageRequest 1 true := by
  refine ⟨⟨rfl, rfl, rfl⟩, ⟨by decide, by decide, ?_⟩, rfl, by decide⟩
  intro p hp n he _
  rcases List.mem_cons.1 hp with rfl | hp
  · cases he; decide
  · rcases List.mem_singleton.1 hp with rfl
    cases he

end Sys2Proof.Tests
namespace Sys2Proof.Tests

open Sys2Proof Sys2Proof.Machine

/-- Port 15 leads to device 3. -/
def linked : State :=
  { placed with
    fabEnable := true, ports := (List.replicate 15 {}) ++ [{ up := true, enable := true, peer := 3 }], routes := [(3, 0x8000)], reach := [3] }
/-- A flit of device 3, the `n`-th of its port. -/
def flitOf (ty n : Nat) (body : List Byte) : Flit := buildFlit ty n 0 3 0 none body
/-- The body of a request for an address: opcode, size code, tag, address, options, sub-operation, 16 bytes of operands. -/
def requestBody (opc size a opt sub : Nat) (imm : List Byte) : List Byte :=
  [BitVec.ofNat 8 opc, BitVec.ofNat 8 size] ++ toBytes 2 9 ++ toBytes 8 a ++ [BitVec.ofNat 8 opt, BitVec.ofNat 8 sub, 0, 0] ++ imm
theorem accept (ty : Nat) (body : List Byte) (h : flitWhole (flitOf ty 0 body) && decide (flitType (flitOf ty 0 body) ≤ 9)
    && decide (flitSeq (flitOf ty 0 body) = 0) && decide (flitDomain (flitOf ty 0 body) = 0) = true) : Accepted' linked 15 (flitOf ty 0 body) := by
  simp only [Bool.and_eq_true, decide_eq_true_eq] at h
  obtain ⟨⟨⟨h1, h2⟩, h3⟩, h4⟩ := h
  exact ⟨rfl, by decide, h1, h2, fun _ => by rw [h3]; decide, by rw [h4]; decide⟩
/-- What the link layer leaves of flits that come together. -/
def leftBy (s : State) (p : Nat) (f : Flit) (us : List Flit) : State := (linkAll (linkIn s p f).1 p us).1
theorem taken_of {s : State} {p : Nat} {f : Flit} {us : List Flit} {ty : Nat}
    (h : ((linkIn s p f).2 && (linkAll (linkIn s p f).1 p us).2 == us && flitType f == ty && flitDst f == s.devId.toNat) = true)
    (hu : ∀ u ∈ us, flitType u = 3 ∧ flitSrc u = flitSrc f ∧ flitDst u = flitDst f ∧ numAt (flitBody u) 0 2 = numAt (flitBody f) 2 2) :
    Taken s p f us ty (leftBy s p f us) := by
  simp only [Bool.and_eq_true, beq_iff_eq] at h
  exact ⟨h.1.1.1, Prod.ext rfl h.1.1.2, h.1.2, .inl h.2, hu⟩
def retrying : State := modPort linked 15 fun x => { x with unacked := [{ seq := 0, flit := [] }, { seq := 1, flit := [] }] }
/-- Flits that are not accepted: of another domain, with a gap before them, received already. -/
def foreign (ty : Nat) : Flit := buildFlit ty 0 9 3 0 none []
def later : State := modPort linked 15 fun x => { x with lastIn := some 7 }
theorem witness_LinkLayer :
    Accepted' linked 15 (flitOf 0 0 []) ∧ (Accepted' linked 15 (flitOf 4 0 [1, 0, 1, 0, 3]) ∧ Quiet (linked.accepting 15 (flitOf 4 0 [1, 0, 1, 0, 3])) ∧ linked.unsent = []) ∧
    (linked.live = true ∧ (portOf linked 15).up = true ∧ flitWhole [] = false ∧ flitWhole (foreign 0) = true ∧ flitType (foreign 0) = 0 ∧
      flitDomain (foreign 0) ≠ linked.domain.toNat ∧ flitType (foreign 1) = 1 ∧ sequenced 1 = true ∧ sequenced 0 = false ∧
      flitSeq (foreign 1) = expectedSeq (portOf linked 15) ∧ 9 < flitType (flitOf 10 0 [])) ∧
    (flitWhole (flitOf 1 2 []) = true ∧ flitSeq (flitOf 1 2 []) ≠ expectedSeq (portOf linked 15) ∧ (portOf linked 15).retrying = false ∧
      1024 < (expectedSeq (portOf linked 15) + 4096 - flitSeq (flitOf 1 2 [])) % 4096 ∧ flitSeq (flitOf 1 7 []) ≠ expectedSeq (portOf later 15) ∧
      (expectedSeq (portOf later 15) + 4096 - flitSeq (flitOf 1 7 [])) % 4096 ≤ 1024) ∧
    (Accepted' retrying 15 (flitOf 5 0 [1, 0]) ∧ flitType (flitOf 5 0 [1, 0]) = 5 ∧
      (portOf (retrying.accepting 15 (flitOf 5 0 [1, 0])) 15).unacked = [{ seq := 0, flit := [] }] ++ [{ seq := 1, flit := [] }] ∧
      numAt (flitBody (flitOf 5 0 [1, 0])) 0 2 % 4096 = 1) := by
  refine ⟨accept 0 [] (by decide +kernel), ⟨accept 4 _ (by decide +kernel), ⟨by decide +kernel, by decide +kernel, by decide +kernel, by decide +kernel, by decide +kernel, by decide +kernel⟩, rfl⟩,
    by decide +kernel, by decide +kernel,
    ⟨⟨rfl, by decide, by decide +kernel, by decide +kernel, by decide +kernel, by decide +kernel⟩, by decide +kernel, by decide +kernel, by decide +kernel⟩⟩
def probing : State := { linked with probes := [(3, 0)] }
/-- Ports: enabled and not yet up. -/
def untrained : State := { linked with ports := [{ enable := true }] }
theorem witness_Reachability :
    Taken linked 15 (flitOf 6 0 []) [] 6 (leftBy linked 15 (flitOf 6 0 []) []) ∧
    ((3 : BitVec 7) ≠ linked.devId ∧ (7 : BitVec 7) ≠ linked.devId ∧ (7 : BitVec 7).toNat ∉ linked.reach ∧
      get? linked.probes (7 : BitVec 7).toNat = none ∧ (3 : BitVec 7).toNat ∈ linked.reach) ∧
    get? ({ linked with probes := [(7, 0)], clk := 65536 } : State).probes (7 : BitVec 7).toNat = some 0 ∧
    Taken linked 15 (flitOf 7 0 []) [] 7 (leftBy linked 15 (flitOf 7 0 []) []) ∧
    (Taken probing 15 (flitOf 8 0 []) [] 8 (leftBy probing 15 (flitOf 8 0 []) []) ∧
      (get? (leftBy probing 15 (flitOf 8 0 []) []).probes (flitSrc (flitOf 8 0 []))).isSome) ∧
    (portOf linked 15).up = true ∧ (untrained.live = true ∧ (portOf untrained 0).enable = true ∧ (portOf untrained 0).up = false) := by
  refine ⟨taken_of (by decide +kernel) (by decide), by decide, by decide, taken_of (by decide +kernel) (by decide),
    ⟨taken_of (by decide +kernel) (by decide), by decide +kernel⟩, by decide, by decide⟩

/-- What an accepted request leaves, its credits given back. -/
def leftAsked (f : Flit) (us : List Flit) : State :=
  let t := leftBy linked 15 f us
  sendLocal t 15 4 (toBytes 2 1 ++ toBytes 2 (unitsFrom us).length ++ toBytes 1 t.devId.toNat)
theorem requested_of {f : Flit} {us : List Flit} {opc : Nat}
    (h : ((linkIn linked 15 f).2 && (linkAll (linkIn linked 15 f).1 15 us).2 == us && flitType f == 1 && flitDst f == linked.devId.toNat) = true)
    (hu : ∀ u ∈ us, flitType u = 3 ∧ flitSrc u = flitSrc f ∧ flitDst u = flitDst f ∧ numAt (flitBody u) 0 2 = numAt (flitBody f) 2 2)
    (he : ((leftAsked f us).fabEnable && reqOpc f == opc && decide (unitsBrought f ≤ (unitsFrom us).length)) = true) : Requested linked 15 f us opc (leftAsked f us) := by
  simp only [Bool.and_eq_true, beq_iff_eq, decide_eq_true_eq] at he
  exact ⟨⟨_, taken_of h hu, rfl⟩, he.1.1, he.1.2, he.2⟩
def request (opc size a opt sub : Nat) (imm : List Byte) : Flit := flitOf 1 0 (requestBody opc size a opt sub imm)
/-- Its data, in one flit. -/
def datum : Flit := flitOf 3 1 [9, 0, 0, 0, 7]
/-- What the checks say of the home address of a request: it can be served. -/
def serves (f : Flit) (us : List Flit) (n : Nat) (r w : Bool) : Bool := sizeFits (leftAsked f us) (reqAddr f) n && (serveCheck (leftAsked f us) (reqAddr f) n r w).2.isNone
/-- The same for an atomic operation, which is checked for reading and then for writing. -/
def servesAtomic (f : Flit) : Bool :=
  let c := serveCheck (leftAsked f []) (reqAddr f) 4 true false
  sizeFits (leftAsked f []) (reqAddr f) 4 && c.2.isNone && (serveCheck c.1 (reqAddr f) 4 true true).2.isNone
def immListContext : List Byte := List.replicate 8 0 ++ toBytes 8 1024 ++ toBytes 4 0x10001 ++ List.replicate 16 0
/-- The owner performs a list operation on the data that came with it. -/
def performs (f : Flit) (us : List Flit) : Bool :=
  let t := leftAsked f us
  match listCtx (wordsOf 5 (reqImm f)) with
  | none => false
  | some c => c.imm && (listPerform { tag := none, gang := 0, hdr := headerOf t 0, who := peerWriter } c (reqSub f) t
      (wordsOf (listBlocks (reqSub f)).1 (dataOf (unitsFrom us)))).isOk
theorem witness_PeerRequests :
    (Requested linked 15 (request 1 4 192 0 0 []) [] 1 (leftAsked (request 1 4 192 0 0 []) []) ∧ reqSize (request 1 4 192 0 0 []) = some 16 ∧
      bitOf (reqSub (request 1 4 192 0 0 [])) 1 = false ∧ serves (request 1 4 192 0 0 []) [] 16 true false = true) ∧
    (Requested linked 15 (request 2 0 0 0 0 []) [datum] 2 (leftAsked (request 2 0 0 0 0 []) [datum]) ∧ reqSize (request 2 0 0 0 0 []) = some 1 ∧
      serves (request 2 0 0 0 0 []) [datum] 1 false true = true) ∧
    (Requested linked 15 (request 3 2 0 0 8 []) [] 3 (leftAsked (request 3 2 0 0 8 []) []) ∧ reqSize (request 3 2 0 0 8 []) = some 4 ∧
      reqSub (request 3 2 0 0 8 []) < 9 ∧ servesAtomic (request 3 2 0 0 8 []) = true ∧ atomNew 8 32 0 0 0 = some 0) ∧
    (Requested linked 15 (request 4 5 48 0 0 []) [] 4 (leftAsked (request 4 5 48 0 0 []) []) ∧ reqSize (request 4 5 48 0 0 []) = some 48 ∧
      cellFmtOf 0 = some (.float .f32) ∧ serves (request 4 5 48 0 0 []) [] 48 true true = true) ∧
    (Requested linked 15 (request 5 5 48 0 0 []) [datum] 5 (leftAsked (request 5 5 48 0 0 []) [datum]) ∧ serves (request 5 5 48 0 0 []) [datum] 48 true true = true) ∧
    (Requested linked 15 (request 6 3 0 0 8 []) [] 6 (leftAsked (request 6 3 0 0 8 []) []) ∧ serves (request 6 3 0 0 8 []) [] 8 true false = true ∧
      tableUsed (serveCheck (leftAsked (request 6 3 0 0 8 []) []) 0 8 true false).1 (sliceOf 0) < 128 ∧ monTrue 0 0 0 = true ∧ monTrue 1 0 0 = false) ∧
    (Requested linked 15 (request 8 4 16 0 1 []) [] 8 (leftAsked (request 8 4 16 0 1 []) []) ∧ reqSub (request 8 4 16 0 1 []) = 1 ∧ reqSub (request 8 4 16 0 0 []) = 0 ∧
      reqSub (request 8 4 16 0 2 []) = 2 ∧ reqAddr (request 8 4 16 0 1 []) % 16 = 0 ∧ serves (request 8 4 16 0 1 []) [] 16 true true = true) ∧
    Requested linked 15 (request 7 4 0 0 0 []) [] 7 (leftAsked (request 7 4 0 0 0 []) []) ∧
    (Requested linked 15 (request 9 5 0 0 4 immListContext) [datum] 9 (leftAsked (request 9 5 0 0 4 immListContext) [datum]) ∧
      reqSub (request 9 5 0 0 4 immListContext) = 4 ∧ performs (request 9 5 0 0 4 immListContext) [datum] = true) := by
  refine ⟨⟨requested_of ?_ ?_ ?_, ?_, ?_, ?_⟩, ⟨requested_of ?_ ?_ ?_, ?_, ?_⟩, ⟨requested_of ?_ ?_ ?_, ?_, ?_, ?_, ?_⟩, ⟨requested_of ?_ ?_ ?_, ?_, ?_, ?_⟩,
    ⟨requested_of ?_ ?_ ?_, ?_⟩, ⟨requested_of ?_ ?_ ?_, ?_, ?_, ?_, ?_⟩, ⟨requested_of ?_ ?_ ?_, ?_, ?_, ?_, ?_, ?_⟩, requested_of ?_ ?_ ?_,
    ⟨requested_of ?_ ?_ ?_, ?_, ?_⟩⟩ <;> decide +kernel

/-- Requests to device 3 that have not been answered: a write and a read of an operation. -/
def awaitingAnswers : State :=
  { linked with
    clk := 2097152
    requests := [(5, { dev := 3, tag := 9, opc := 2, size := 16, who := .engineWrite 4 0, flits := [], sentAt := 0 }),
      (6, { dev := 3, tag := 10, opc := 1, size := 16, who := .engine 4 0, flits := [], sentAt := 0, status := some (0, 0), nacked := some 64 })] }
def statusFlit : Flit := flitOf 2 0 [2, 0, 9]
def refusal : Flit := flitOf 2 0 [2, 0xFF, 9]
def dataFlit : Flit := flitOf 3 0 [10, 0]
def engineWrites : Request := { dev := 3, tag := 9, opc := 2, size := 16, who := .engineWrite 4 0, flits := [], sentAt := 0 }
def engineReads : Request := { dev := 3, tag := 10, opc := 1, size := 16, who := .engine 4 0, flits := [], sentAt := 0, status := some (0, 0), nacked := some 64 }
/-- A check of a peer's store before it is made, and the write-back that a peer's fence asks for. -/
theorem witness_PeerRequests_more :
    (Requested linked 15 (request 1 4 192 0 4 []) [] 1 (leftAsked (request 1 4 192 0 4 []) []) ∧ bitOf (reqSub (request 1 4 192 0 4 [])) 2 = true ∧
      serves (request 1 4 192 0 4 []) [] 16 false true = true) ∧
    (Requested linked 15 (request 8 4 16 0 3 []) [] 8 (leftAsked (request 8 4 16 0 3 []) []) ∧ reqSub (request 8 4 16 0 3 []) = 3 ∧
      (fenceWriteBack (leftAsked (request 8 4 16 0 3 []) [])).2 = none) := by
  refine ⟨⟨requested_of ?_ ?_ ?_, ?_, ?_⟩, ⟨requested_of ?_ ?_ ?_, ?_, ?_⟩⟩ <;> decide +kernel
theorem witness_PeerAnswers :
    (Taken awaitingAnswers 15 statusFlit [] 2 (leftBy awaitingAnswers 15 statusFlit []) ∧ Taken awaitingAnswers 15 refusal [] 2 (leftBy awaitingAnswers 15 refusal []) ∧
      ((leftBy awaitingAnswers 15 statusFlit []).requests.find? fun r => r.2.dev = flitSrc statusFlit && r.2.tag = numAt (flitBody statusFlit) 2 2) = some (5, engineWrites) ∧
      numAt (flitBody statusFlit) 1 1 ≠ 0xFF ∧ numAt (flitBody refusal) 1 1 = 0xFF ∧ engineWrites.opc = 2 ∧
      numAt (flitBody statusFlit) 0 1 = 2 ∧ numAt (flitBody refusal) 0 1 = 2 ∧ engineWrites.who ≠ .cancelled) ∧
    (Taken awaitingAnswers 15 dataFlit [] 3 (leftBy awaitingAnswers 15 dataFlit []) ∧ inboundFor (leftBy awaitingAnswers 15 dataFlit []) 15 dataFlit = none ∧
      ((leftBy awaitingAnswers 15 dataFlit []).requests.find? fun r => r.2.dev = flitSrc dataFlit && r.2.tag = numAt (flitBody dataFlit) 0 2) = some (6, engineReads) ∧
      engineReads.units = [] ∧ numAt (flitBody dataFlit) 2 2 = 0) ∧
    (get? awaitingAnswers.requests 6 = some engineReads ∧ engineReads.nacked = some 64 ∧ 64 + 64 ≤ awaitingAnswers.clk ∧
      get? awaitingAnswers.requests 5 = some engineWrites ∧ engineWrites.sentAt + 2097152 ≤ awaitingAnswers.clk ∧
      ∀ w k, engineWrites.who ≠ .monitor w k ∧ engineWrites.who ≠ .dependence w k ∧ engineWrites.who ≠ .cancelled) := by
  refine ⟨⟨taken_of (by decide +kernel) (by decide), taken_of (by decide +kernel) (by decide), by decide +kernel, by decide +kernel, by decide +kernel, rfl, by decide +kernel, by decide +kernel, by decide⟩,
    ⟨taken_of (by decide +kernel) (by decide), by decide +kernel, by decide +kernel, rfl, by decide +kernel⟩,
    by decide, rfl, by decide, by decide, by decide, fun w k => ⟨(fun h => by cases h), (fun h => by cases h), (fun h => by cases h)⟩⟩

end Sys2Proof.Tests
namespace Sys2Proof.Tests

open Sys2Proof Sys2Proof.Machine

/-! ### Collective messages -/

/-- A collective of ranks 0 and 1, of this device and device 3, as the one rank and as the other. -/
def sharedColl (rank : Nat) (devs : List Nat) : State :=
  { linked with ops := [(4, opOf (.coll 8 0 0 1 0 0 0 7 0 rank devs .poll) 3 [] none)] }
def collFlit (kind rank : Nat) : Flit := flitOf 9 0 (collBody kind { oneKey 0 with epoch := 7 } rank 0)
def collDatum : Flit := flitOf 3 1 [0, 0, 0, 0, 7]
def atRoot (f : Flit) (us : List Flit) : Bool :=
  let t := leftBy (sharedColl 0 [0, 3]) 15 f us
  (memberFor t f).isNone && t.collIssues == [] && (rootGroup t (collKeyOf f).handle).isSome && (collGroup t (collKeyOf f).handle).made == none
theorem witness_CollectiveMessages :
    (Taken (sharedColl 0 [0, 3]) 15 (collFlit 0 1) [collDatum] 9 (leftBy (sharedColl 0 [0, 3]) 15 (collFlit 0 1) [collDatum]) ∧
      atRoot (collFlit 0 1) [collDatum] = true ∧ numAt (flitBody (collFlit 0 1)) 0 1 = 0 ∧ collUnits (collFlit 0 1) ≤ (unitsFrom [collDatum]).length) ∧
    (Taken (sharedColl 0 [0, 3]) 15 (collFlit 1 1) [] 9 (leftBy (sharedColl 0 [0, 3]) 15 (collFlit 1 1) []) ∧ atRoot (collFlit 1 1) [] = true ∧
      numAt (flitBody (collFlit 1 1)) 0 1 = 1) ∧
    (Taken (sharedColl 0 [0, 3]) 15 (collFlit 3 1) [] 9 (leftBy (sharedColl 0 [0, 3]) 15 (collFlit 3 1) []) ∧ atRoot (collFlit 3 1) [] = true ∧
      numAt (flitBody (collFlit 3 1)) 0 1 = 3 ∧ collRank (collFlit 3 1) ≠ 0 ∧ collRank (collFlit 3 1) ≠ 255) ∧
    (Taken (sharedColl 1 [3, 0]) 15 (collFlit 2 0) [] 9 (leftBy (sharedColl 1 [3, 0]) 15 (collFlit 2 0) []) ∧
      (memberFor (leftBy (sharedColl 1 [3, 0]) 15 (collFlit 2 0) []) (collFlit 2 0)).isSome ∧ numAt (flitBody (collFlit 2 0)) 0 1 = 2) ∧
    (Taken (sharedColl 1 [3, 0]) 15 (collFlit 3 0) [] 9 (leftBy (sharedColl 1 [3, 0]) 15 (collFlit 3 0) []) ∧
      (memberFor (leftBy (sharedColl 1 [3, 0]) 15 (collFlit 3 0) []) (collFlit 3 0)).isSome ∧ numAt (flitBody (collFlit 3 0)) 0 1 = 3) := by
  refine ⟨⟨taken_of ?_ ?_, ?_, ?_, ?_⟩, ⟨taken_of ?_ ?_, ?_, ?_⟩, ⟨taken_of ?_ ?_, ?_, ?_, ?_, ?_⟩, ⟨taken_of ?_ ?_, ?_, ?_⟩, ⟨taken_of ?_ ?_, ?_, ?_⟩⟩ <;> decide +kernel

/-! ### Calends and the management controller -/

/-- TIMECFG over Ethernet, domain 5, no VLAN, with a MAC address; a PTP message of a type, with its sequence number 7 from the
port of nines; and its frame. -/
def timeConfig : List Byte := [0, 5, 0, 0] ++ List.replicate 8 0 ++ [2, 0, 0, 0, 0, 1]
def ptpOf (ty flags : Nat) (rest : List Byte) : List Byte :=
  [BitVec.ofNat 8 ty, 2, 0, 44, 5, 0, BitVec.ofNat 8 flags, 0] ++ List.replicate 12 0 ++ List.replicate 10 9 ++ [0, 7, 0, 0] ++ List.replicate 10 0 ++ rest
def frameOf (m : List Byte) : List Byte := ptpMac ++ List.replicate 6 9 ++ [0x88, 0xF7] ++ m
def hears (ty flags : Nat) (rest : List Byte) : Bool :=
  unframe timeConfig (frameOf (ptpOf ty flags rest)) == some (ptpOf ty flags rest) && ptpOk timeConfig (ptpOf ty flags rest) &&
    ptpType (ptpOf ty flags rest) == ty && ptpPort (ptpOf ty flags rest) == List.replicate 10 9 && ptpSeq (ptpOf ty flags rest) == 7
def slaved (p : Ptp) : State := { placed with calSrc := 2, mgc := { placed.mgc with timecfg := some timeConfig, ptp := p } }
theorem witness_Calends :
    placed.live = true ∧ ({ placed with calSrc := 1 } : State).calSrc = 1 ∧ (-1000 : Quad).toInt.natAbs ≤ 1000 ∧ 1000 < (1001 : Quad).toInt.natAbs ∧
    placed.calSrc ≠ 2 ∧
    ((slaved {}).calSrc = 2 ∧ (slaved {}).mgc.timecfg = some timeConfig ∧ 18 ≤ timeConfig.length ∧ unframe timeConfig [] = none ∧
      unframe timeConfig (frameOf []) = some [] ∧ ptpOk timeConfig [] = false) ∧
    (hears 0xB 0 (List.replicate 20 1) = true ∧ 64 ≤ (ptpOf 0xB 0 (List.replicate 20 1)).length ∧ (slaved {}).mgc.ptp.master = []) ∧
    ((slaved { master := List.replicate 10 9 }).mgc.ptp.master = List.replicate 10 9 ∧ hears 0 2 [] = true ∧ bitOf (numAt (ptpOf 0 2 []) 6 1) 1 = true) ∧
    (hears 8 0 [] = true ∧ (slaved { master := List.replicate 10 9, sync := some (7, 1, 0) }).mgc.ptp.sync = some (7, 1, 0)) ∧
    (hears 9 0 (ownPort timeConfig) = true ∧ 54 ≤ (ptpOf 9 0 (ownPort timeConfig)).length ∧ ((ptpOf 9 0 (ownPort timeConfig)).drop 44).take 10 = ownPort timeConfig ∧
      (slaved { origin := some (0, 50), request := some (7, 100) }).mgc.ptp.request = some (7, 100)) ∧
    ((100 : Quad).toInt.natAbs ≤ 100 ∧ 100 < (-101 : Quad).toInt.natAbs) ∧
    (placed.calLocked = false ∧ ({ placed with calGood := some 0, calSrc := 1, clk := 16800000000 } : State).calGood = some 0) := by decide +kernel

/-- The controller with images of its own in both slots, an update of the host in progress, or of the management bus, and a command that waits. -/
def managed (owner : Option Nat) (jobs : List Job) : State :=
  { placed with mgc := { slotA := [], slotB := [], selected := false, running := some false, committed := some false, fuses := 0, owner, jobs } }
def hostJob (op : Nat) (arg : Quad) : Job := { op, arg, at_ := 0 }
def halting (s : State) : State := { s with mgc := { s.mgc with running := none } }
theorem witness_Mailbox :
    ((managed none []).live = true ∧ (managed none []).mgc.jobs = [] ∧ ∃ j ∈ (managed none [hostJob 7 300]).mgc.jobs, j.bus = none) ∧
    ((∀ j, (managed none []).mgc.jobs.head? = some j → j.op ≠ 1) ∧ ({ placed with power := false } : State).power = false) ∧
    ((managed none [hostJob 7 300]).power = true ∧ (managed none [hostJob 7 300]).mrstN = true ∧ (managed none [hostJob 7 300]).mgc.jobs = hostJob 7 300 :: [] ∧
      (hostJob 7 300).bus = none ∧ (hostJob 7 300).data = [] ∧ (halting (managed none [hostJob 7 300])).mgc.running = none) ∧
    ((managed none []).mgc.running.isSome ∧ (hostJob 3 1024).arg.toNat % 4 = 0 ∧ (hostJob 3 1024).arg.toNat < slotSize ∧
      (managed (some 1) []).mgc.owner = some 1 ∧ (∀ p, (managed none []).mgc.owner = some p → p = 0) ∧ imageSigned ((managed none []).mgc.slot true) = false ∧
      (managed none []).mgc.committed = some false ∧ 300 ≤ (hostJob 7 300).arg.toNat ∧
      (hostJob 7 300).arg.toNat ≤ 1500 ∧ (hostJob 7 0).arg.toNat < 300 ∧ numAt (List.replicate 64 (0 : Byte)) 0 1 ≤ 1 ∧
      1 < numAt (2 :: List.replicate 63 (0 : Byte)) 0 1) := by
  refine ⟨⟨rfl, rfl, _, List.mem_singleton.2 rfl, rfl⟩, ⟨fun j h => (by cases h), rfl⟩, by decide, by decide, by decide, by decide, rfl, fun p h => (by cases h), rfl, rfl, by decide,
    by decide, by decide, by decide, by decide⟩
/-- An image with a header and no body is one that boots, or that is rolled back, if its 96 last bytes are the signature that the
vendor's key makes; of the key only its holder can make one, so that is a premise. -/
def imageOf (svn : Byte) (sig : List Byte) : List Byte := toBytes 4 0x574D4742 ++ [1, 0, 0, 0, svn, 0, 0, 0, 0, 0, 0, 0] ++ sig
def flashed (svn : Byte) (sig : List Byte) : Mgc := { slotA := imageOf svn sig, slotB := imageOf svn sig, selected := false, running := none, fuses := 1 }
theorem witness_Boots (svn : Byte) (sig : List Byte) (hl : sig.length = 96) (hs : svn.toNat ≤ 64)
    (hk : ecdsaOk Config.birluamKey (toBytes 4 0x574D4742 ++ [1, 0, 0, 0, svn, 0, 0, 0, 0, 0, 0, 0]) sig = true) :
    imageSigned ((flashed svn sig).slot true) = true ∧ imageSvn ((flashed svn sig).slot true) = svn.toNat ∧ (svn = 1 → (flashed svn sig).boots false = true) := by
  have hv : imageSvn (imageOf svn sig) = svn.toNat := by simp [imageSvn, imageOf, numAt, toBytes, ofBytes, List.range, List.range.loop]
  have hsig : imageSigned (imageOf svn sig) = true := by
    have hn : numAt (imageOf svn sig) 0x0C 4 = 0 := by simp [imageOf, numAt, toBytes, ofBytes, List.range, List.range.loop]
    have h0 : numAt (imageOf svn sig) 0 4 = 0x574D4742 := by simp [imageOf, numAt, toBytes, ofBytes, List.range, List.range.loop]
    have h9 : numAt (imageOf svn sig) 9 3 = 0 := by simp [imageOf, numAt, toBytes, ofBytes, List.range, List.range.loop]
    have hlen : (imageOf svn sig).length = 112 := by simp [imageOf, toBytes, hl]
    have ht : (imageOf svn sig).take 16 = toBytes 4 0x574D4742 ++ [1, 0, 0, 0, svn, 0, 0, 0, 0, 0, 0, 0] := by simp [imageOf, toBytes, List.range, List.range.loop]
    have hd : ((imageOf svn sig).drop 16).take 96 = sig := by simp [imageOf, toBytes, List.range, List.range.loop, List.take_of_length_le, hl]
    simpa [imageSigned, imageLen, hn, h0, h9, hv, hs, hlen, ht, hd] using hk
  refine ⟨hsig, hv, fun h1 => ?_⟩
  subst h1
  exact Bool.and_eq_true_iff.2 ⟨hsig, decide_eq_true (by change 1 ≤ imageSvn (imageOf 1 sig); rw [hv]; decide)⟩

def readingsAt (milliwatts sixteenths : Nat) : Sample :=
  { readings := List.replicate 48 (BitVec.ofNat 32 sixteenths) ++ List.replicate 20 0 ++ [BitVec.ofNat 32 milliwatts] ++ List.replicate 40 0 }
/-- Two corrected errors of source 3 that have not been logged, the last record long ago, and just now. -/
def corrected (at_ : Nat) : State := { placed with correctedErrors := [(3, 2, at_)], clk := 1050000000 }
theorem witness_Management :
    ((managed none []).power = true ∧ (managed none []).mrstN = true ∧
      (∀ k < 48, signed 16 (((readingsAt 2000000 1519).readings.getD k 0).toNat % 2 ^ 16) < 95 * 16) ∧
      (∀ k < 48, signed 16 (((readingsAt 0 1520).readings.getD k 0).toNat % 2 ^ 16) < 110 * 16) ∧
      95 * 16 ≤ signed 16 (((readingsAt 0 1520).readings.getD 47 0).toNat % 2 ^ 16) ∧ (1 : Byte).toNat % 4 < 2 ∧ (8 : Byte) ≠ 0 ∧ (8 : Byte) ≠ 0xFF) ∧
    (get? (corrected 1).correctedErrors 3 = some (2, 1) ∧ 1 + 1050000000 ≤ (corrected 1).clk + 1 ∧ (corrected 2).clk + 1 < 2 + 1050000000 ∧ (2 : Nat) ≠ 0) := by
  refine ⟨by decide +kernel, by decide⟩

/-- A packet of endpoint 9 to the controller that is a whole message, under tag 8. -/
def packetHead (n : Nat) : List Byte := [BitVec.ofNat 8 (2 * busAddr), 0x0F, BitVec.ofNat 8 (n + 5), 3, 1, 0, 9, 200]
def packetWith (m : List Byte) : List Byte := packetHead m.length ++ m ++ [pec (packetHead m.length ++ m)]
theorem packetOk_packetWith (s : State) (m : List Byte) (h1 : 1 ≤ m.length) (h2 : m.length ≤ 64) : packetOk s (packetWith m) = true := by
  have hb : ∀ x : BitVec 2, (2 * (0x64 + x.toNat)) % 256 = 2 * (0x64 + x.toNat) := by decide
  have hl : (packetWith m).length = m.length + 9 := by simp [packetWith, packetHead]
  have ht : (packetWith m).take (m.length + 8) = packetHead m.length ++ m := by
    rw [packetWith, List.take_append_of_le_length (by simp [packetHead])]
    exact List.take_of_length_le (by simp [packetHead])
  have hg : (packetWith m).getD (m.length + 8) 0 = pec (packetHead m.length ++ m) := by
    have : (packetHead m.length ++ m).length = m.length + 8 := by simp [packetHead]
    simp [packetWith, List.getD_eq_getElem?_getD, ← this]
  unfold packetOk
  rw [hl, show m.length + 9 - 1 = m.length + 8 by omega, ht, hg]
  simp [packetWith, packetHead, numAt, ofBytes, busAddr, hb]
  omega
def asker : BusFrom := { addr := 1, eid := 9, tag := 8 }
/-- It is taken at once. -/
theorem takePacket_packetWith (s : State) (m : List Byte) : (takePacket s (packetWith m)).2 = some (asker, m) := by
  have hl : (packetWith m).length = m.length + 9 := by simp [packetWith, packetHead]
  have ht : ((packetWith m).take (m.length + 8)).drop 8 = m := by
    rw [List.drop_take, packetWith, show packetHead m.length ++ m ++ [pec (packetHead m.length ++ m)]
      = packetHead m.length ++ (m ++ [pec (packetHead m.length ++ m)]) by simp]
    simp [packetHead]
  have hf : packetFrom (packetWith m) = asker := by simp [packetFrom, packetWith, packetHead, numAt, ofBytes, asker]
  have hn : numAt (packetWith m) 7 1 = 200 := by simp [packetWith, packetHead, numAt, ofBytes]
  simp [takePacket, hl, ht, hf, hn, bitOf]
/-- SETCAP of 300 W as a vendor-defined message, with its integrity check. -/
def capRequest : List Byte := [7, 0, 0, 0] ++ toBytes 8 300
def capBody : List Byte := 0xFE :: (vendorPrefix ++ capRequest)
def capMessage : List Byte := capBody ++ toBytes 4 (crc32c capBody)
theorem crcBit_lt {c : Nat} (h : c < 2 ^ 32) : crcBit c < 2 ^ 32 := by
  unfold crcBit
  split
  · exact Nat.xor_lt_two_pow (by omega) (by decide)
  · omega
theorem crc32c_lt (bs : List Byte) : crc32c bs < 2 ^ 32 := by
  have hf : ∀ (bs : List Byte) (c : Nat), c < 2 ^ 32 → bs.foldl crcByte c < 2 ^ 32 := by
    intro bs
    induction bs with
    | nil => exact fun _ h => h
    | cons b t ih =>
      exact fun c h => ih _ (crcBit_lt (crcBit_lt (crcBit_lt (crcBit_lt (crcBit_lt (crcBit_lt (crcBit_lt (crcBit_lt
        (Nat.xor_lt_two_pow h (by omega))))))))))
  exact Nat.xor_lt_two_pow (hf bs _ (by decide)) (by decide)
theorem messageBody_cap : messageBody 0xFE asker capMessage = some (vendorPrefix ++ capRequest) := by
  have hb : capBody.length = 15 := by simp [capBody, vendorPrefix, capRequest, toBytes]
  have hl : capMessage.length = 19 := by simp [capMessage, hb, toBytes]
  have ht : capMessage.take 15 = capBody := by rw [capMessage, ← hb]; exact List.take_left ..
  have hd : capMessage.drop 15 = toBytes 4 (crc32c capBody) := by rw [capMessage, ← hb]; exact List.drop_left ..
  have hc : numAt capMessage 15 4 = crc32c capBody := by
    have := crc32c_lt capBody
    rw [numAt, hd]
    simp [toBytes, ofBytes, List.range, List.range.loop]
    omega
  have hh : capMessage.head? = some 0xFE := rfl
  simp [messageBody, asker, hl, ht, hc, hh, capBody]
theorem witness_ManagementBus :
    ((managed none []).power = true ∧ (managed none []).mrstN = true ∧ packetOk (managed none []) [] = false ∧ IsBusRow [] (.getEndpointId [])) ∧
    packetOk (managed none []) (packetWith capMessage) = true ∧ (takePacket (managed none []) (packetWith capMessage)).2 = some (asker, capMessage) ∧
    messageBody 0xFE asker capMessage = some (vendorPrefix ++ capRequest) ∧ 12 ≤ capRequest.length ∧ capRequest.length ≤ 3852 ∧ numAt capRequest 1 3 = 0 ∧
    (∀ code data, (takePacket (managed none []) (packetWith (0 :: 128 :: code :: data))).2 = some (asker, 0 :: 128 :: code :: data)) ∧ 8 ≤ asker.tag ∧
    (packetOk (managed none []) (packetWith [0, 128, 1, 0, 8]) = true ∧ packetOk (managed none []) (packetWith [0, 128, 2]) = true ∧
      packetOk (managed none []) (packetWith [0, 128, 4, 0x7E]) = true) ∧
    (get? ([(0, { op := 7, arg := 300, bus := some asker, at_ := 0 })] : List (Nat × Job)) 0).map (·.bus) = some (some asker) := by
  have hl : capMessage.length = 19 := by simp [capMessage, capBody, vendorPrefix, capRequest, toBytes]
  exact ⟨⟨rfl, rfl, by decide, .inl rfl⟩, packetOk_packetWith _ _ (by omega) (by omega), takePacket_packetWith _ _, messageBody_cap, by decide,
    by decide, by decide, fun _ _ => takePacket_packetWith _ _, by decide,
    ⟨packetOk_packetWith _ _ (by decide) (by decide), packetOk_packetWith _ _ (by decide) (by decide), packetOk_packetWith _ _ (by decide) (by decide)⟩, rfl⟩
/-- A packet that does not end its message. -/
def openPacket : List Byte := let q := [BitVec.ofNat 8 (2 * busAddr), 0x0F, 69, 3, 1, 0, 9, 136] ++ List.replicate 64 0; q ++ [pec q]
theorem witness_OpenMessage : (takePacket (managed none []) openPacket).2 = none := by
  have hn : numAt openPacket 7 1 = 136 := by simp [openPacket, numAt, ofBytes]
  simp [takePacket, hn, bitOf, bitsOf]

/-! ### Resets -/

/-- A dirty sector whose page is mapped. -/
def pageOf : TlbEntry := { va := 0, size := 49152, pa := 98304, write := true, sys := false, nr := false, mig := none }
def sectorOf : DirtySector := { bytes := List.replicate 48 7, cell := false, poison := none, sys := false, writers := [] }
def dirtied : State := { placed with l2 := [(2, sectorOf)], tlb := [pageOf] }
theorem witness_FunctionReset :
    dirtied.live = true ∧ dirtied.dram.wf = true ∧ get? dirtied.l2 2 = some sectorOf ∧ sectorOf.bytes.length = 48 ∧ pageOf.write = true ∧ pageOf.mig = none ∧
    ∀ u ∈ secUnits dirtied 2, tlbFind dirtied u.2 = some pageOf := by decide
theorem witness_Resets :
    (placed.mrstN = true ∧ placed.power = true ∧ placed.pwren = true) ∧ ({ placed with mrstN := false } : State).mrstN = false ∧
    ({ placed with pwren := false } : State).pwren = false := by decide

end Sys2Proof.Tests
namespace Sys2Proof.Tests

open Sys2Proof Sys2Proof.Machine

/-! ### One step -/

/-- The gang that `withFetchWord` places, at its next issue, with parcels at its program counter; its turn; and its issue. -/
def started (ps : List Half) : State :=
  let s := State.reset.withFetchWord 32 0
  { s with dram := s.dram.writeN 192 (bytesOf ps) }
def turned (ps : List Half) : State := raiseUrgency (nextTurn (planned (started ps))).1 0
def stepFibre (ps : List Half) : Fibre := fibreAt (turned ps) 0 0
def stepIssued (ps : List Half) : Issue := issueAt 0 0 ((stepFibre ps).groupAt (stepFibre ps).issuing 192) (stepFibre ps).inTrap 192
def firstFibre (ps : List Half) : Fibre :=
  { ((stepFibre ps).serve 192 (stepIssued ps).lanes).countScout with urgency := 0, urgent := false, trialed := none, safe := (turned ps).safe }
def served (ps : List Half) : State := modFibre { turned ps with issue := some (stepIssued ps) } 0 0 fun _ => firstFibre ps
def nopParcels : List Half := [0x7400, 0x0007]
def nopIssued : State := { turned nopParcels with issue := some (stepIssued nopParcels) }
def nopSeen : Here := seen nopIssued (by decide +kernel)
def nopServed : Here := { nopSeen with f := firstFibre nopParcels }
/-- The same behind a prefix. -/
def prefixed : List Half := [0xF800, 0x7400, 0x0007]
def prefixedSeen : Here := seen { turned prefixed with issue := some (stepIssued prefixed) } (by decide +kernel)
def prefixedServed : Here := { prefixedSeen with f := firstFibre prefixed }
/-- The state that fetching a parcel leaves, and the parcel. -/
def parcelAt (s : State) (h : Here) (a : Quad) : Option (State × Half) := match fetchParcel s h a with | .ok x => some x | .error _ => none
theorem fetch_of {s : State} {h : Here} {a : Quad} {x : State × Half} (e : parcelAt s h a = some x) : fetchParcel s h a = .ok x := by
  unfold parcelAt at e
  split at e
  · cases e; assumption
  · cases e
def fetched (s : State) (h : Here) (a : Quad) : State × Half := (parcelAt s h a).getD (s, 0)
theorem fetch_fetched {s : State} {h : Here} {a : Quad} {p : Half} (e : (parcelAt s h a).map (·.2) = some p) : fetchParcel s h a = .ok ((fetched s h a).1, p) := by
  obtain ⟨x, hx, rfl⟩ := Option.map_eq_some_iff.1 e
  rw [fetched, hx]
  exact fetch_of hx
def nopFirst : State × Half := fetched (served nopParcels) nopServed 192
def prefixFirst : State × Half := fetched (served prefixed) prefixedServed 192
def prefixSecond : State × Half := fetched prefixFirst.1 prefixedServed 194
theorem witness_StepRunsDecodedInstruction :
    ((nextTurn (planned (started nopParcels))).2 = .issue 0 ∧ mayIssue (nextTurn (planned (started nopParcels))).1 0 true = true ∧
      (get? (turned nopParcels).waves 0).map (·.holder) = some (some 0) ∧ (stepFibre nopParcels).choose = some 192 ∧
      hereOf nopIssued = some nopSeen ∧ heldByTrial nopSeen.l (stepFibre nopParcels) 192 = false) ∧
    (fetchParcel (served nopParcels) nopServed 192 = .ok (nopFirst.1, 0x7400) ∧ major 0x7400 ≠ 62 ∧
      ∃ t, nopServed.Body nopFirst.1 (stepIssued nopParcels) 0x7400 t { stepIssued nopParcels with next := 192 + 4 } (.instr (.nop 0))) ∧
    (nopSeen.inCode 192 = true ∧ nopSeen.inCode 254 = true ∧ nopSeen.inCode 256 = false ∧
      ∃ t, check (turned nopParcels) (some nopSeen.g.tag) 192 rightRead true false true = (t, .ok)) := by
  have hi : (stepIssued nopParcels).opc = 192 := rfl
  refine ⟨⟨by decide +kernel, by decide +kernel, by decide +kernel, by decide +kernel, hereOf_seen, by decide +kernel⟩,
    ⟨fetch_fetched (by decide +kernel), by decide, _, .word _ 0x0007 (.nop 0) (fetch_fetched (by decide +kernel)) (by decide)⟩,
    ⟨by decide +kernel, by decide +kernel, by decide +kernel, pair_of (by decide +kernel)⟩⟩
theorem witness_PrefixedStep :
    (nextTurn (planned (started prefixed))).2 = .issue 0 ∧ fetchParcel (served prefixed) prefixedServed 192 = .ok (prefixFirst.1, 0xF800) ∧ major 0xF800 = 62 ∧
    (0xF800 : Half).extractLsb' 3 7 = 0 ∧ fetchParcel prefixFirst.1 prefixedServed (192 + 2) = .ok (prefixSecond.1, 0x7400) ∧ major 0x7400 ≠ 62 ∧
    ∃ t, prefixedServed.Body prefixSecond.1 { stepIssued prefixed with opc := 192 + 2, swp := false, hint := 0 } 0x7400 t
      { stepIssued prefixed with opc := 192 + 2, swp := false, hint := 0, next := 192 + 2 + 4 } (.instr (.nop 0)) :=
  ⟨by decide +kernel, fetch_fetched (by decide +kernel), by decide, by decide, fetch_fetched (by decide +kernel), by decide,
    _, .word _ 0x0007 (.nop 0) (fetch_fetched (by decide +kernel)) (by decide)⟩
/-- Turns that stand in a clk, of several ranks: those of the operations, then the issues, then the host, then the clk's end. -/
def turnful : State := { placed with planned := some placed.clk, agenda := [.event .hostLinkUp, .issue 0, .issue 1, .elapse 1] }
theorem witness_TurnOrder :
    turnful.planned = some turnful.clk ∧ turnful.agenda = [.event .hostLinkUp] ++ .issue 0 :: [.issue 1] ++ [.elapse 1] ∧
    (∀ y ∈ [Turn.event .hostLinkUp] ++ [Turn.issue 1], goesBefore turnful (.issue 0) y = false) ∧
    ([] ++ [Turn.event (.queueDisable 3)]).find? (goesBefore placed (.event (.qmDoorbell 3 1))) = some (.event (.queueDisable 3)) ∧
    (Turn.event (.qmDoorbell 3 1)).rank ≤ (Turn.event (.queueDisable 3)).rank ∧
    (Turn.issue 0).rank < (Turn.event .hostLinkUp).rank ∧ (Turn.issue 0).rank ≤ (Turn.issue 1).rank ∧
    (splitClk ({ placed with planned := some placed.clk } : State).agenda).1 = [] ∧
    (nextTurn (planned { turnful with agenda := [.event .hostLinkUp] })).2 = .event .hostLinkUp ∧
    (nextTurn (planned { turnful with agenda := [.due (.launchReady 0)] })).2 = .due (.launchReady 0) := by decide +kernel
theorem witness_SettledKept : Settled placed ∧ ∃ t, step (started nopParcels) = .next t :=
  ⟨⟨rfl, fun m hm => by cases hm⟩, _, rfl⟩
theorem witness_RoundTrip : (Instr.addB32 ⟨5, 2, 126, 1, false, some 9⟩).wf = true ∧ encode (.addB32 ⟨5, 2, 126, 1, false, some 9⟩) ≠ [] := by decide
theorem witness_NopRule : Issuing kernelMode kernel ∧ kernel.f.retry = none ∧ (fld 0x74000007 26 6 = 0x1D ∧ fn8 0x74000007 = 7 ∧ predA 0x74000007 = 0) :=
  ⟨issuing_kernel, by decide, by decide⟩
theorem witness_ParcelOrder : hasLiteral 0x00282066 = false ∧ hasLiteral 0b000000_0000101_0000010_1111110_001_0_0 = true := by decide
theorem witness_MaskSetRule :
    (fld 0x64000010 26 6 = 0x19 ∧ fn8 0x64000010 = 16) ∧ Issuing kernelMode kernel ∧ kernel.f.retry = none ∧ kernel.canRead 119 false none ∧
    (7 : BitVec 7).toNat < 8 ∧ 8 ≤ (8 : BitVec 7).toNat :=
  ⟨by decide, issuing_kernel, by decide, plain_kernel.reads (by decide), by decide, by decide⟩

end Sys2Proof.Tests
end

section
/-! PROOFS. Number formats: floating-point arithmetic (R171, R174), QN4 (R177, R178), and exact cells (R90 to R93, R194 to R196). -/

namespace Sys2Proof.Proofs.NumberFormats

open Sys2Proof Sys2Proof.Machine

variable {s : State} {h : Here}

/-! ## Floating-point arithmetic (R171, R174): what the tables' instructions run, and that their results fit the format -/

/-- R171: every instruction of the table is the TRI form whose result is the table's exact one rounded once, to nearest. -/
theorem floatTable_exec : ∀ e ∈ floatTable, ∀ (o : Tri) (s : State), exec (e.1 o) s =
    floatTri e.2.1 (fun a b => roundTo e.2.1 .rn false (e.2.2 (e.2.1.value a) (e.2.1.value b))) o s := by
  simp only [floatTable, List.forall_mem_cons, List.not_mem_nil, false_imp_iff, implies_true, and_true]
  and_intros <;> intros <;> rfl

theorem floatTable_small : ∀ e ∈ floatTable, ∀ x y : Exact, x.Small → y.Small → (e.2.2 x y).Small := by
  simp +contextual [floatTable, Exact.add_small, Exact.mul_small, Exact.negate_small]

theorem fusedTable_exec : ∀ e ∈ fusedTable, ∀ (o : Tri) (s : State), exec (e.1 o) s = floatFma e.2 o s := by
  simp only [fusedTable, List.forall_mem_cons, List.not_mem_nil, false_imp_iff, implies_true, and_true]
  and_intros <;> intros <;> rfl

/-- R174: every instruction of the table is the form that combines the old destination with a, rounding once in its mode. -/
theorem combineTable_exec : ∀ e ∈ combineTable, ∀ (o : Flt) (s : State), exec (e.1 o) s =
    floatAcc e.2.1 e.2.2.1 (fun m d a => roundTo e.2.1 m false (e.2.2.2 m (e.2.1.value d) (e.2.1.value a))) o s := by
  simp only [combineTable, List.forall_mem_cons, List.not_mem_nil, false_imp_iff, implies_true, and_true]
  and_intros <;> intros <;> rfl

theorem combineTable_top : ∀ e ∈ combineTable, e.2.2.1 ≤ 4 := by
  simp [combineTable]

theorem combineTable_small : ∀ e ∈ combineTable, ∀ (m : Rm) (x y : Exact), x.Small → y.Small → (e.2.2.2 m x y).Small := by
  simp +contextual [combineTable, Exact.add_small, Exact.mul_small, Exact.div_small, Exact.negate_small]

/-- R174: every instruction of the table is the form of one operand, rounding once in its mode. -/
theorem oneTable_exec : ∀ e ∈ oneTable, ∀ (o : Flt) (s : State), exec (e.1 o) s =
    floatOne e.2.1 (fun m a => roundTo e.2.1 m false (e.2.2 m (e.2.1.value a))) o s := by
  simp only [oneTable, List.forall_mem_cons, List.not_mem_nil, false_imp_iff, implies_true, and_true]
  and_intros <;> intros <;> rfl

theorem oneTable_small : ∀ e ∈ oneTable, ∀ (m : Rm) (x : Exact), x.Small → (e.2.2 m x).Small := by
  simp +contextual [oneTable, Exact.sqrt_small, integral_small]

/-- The least payload of several is one of theirs (R75), so it fits where they fit. -/
theorem nanOf_small_of_forall (xs : List Exact) (hxs : ∀ x ∈ xs, x.Small) : ∀ z ∈ nanOf xs, z.Small := by
  refine List.foldlRecOn (motive := fun r => ∀ z ∈ r, Exact.Small z) xs _ (by simp) fun r hr x hx z hz => ?_
  have hx := hxs x hx
  cases x with
  | inf | fin => exact hr z hz
  | nan p =>
    rcases r with _ | (q | _ | _)
    · cases hz; exact hx
    · have hq := hr _ rfl
      cases hz
      cases p with
      | none => exact hq
      | some a =>
        cases q with
        | none => exact hx
        | some b => exact Nat.lt_of_le_of_lt (Nat.min_le_left a b) hx
    · cases hz; exact hx
    · cases hz; exact hx

theorem fused_small (x y z : Exact) (hx : x.Small) (hy : y.Small) (hz : z.Small) : (fused x y z).Small := by
  have hn := nanOf_small_of_forall [x, y, z] (by simp [hx, hy, hz])
  unfold fused
  cases e : nanOf [x, y, z] with
  | none => exact Exact.add_small _ _ _ (Exact.mul_small _ _ hx hy) hz
  | some w => exact hn w e

theorem fma_eq (t : Fmt) : fma t = fun a b d => roundTo t .rn false (fused (t.value a) (t.value b) (t.value d)) := by
  funext a b d
  simp only [fma, fused]
  cases nanOf [t.value a, t.value b, t.value d] <;> rfl

/-- A result in a format of 16 or 8 bits stays in its half of a packed register (R170). -/
theorem roundTo_lt_half {t : Fmt} (ht : t ≠ .f32) (m : Rm) (sat : Bool) {x : Exact} (hx : x.Small) : roundTo t m sat x < 2 ^ 16 := by
  have hb : t.bits ≤ 16 := by cases t <;> simp_all [Fmt.bits]
  exact Nat.lt_of_lt_of_le (roundTo_lt t m sat x hx) (Nat.pow_le_pow_right (by decide) hb)

/-! ## Results of the floating-point instructions -/

/-- A rounding mode that the entry does not accept is illegal (R78). -/
theorem floatAcc_illegal (t : Fmt) (top : Nat) (f : Rm → Nat → Nat → Nat) (o : Flt) (hi : Issuing s h) (hr : top < o.rm.toNat) :
    floatAcc t top f o s = .next (refrain h s illegalInstruction) :=
  perform_error hi (by simp only [Here.rm, hr, if_true, Bind.bind, Except.bind])

theorem floatOne_illegal (t : Fmt) (f : Rm → Nat → Nat) (o : Flt) (hi : Issuing s h) (hr : 3 < o.rm.toNat) :
    floatOne t f o s = .next (refrain h s illegalInstruction) :=
  perform_error hi (by simp only [Here.rm, hr, if_true, Bind.bind, Except.bind])

theorem floatResults : Clause.FloatResults := by
  refine ⟨fun e he s h o hi ha hb hd => ?_, fun e he s h o hi ha hb hd => ?_⟩
  · have hl (x y : Word) := lift2_halves e.2.1 (fun a b => roundTo e.2.1 .rn false (e.2.2 (e.2.1.value a) (e.2.1.value b))) x y 0
      fun ht a b _ _ => roundTo_lt_half ht _ _ (floatTable_small e he _ _ (e.2.1.value_small a) (e.2.1.value_small b))
    rw [floatTable_exec e he, floatTri_done _ _ o hi ha hb hd]
    simp only [hl]
  · have hl (x y z : Word) := lift3_halves e.2 (fun a b d => roundTo e.2 .rn false (fused (e.2.value a) (e.2.value b) (e.2.value d))) x y z
      fun ht a b d _ _ _ => roundTo_lt_half ht _ _ (fused_small _ _ _ (e.2.value_small a) (e.2.value_small b) (e.2.value_small d))
    rw [fusedTable_exec e he, floatFma_done _ o hi ha hb hd]
    simp only [fma_eq, hl]

theorem roundedFloatResults : Clause.RoundedFloatResults := by
  refine ⟨fun e he s h o hi hr ha hd => ?_, fun e he s h o hi hr ha hd => ?_, fun e he s h o hi hr => ?_, fun e he s h o hi hr => ?_⟩
  · have hl (m : Rm) (x y : Word) := lift2_halves e.2.1
      (fun d a => roundTo e.2.1 m false (e.2.2.2 m (e.2.1.value d) (e.2.1.value a))) x y 0
      fun ht d a _ _ => roundTo_lt_half ht _ _ (combineTable_small e he _ _ _ (e.2.1.value_small d) (e.2.1.value_small a))
    rw [combineTable_exec e he, floatAcc_done _ _ _ o hi (combineTable_top e he) hr ha hd]
    simp only [hl]
  · have hl (m : Rm) (x : Word) := lift1_halves e.2.1 (fun a => roundTo e.2.1 m false (e.2.2 m (e.2.1.value a))) x 0 0
      fun ht a _ => roundTo_lt_half ht _ _ (oneTable_small e he _ _ (e.2.1.value_small a))
    rw [oneTable_exec e he, floatOne_done _ _ o hi hr ha hd]
    simp only [hl]
  · rw [combineTable_exec e he, floatAcc_illegal _ _ _ o hi hr]
  · rw [oneTable_exec e he, floatOne_illegal _ _ o hi hr]

/-- Settles O4: every instruction of the tables is one of the model's forms, and a rounded half never reaches into the other. -/
theorem floatArithmetic : Obligations.FloatArithmetic := ⟨floatResults, roundedFloatResults⟩

/-! ## QN4 (R86, R177, R178) -/

/-- The fold of R86 over the first magnitudes gives the one of least distance, the first of those. -/
theorem firstLeast_spec (dist : Nat → Nat) (n : Nat) :
    let k := (List.range (n + 1)).foldl (fun b j => if dist j < dist b then j else b) 0
    k ≤ n ∧ ∀ j ≤ n, dist k ≤ dist j ∧ (dist k = dist j → k ≤ j) := by
  induction n with
  | zero => simp +contextual
  | succ n ih =>
    simp only [List.range_succ (n := n + 1), List.foldl_append, List.foldl_cons, List.foldl_nil]
    generalize (List.range (n + 1)).foldl _ 0 = b at ih ⊢
    obtain ⟨hb, hmin⟩ := ih
    split <;> rename_i hlt
    · refine ⟨Nat.le_refl _, fun j hj => ?_⟩
      rcases Nat.lt_or_eq_of_le hj with h | rfl
      · have := hmin j (by omega); omega
      · simp
    · refine ⟨by omega, fun j hj => ?_⟩
      rcases Nat.lt_or_eq_of_le hj with h | rfl
      · exact hmin j (by omega)
      · omega

/-- The code that R86 takes: the sign of the element, and the magnitude nearest to it, the first of several. -/
theorem qnNearest_eq (u y : Int) (c : Nat) : ∃ k ≤ 7, qnNearest u y c = (if y < 0 then 8 + k else k) ∧
    ∀ j ≤ 7, (y.natAbs * 128 - u * c * qnMagOf k : Int).natAbs ≤ (y.natAbs * 128 - u * c * qnMagOf j : Int).natAbs ∧
      ((y.natAbs * 128 - u * c * qnMagOf k : Int).natAbs = (y.natAbs * 128 - u * c * qnMagOf j : Int).natAbs → k ≤ j) := by
  obtain ⟨hk, hmin⟩ := firstLeast_spec (fun k => (y.natAbs * 128 - u * c * qnMagOf k : Int).natAbs) 7
  exact ⟨_, hk, rfl, hmin⟩

theorem signedCode_split (neg : Prop) [Decidable neg] {k : Nat} (hk : k ≤ 7) :
    (if neg then 8 + k else k) / 8 = (if neg then 1 else 0) ∧ (if neg then 8 + k else k) % 8 = k := by
  split <;> omega

theorem bitOf_eq_testBit (x i : Nat) : bitOf x i = x.testBit i := by
  rw [Nat.testBit_eq_decide_div_mod_eq]; rfl

/-- The two elements of a strand are the registers of its pair. -/
theorem quad_half {a : BitVec 7} (ha : a.toNat < 120) (k i : Nat) :
    (if k % 2 = 0 then (h.quad a false none i).low.toNat else (h.quad a false none i).high.toNat)
      = (h.reg (h.regOf (a.toNat + k % 2)) i).toNat := by
  simp only [Here.quad, ha, if_true, Bool.false_eq_true, if_false]
  split <;> rename_i hk
  · rw [hk, Quad.low, BitVec.setWidth_append_eq_right, Nat.add_zero]
  · rw [Nat.mod_two_ne_zero.mp hk, Quad.high, BitVec.extractLsb'_append_eq_left]

/-- R177: the block that the performing strands hold is quantised. -/
theorem execQntQn4_block (o : DuoPlain) (hi : Issuing s h) (ha : o.a.toNat < 120) (hr : h.canRead64 o.a false none)
    (hd : o.dst.toNat < 120) (hu : h.canUpdate o.dst) (hp : h.perf o.p ≠ 0) :
    let elem (k : Nat) : Nat :=
      if (h.perf o.p).getLsbD (k / 2) then (h.reg (h.regOf (o.a.toNat + k % 2)) (k / 2)).toNat else 0
    let scale := (h.reg (h.regOf o.dst.toNat) (lowest (h.perf o.p))).toNat
    let c := qnScale scale ((List.range 64).map elem)
    execQntQn4 o s = .next (settle h (h.done s (h.into o.dst (h.perf o.p) fun i =>
      BitVec.ofNat 32 (qnCode (units149 scale) (elem (2 * i)) c + 16 * qnCode (units149 scale) (elem (2 * i + 1)) c + 256 * c)))) := by
  obtain ⟨x, hx, rx⟩ := src64_canRead hi hr
  obtain ⟨y, hy, ry⟩ := oldDst_canUpdate hi hu
  refine perform_ok hi ?_
  simp only [ha, hd, evenOk_canRead64 hr, decide_true, Bool.and_self, orIllegal, if_true, hi.performing, dst_canWrite hu.1, hx, hy,
    Bind.bind, Except.bind, if_neg hp, rx.val, ry.val, quad_half ha]
  have hput (z : Src Word) := advance_put32 hi s o.dst (h.perf o.p) z
  simp only [hd, if_true] at hput
  simp only [hput]

/-- R177: with no strand performing, the group goes on. -/
theorem execQntQn4_idle (o : DuoPlain) (hi : Issuing s h) (ha : o.a.toNat < 120) (hr : h.canRead64 o.a false none)
    (hd : o.dst.toNat < 120) (hu : h.canUpdate o.dst) (hp : h.perf o.p = 0) :
    execQntQn4 o s = .next (settle h (h.done s [])) := by
  obtain ⟨x, hx, -⟩ := src64_canRead hi hr
  obtain ⟨y, hy, -⟩ := oldDst_canUpdate hi hu
  refine perform_ok hi ?_
  simp only [ha, hd, evenOk_canRead64 hr, decide_true, Bool.and_self, orIllegal, if_true, hi.performing, dst_canWrite hu.1, hx, hy,
    Bind.bind, Except.bind, hp]
  rfl

/-- R178: the even register takes the element of the low nibble, the odd one that of the high nibble. -/
theorem execDqnQn4_done (o : Duo) (hi : Issuing s h) (ha : h.canRead o.a o.u o.lit) (hd : h.canWrite64 o.dst) :
    execDqnQn4 o s = .next (settle h (h.done s (h.into64 o.dst (h.perf o.p) fun i =>
      let x := (h.word o.a o.u o.lit i).toNat
      qnExpand (x / 256 % 256) (x / 16 % 16) ++ qnExpand (x / 256 % 256) (x % 16)))) := by
  obtain ⟨x, hx, rx⟩ := srcU_canRead hi ha
  refine perform_ok hi ?_
  simp only [srcUOk_canRead ha, dst64Ok_canWrite64 hd, Bool.and_self, orIllegal, if_true, hi.performing, dstN_canWrite64 hd, hx,
    Bind.bind, Except.bind, advance_put64 hi, map_val rx, pair, bitsOf, Nat.reduceAdd, Nat.reduceSub, Nat.reducePow, Nat.div_one]

/-- Settles O8: the two runs of `qnt`, the expansion of `dqn`, and the least distance of the code taken. -/
theorem qn4Results : Obligations.Qn4Results := by
  refine ⟨fun s h o hi ha hr hd hu hp => execQntQn4_block o hi ha hr hd hu hp,
    fun s h o hi ha hr hd hu hp => execQntQn4_idle o hi ha hr hd hu hp, fun s h o hi ha hd => ?_, fun u y c j hj => ?_⟩
  · have hx := execDqnQn4_done o hi ha hd
    simp only [qnExpand, bitOf_eq_testBit] at hx
    exact hx
  · obtain ⟨k, hk, hq, hmin⟩ := qnNearest_eq u y c
    obtain ⟨hdiv, hmod⟩ := signedCode_split (y < 0) hk
    rw [hq, hmod]
    exact ⟨hdiv, hmin j (by omega)⟩

/-! ## Exact cells (R91, R92): what one contribution leaves -/

theorem wrap_wrap_add (w : Nat) (x y : Int) : wrap w (wrap w x + y) = wrap w (x + y) := by
  have hp : (2 ^ w : Int) ≠ 0 := Int.pow_ne_zero (by decide)
  unfold wrap
  rw [Int.toNat_of_nonneg (Int.emod_nonneg _ hp), Int.emod_add_emod]

/-- The sum of a cell after a contribution: a value that is not finite adds nothing. -/
def addedSum (sum : Nat) : Exact → Nat
  | .fin neg n d => wrap 320 (sum + signedNum neg (n * 2 ^ 149 / d))
  | _ => sum
/-- The complemented payload of a cell after a contribution: of several NaNs the least payload stays (R75). -/
def keptPay (nan : Bool) (pay : Nat) : Exact → Nat
  | .nan p => if nan then max pay (0x3FFFFF - p.getD 0) else 0x3FFFFF - p.getD 0
  | _ => pay
/-- Whether a contribution is a finite value other than −0. -/
def notMinusZero : Exact → Bool
  | .fin neg n _ => !(neg && n == 0)
  | _ => false

/-- R91, field by field: the counter and its overflow see only that a contribution came, and each flag is joined with its own. -/
theorem cellAdd_eq (c : Cell) (x : Exact) : c.add x = {
    sum := addedSum c.sum x, count := if c.count = 0xFFFFFFFF then c.count else c.count + 1, pay := keptPay c.nan c.pay x
    nan := c.nan || x.isNan, pinf := c.pinf || x == .inf false, ninf := c.ninf || x == .inf true
    ovf := c.ovf || c.count == 0xFFFFFFFF, nz := c.nz || notMinusZero x } := by
  by_cases hc : c.count = 0xFFFFFFFF <;> rcases x with _ | (_ | _) | _ <;>
    simp [Cell.add, hc, addedSum, keptPay, notMinusZero, Exact.isNan]

theorem addedSum_right_comm (sum : Nat) (x y : Exact) : addedSum (addedSum sum x) y = addedSum (addedSum sum y) x := by
  cases x with
  | nan | inf => rfl
  | fin s a b =>
    cases y with
    | nan | inf => rfl
    | fin t p q => simp only [addedSum, wrap_wrap_add, Int.add_right_comm]

theorem keptPay_right_comm (nan : Bool) (pay : Nat) (x y : Exact) :
    keptPay (nan || x.isNan) (keptPay nan pay x) y = keptPay (nan || y.isNan) (keptPay nan pay y) x := by
  cases x with
  | inf | fin => simp [keptPay, Exact.isNan]
  | nan p =>
    cases y with
    | inf | fin => simp [keptPay, Exact.isNan]
    | nan q => cases nan <;> simp [keptPay, Exact.isNan, Nat.max_comm, Nat.max_left_comm]

theorem cellAdd_right_comm (c : Cell) (x y : Exact) : (c.add x).add y = (c.add y).add x := by
  simp only [cellAdd_eq, addedSum_right_comm c.sum x y, keptPay_right_comm c.nan c.pay x y, Bool.or_right_comm]

/-- Settles O14: two neighbouring contributions may change places, so any permutation may be made. -/
theorem cellOrderIndependent : Obligations.CellOrderIndependent :=
  fun c _ _ hp => hp.foldl_eq' (fun x _ y _ c => cellAdd_right_comm c x y) c

/-! ## What reductions and finalisations share (R194 to R196) -/

theorem contributionTable_exec : ∀ e ∈ contributionTable, ∀ (o : Duo) (s : State), exec (e.1 o) s = redForm e.2.1 e.2.2 o s := by
  simp only [contributionTable, List.forall_mem_cons, List.not_mem_nil, false_imp_iff, implies_true, and_true]
  and_intros <;> intros <;> rfl

theorem finalTable_exec : ∀ e ∈ finalTable, ∀ (o : Flt) (s : State),
    exec (e.1 o) s = rfinForm (e.2.2.1 == 2) e.2.1 e.2.2.2 o s := by
  simp only [finalTable, List.forall_mem_cons, List.not_mem_nil, false_imp_iff, implies_true, and_true]
  and_intros <;> intros <;> rfl

/-- An instruction that accesses memory and completes brings its fibre's accesses up to the memory order (R99). -/
theorem performLate_ends (hi : Issuing s h) {k : Here → Except Stop State} {t : State} (hk : k h = .ok t) :
    performLate s k = .next (h.ends s t) :=
  performLate_ok hi hk

theorem advance_done (t : State) : advance h t = h.done t [] := rfl

/-- Without a literal word after it, code 126 is no source; it is no `s` register either (R57, R59). -/
theorem pairUOk_literal {c : BitVec 7} (hc : c = 126) (u : Bool) : h.pairUOk c u none = false := by
  subst hc
  cases u <;> cases hs : h.i.sup <;> simp [Here.pairUOk, Here.srcUOk, Here.sregOk, srcOk, hs]

theorem redForm_literal (t : CellFmt) (two : Bool) (o : Duo) (hi : Issuing s h) (ha : o.a = 126) :
    redForm t two o s = .next (refrain h s illegalInstruction) :=
  performLate_error hi (by simp only [pairUOk_literal ha, Bool.and_false, orIllegal, Bool.false_eq_true, if_false, Bind.bind, Except.bind])

theorem rfinForm_literal (wide : Bool) (modes : Nat) (f : Cell → Rm → Nat) (o : Flt) (hi : Issuing s h) (ha : o.a = 126) :
    rfinForm wide modes f o s = .next (refrain h s illegalInstruction) :=
  performLate_error hi (by simp only [pairUOk_literal ha, Bool.and_false, orIllegal, Bool.false_eq_true, if_false, Bind.bind, Except.bind])

/-- The addresses of the performing strands, all aligned, pass the check of R98. -/
theorem aligned_accesses {lanes : Lanes} {n : Nat} {addr : Nat → Nat} (ha : AllAligned lanes n addr) :
    aligned (accessesOf lanes addr) n = .ok ⟨⟩ :=
  aligned_ok _ _ (by
    intro u hu
    simp only [accessesOf, List.mem_map, lanesIn, laneOrder, List.mem_filter, List.mem_range] at hu
    obtain ⟨i, ⟨hi, hl⟩, rfl⟩ := hu
    exact ha i hi hl)

theorem orFail_here (t : State) (writes : Bool) (dests : Dests) (us : List Access) :
    orFail t writes dests (us.map fun u => (u, Got.here)) = .ok ⟨⟩ := by
  simp only [orFail, deciding_here]

theorem here_filter (us : List Access) : ((us.map fun u => (u, Got.here)).filter fun g => g.2 == .here).map (·.1) = us := by
  simp [List.filter_map, Function.comp_def]

theorem accesses_eq : accesses = accessesOf := rfl

/-- Accesses that are granted are all made here, however this device makes them. -/
theorem examine_granted_made {k : Kind} {us : List Access} {t : State} (hg : h.granted s k us t) (carry : Carry) (made : Made) :
    examine h s k false carry us made = .ok (t, us.map fun u => (u, .here)) := by
  have ha : (us.map fun u => (u, Acc.ok)).all (fun r => r.2 == .ok) = true := by simp
  unfold examine
  rw [hg]
  simp only [ha, askUnits_ok, if_true, Bool.false_eq_true, if_false]

/-! ## Reductions -/

/-- A source field without U and without a literal names a register or a coordinate. -/
theorem code_le_of_fieldOk {c : BitVec 7} (hc : FieldOk c none) : c.toNat ≤ 125 := by
  simpa [FieldOk] using hc

theorem redSource_ok {c : BitVec 7} (t : CellFmt)
    (hd : if t = .s64 then c.toNat % 2 = 0 ∧ h.canRead64 c false none else h.canRead c false none) :
    (decide (c.toNat ≤ 125) && (t != .s64 || c.toNat % 2 == 0)) = true := by
  by_cases ht : t = .s64
  · simp only [ht, if_true, Here.canRead64, Bool.false_eq_true, if_false] at hd
    simp [ht, hd.1, code_le_of_fieldOk hd.2.1]
  · simp only [ht, if_false, Here.canRead, Bool.false_eq_true] at hd
    simp [ht, code_le_of_fieldOk hd.1]

/-- A granted reduction: the accesses of its contributions are those that it makes here, sector by sector. -/
theorem redForm_granted (f : CellFmt) (two : Bool) (o : Duo) (t : State) (hi : Issuing s h)
    (hd : if f = .s64 then o.dst.toNat % 2 = 0 ∧ h.canRead64 o.dst false none else h.canRead o.dst false none)
    (ha : h.canRead64 o.a o.u none) (hal : AllAligned (h.perf o.p) 48 fun i => (h.quad o.a o.u none i).toNat)
    (hg : h.granted s redKind ((h.contributions f two o).map (·.access)) t) :
    redForm f two o s = .next (h.ends s (h.done
      (redMade h f (h.contributions f two o) t ((h.contributions f two o).map (·.access))).1 [])) := by
  obtain ⟨x, hx, rx⟩ := src64_canRead hi ha
  refine performLate_ends hi ?_
  simp only [redSource_ok f hd, pairUOk_canRead64 ha, Bool.and_self, orIllegal, if_true, notInScout, hi.notScouting, Bool.false_eq_true,
    if_false, hx, rx.val, accesses_eq, aligned_accesses hal, Bind.bind, Except.bind]
  by_cases hf : f = .s64
  · simp only [hf, if_true] at hd
    obtain ⟨y, hy, ry⟩ := src64_canRead hi hd.2
    simp only [Here.contributions, hf, if_true] at hg ⊢
    simp only [hy, Except.map, ry.val, examine_granted_made hg, orFail_here, here_filter, advance_done]
  · simp only [hf, if_false] at hd
    obtain ⟨y, hy, ry⟩ := src_canRead hi hd
    simp only [Here.contributions, hf, if_false] at hg ⊢
    simp only [hy, Except.map, ry.val, examine_granted_made hg, orFail_here, here_filter, advance_done]

/-- The contributions of one issue to one sector are one update of it (R195). -/
theorem redMade_state (f : CellFmt) (cs : List Contribution) (t : State) (us : List Access) :
    (redMade h f cs t us).1 = (sectorsOf us).foldl (fun t a => putCell t a
      (((cs.filter fun c => c.access.addr = a).map fun c => f.value c.bits).foldl Cell.add (Cell.read (rawSector t a))) h.writer) t := by
  simp only [redMade, applySector, List.foldl_map]

theorem reductionResults : Clause.ReductionResults := by
  refine ⟨fun e he s t h o hi hd ha hal hg => ?_, fun e he s h o hi ha => ?_⟩
  · rw [contributionTable_exec e he, redForm_granted e.2.1 e.2.2 o t hi hd ha hal hg, redMade_state]
  · rw [contributionTable_exec e he, redForm_literal _ _ o hi ha]

/-! ## Registers written in turn, and finalisations -/

theorem foldl_written_fibres (xs : List RegWrite) (w : Wave) : (xs.foldl h.written w).fibres = w.fibres := by
  induction xs generalizing w with
  | nil => rfl
  | cons x xs ih => rw [List.foldl_cons, ih, written_fibres]

theorem foldl_written_with (xs : List RegWrite) (w : Wave) (l : List Fibre) :
    xs.foldl h.written { w with fibres := l } = { xs.foldl h.written w with fibres := l } := by
  induction xs generalizing w with
  | nil => rfl
  | cons x xs ih => rw [List.foldl_cons, written_with, ih, List.foldl_cons]

theorem foldl_writeReg (hi : Issuing s h) (xs : List RegWrite) (low high : Nat → Bool) (t : State) :
    xs.foldl (fun t x => writeReg h t x.reg x.lanes x.val low high) t = h.changed t (fun w => xs.foldl h.written w) fun x => x := by
  induction xs generalizing t with
  | nil => exact (changed_id t).symm
  | cons x xs ih =>
    rw [List.foldl_cons, ih, writeReg_eq hi,
      changed_changed _ _ _ _ (foldl_written_fibres xs) (fun w l => foldl_written_with xs w l)]
    rfl

/-- Registers written in turn, each with its value in the lanes that are written. -/
theorem advance_writeResults (hi : Issuing s h) (rs : List (Nat × Nat)) (lanes : Lanes) (low high : Nat → Bool) (t : State)
    {v v' : Nat × Nat → Nat → Word} (hv : ∀ r i, i < 32 → lanes.getLsbD i = true → v r i = v' r i) :
    advance h (rs.foldl (fun t r => writeReg h t r.1 lanes (v r) low high) t) = h.done t (rs.map fun r => ⟨r.1, lanes, v' r⟩) := by
  have hw := foldl_writeReg hi (rs.map fun r => ⟨r.1, lanes, v r⟩) low high t
  have hc : (fun w r => h.written w ⟨r.1, lanes, v r⟩) = fun w (r : Nat × Nat) => h.written w ⟨r.1, lanes, v' r⟩ := by
    funext w r
    exact written_congr w _ _ _ _ (hv r)
  simp only [List.foldl_map, hc] at hw
  simp only [hw, advance_changed, Here.done, Here.doneWith, List.foldl_map]

/-- The registers from a field on, with their places in the result. -/
def resultRegs (h : Here) (c : BitVec 7) (n : Nat) : List (Nat × Nat) :=
  if c.toNat < 120 then (List.range n).map fun j => (h.regOf (c.toNat + j), j) else []

theorem intoN_eq (c : BitVec 7) (n : Nat) (lanes : Lanes) (v : Nat → Nat → Word) :
    h.intoN c n lanes v = (resultRegs h c n).map fun r => ⟨r.1, lanes, v r.2⟩ := by
  unfold Here.intoN resultRegs
  split <;> simp

theorem dstN_eq {c : BitVec 7} {n : Nat} (hc : h.canWriteN c n) : ∃ ds, h.dstN c n = .ok ds ∧ ds.zipIdx = resultRegs h c n := by
  refine ⟨_, dstN_canWriteN hc, ?_⟩
  unfold resultRegs
  split
  · exact List.ext_getElem (by simp) (by simp)
  · rfl

theorem canWriteN_of_final {c : BitVec 7} {n : Nat} (hn : n = 1 ∨ n = 2) (hc : if n = 2 then h.canWrite64 c else h.canWrite c) :
    h.canWriteN c n := by
  rcases hn with rfl | rfl
  · exact ⟨hc.1, fun h120 j hj => by simpa [Nat.lt_one_iff.mp hj] using hc.2 h120⟩
  · refine ⟨hc.1, fun h120 j hj => ?_⟩
    obtain ⟨-, h0, h1⟩ := hc.2 h120
    match j with
    | 0 => exact h0
    | 1 => exact h1

/-- The value that a finalisation computes of each access made here, read back by lane. -/
theorem byLane_finals (f : Cell → Nat) (t : State) (lanes : Lanes) (addr : Nat → Nat) {i : Nat} (hi : i < 32) (hl : lanes.getLsbD i = true) :
    byLane (((accessesOf lanes addr).map fun u => (u, Got.here)).map fun g => (g.1.lane, f (imageOf t g))) 0 i =
      f (Cell.read (rawSector t (addr i))) := by
  simp only [accessesOf, List.map_map, Function.comp_def, imageOf]
  exact byLane_lanes lanes (fun i => f (Cell.read (rawSector t (addr i)))) 0 i hi hl

/-- A granted finalisation writes each performing strand's value to its registers. -/
theorem rfinForm_granted (n top : Nat) (f : Cell → Rm → Nat) (o : Flt) (t : State) (hi : Issuing s h) (ht : top ≤ 4)
    (hr : o.rm.toNat ≤ top) (hn : n = 1 ∨ n = 2) (ha : h.canRead64 o.a o.u none)
    (hd : if n = 2 then h.canWrite64 o.dst else h.canWrite o.dst)
    (hal : AllAligned (h.perf o.p) 48 fun i => (h.quad o.a o.u none i).toNat)
    (hg : h.granted s rfinKind (accessesOf (h.perf o.p) fun i => (h.quad o.a o.u none i).toNat) t) :
    rfinForm (n == 2) top f o s = .next (h.ends s (h.done t (h.intoN o.dst n (h.perf o.p) fun j i =>
      BitVec.ofNat 32 (f (Cell.read (rawSector t (h.quad o.a o.u none i).toNat)) (h.mode o.rm) / 2 ^ (32 * j))))) := by
  obtain ⟨x, hx, rx⟩ := src64_canRead hi ha
  obtain ⟨ds, hds, hz⟩ := dstN_eq (canWriteN_of_final hn hd)
  have hok : (if n == 2 then dst64Ok o.dst else dstOk o.dst) = true := by
    rcases hn with rfl | rfl
    · exact dstOk_canWrite hd
    · exact dst64Ok_canWrite64 hd
  have hw : (if n == 2 then 2 else 1) = n := by rcases hn with rfl | rfl <;> rfl
  refine performLate_ends hi ?_
  simp only [hok, pairUOk_canRead64 ha, Bool.and_self, orIllegal, if_true, rm_mode ht hr, hi.performing, hw, hds, hx, rx.val,
    hi.notScouting, Bool.false_eq_true, if_false, allLanes_and, accesses_eq, aligned_accesses hal, examine_granted hg, orFail_here,
    Bind.bind, Except.bind, hz]
  rw [intoN_eq, advance_writeResults hi _ _ _ _ t fun r i hlt hl => by rw [byLane_finals (f · (h.mode o.rm)) t _ _ hlt hl]]

theorem finalTable_facts : ∀ e ∈ finalTable, e.2.1 ≤ 4 ∧ (e.2.2.1 = 1 ∨ e.2.2.1 = 2) := by
  simp [finalTable]

theorem finalisationResults : Clause.FinalisationResults := by
  refine ⟨fun e he s t h o hi hr ha hd hal hg => ?_, fun e he s h o hi ha => ?_⟩
  · obtain ⟨ht, hn⟩ := finalTable_facts e he
    rw [finalTable_exec e he, rfinForm_granted e.2.2.1 e.2.1 e.2.2.2 o t hi ht hr hn ha hd hal hg]
  · rw [finalTable_exec e he, rfinForm_literal _ _ _ o hi ha]

/-- Settles O15: a granted access is made here, and code 126 without a literal is no address. -/
theorem reductionsAndFinalisations : Obligations.ReductionsAndFinalisations := ⟨reductionResults, finalisationResults⟩

end Sys2Proof.Proofs.NumberFormats
end

section
/-! PROOFS. Integer instructions (R152 to R154, R158, R159), `mset` (R157) and `nop` (R164). -/

namespace Sys2Proof.Proofs.IntegerControl

open Sys2Proof Sys2Proof.Machine

variable {s : State} {h : Here}

/-! ## Products, rotations, shifts, extremes and saturation (R152, R154, R158) -/

theorem mulwN_eq (a b : Word) : mulwN a b = a.setWidth 64 * b.setWidth 64 := by
  rw [mulwN, BitVec.ofNat_mul]
  simp only [BitVec.ofNat_toNat]

theorem mulwS_eq (a b : Word) : mulwS a b = a.signExtend 64 * b.signExtend 64 :=
  BitVec.ofInt_mul _ _

theorem ofNat_high (n : Nat) : BitVec.ofNat 32 (n / 2 ^ 32) = (BitVec.ofNat 64 n).extractLsb' 32 32 := by
  apply BitVec.eq_of_toNat_eq
  simp only [BitVec.toNat_ofNat, BitVec.extractLsb'_toNat, Nat.shiftRight_eq_div_pow]
  omega

theorem ofInt_high (x : Int) : BitVec.ofInt 32 (x / 2 ^ 32) = (BitVec.ofInt 64 x).extractLsb' 32 32 := by
  apply BitVec.eq_of_toNat_eq
  simp only [BitVec.toNat_ofInt, BitVec.extractLsb'_toNat, Nat.shiftRight_eq_div_pow]
  omega

theorem mulhiN_eq (a b : Word) : mulhiN a b = (a.setWidth 64 * b.setWidth 64).extractLsb' 32 32 := by
  rw [← mulwN_eq]
  exact ofNat_high _

theorem mulhiS_eq (a b : Word) : mulhiS a b = (a.signExtend 64 * b.signExtend 64).extractLsb' 32 32 := by
  rw [← mulwS_eq]
  exact ofInt_high _

/-- A rotation by the low `k` bits of a word, as the two shifts that make it. -/
theorem rotateLeft_low_bits {k : Nat} (hk : k < 32) (a : BitVec (2 ^ k)) (b : Word) :
    let n := b &&& BitVec.ofNat 32 (2 ^ k - 1)
    a.rotateLeft (b.toNat % 2 ^ k) = a <<< n ||| a >>> (BitVec.ofNat 32 (2 ^ k) - n) := by
  intro n
  have hlt : 2 ^ k < 2 ^ 32 := Nat.pow_lt_pow_right (by decide) hk
  have hmod : b.toNat % 2 ^ k < 2 ^ k := Nat.mod_lt _ (Nat.two_pow_pos k)
  have hw : (BitVec.ofNat 32 (2 ^ k)).toNat = 2 ^ k := Nat.mod_eq_of_lt hlt
  have hn : n.toNat = b.toNat % 2 ^ k := by
    rw [BitVec.toNat_and, BitVec.toNat_ofNat, Nat.mod_eq_of_lt (by omega), Nat.and_two_pow_sub_one_eq_mod]
  have hle : n ≤ BitVec.ofNat 32 (2 ^ k) := by rw [BitVec.le_def, hn, hw]; exact Nat.le_of_lt hmod
  rw [BitVec.rotateLeft_def, Nat.mod_mod, BitVec.shiftLeft_eq', BitVec.ushiftRight_eq', BitVec.toNat_sub_of_le hle, hn, hw]

theorem rotateLeft_word (a b : Word) : a.rotateLeft (b.toNat % 32) = a <<< (b &&& 31) ||| a >>> (32 - (b &&& 31)) :=
  rotateLeft_low_bits (k := 5) (by decide) a b
theorem rotateLeft_quad (a : Quad) (b : Word) : a.rotateLeft (b.toNat % 64) = a <<< (b &&& 63) ||| a >>> (64 - (b &&& 63)) :=
  rotateLeft_low_bits (k := 6) (by decide) a b

/-! A shift by an immediate never reaches the width (R136, R158). -/

theorem shiftLeft_imm (a : Word) (n : BitVec 5) : shiftLeft a n.toNat = a <<< n := if_pos n.isLt
theorem shiftRight_imm (a : Word) (n : BitVec 5) : shiftRight a n.toNat = a >>> n := if_pos n.isLt
theorem shiftRightS_imm (a : Word) (n : BitVec 5) : shiftRightS a n.toNat = a.sshiftRight n.toNat := by
  have := n.isLt
  rw [shiftRightS, Nat.min_eq_left (by omega)]

/-- Two tests choose alike when the values agree wherever only the weaker one holds. -/
theorem ite_eq_ite_of_imp {α : Type} {p q : Prop} [Decidable p] [Decidable q] {u v : α} (hqp : q → p) (huv : p → ¬q → u = v) :
    (if p then u else v) = if q then u else v := by
  by_cases hq : q
  · rw [if_pos (hqp hq), if_pos hq]
  · rw [if_neg hq]
    split
    case isTrue hp => exact huv hp hq
    case isFalse => rfl

theorem eq_of_toInt_le_of_not_slt {a b : Word} (hle : a.toInt ≤ b.toInt) (hlt : ¬a.slt b = true) : a = b := by
  rw [BitVec.slt_iff_toInt_lt] at hlt
  exact BitVec.eq_of_toInt_eq (by omega)

theorem toInt_le_of_slt {a b : Word} (hlt : a.slt b = true) : a.toInt ≤ b.toInt :=
  Int.le_of_lt (BitVec.slt_iff_toInt_lt.mp hlt)

theorem minS_eq (a b : Word) : minS a b = if a.slt b then a else b :=
  ite_eq_ite_of_imp toInt_le_of_slt eq_of_toInt_le_of_not_slt

theorem maxS_eq (a b : Word) : maxS a b = if a.slt b then b else a :=
  ite_eq_ite_of_imp toInt_le_of_slt fun hle hlt => (eq_of_toInt_le_of_not_slt hle hlt).symm

theorem minN_eq (a b : Word) : minN a b = if a < b then a else b :=
  ite_eq_ite_of_imp Nat.le_of_lt fun hle hlt => BitVec.le_antisymm hle (BitVec.not_lt.mp hlt)

theorem maxN_eq (a b : Word) : maxN a b = if a < b then b else a :=
  ite_eq_ite_of_imp Nat.le_of_lt fun hle hlt => BitVec.le_antisymm (BitVec.not_lt.mp hlt) hle

theorem clampInt_eq {lo hi : Int} (hl : lo ≤ hi) (x : Int) : clampInt lo hi x = max lo (min hi x) := by
  unfold clampInt
  split
  · omega
  · split <;> omega

theorem clampS_eq (x : Int) : clampS x = BitVec.ofInt 32 (max (-(2 ^ 31)) (min (2 ^ 31 - 1) x)) := by
  rw [clampS, clampInt_eq (by decide)]

theorem addsN_eq (a b : Word) : addsN a b = if a.toNat + b.toNat < 2 ^ 32 then a + b else 0xFFFFFFFF := by
  apply BitVec.eq_of_toNat_eq
  unfold addsN
  split <;> bv_omega

theorem subsN_eq (a b : Word) : subsN a b = if a < b then 0 else a - b := by
  apply BitVec.eq_of_toNat_eq
  unfold subsN
  split <;> bv_omega

theorem absdN_eq (a b : Word) : absdN a b = if a < b then b - a else a - b := by
  apply BitVec.eq_of_toNat_eq
  unfold absdN
  split <;> bv_omega

/-! ## Bit fields (R153) -/

theorem fieldPos_eq (b : Word) : fieldPos b = b.toNat % 32 := by
  simp [fieldPos, bitsOf]
theorem fieldEnd_eq (b : Word) : fieldEnd b = min 32 (b.toNat % 32 + min 32 (b.toNat / 256 % 64)) := by
  simp [fieldEnd, fieldPos_eq, bitsOf]

theorem controlMask_eq (b : Word) : controlMask b = maskOf fun i => decide (fieldPos b ≤ i ∧ i < fieldEnd b) := by
  rw [fieldPos_eq, fieldEnd_eq]; rfl

theorem controlField_eq (a b : Word) (f : Word → Nat → Word) :
    controlField a b f = f ((a &&& controlMask b) >>> fieldPos b) (fieldEnd b - fieldPos b) := by
  rw [fieldPos_eq, fieldEnd_eq]; rfl

theorem fieldEnd_le (b : Word) : fieldEnd b ≤ 32 := by unfold fieldEnd; omega

theorem fieldOf_testBit (a b : Word) (i : Nat) :
    (fieldOf a b).testBit i = (decide (fieldPos b + i < fieldEnd b) && a.getLsbD (fieldPos b + i)) := by
  rw [fieldOf, Nat.testBit_mod_two_pow, Nat.testBit_div_two_pow, BitVec.testBit_toNat, Nat.add_comm i]
  congr 1
  exact decide_eq_decide.mpr (by omega)

/-- The bits of a value under the mask of a field control are the field at its place. -/
theorem toNat_and_controlMask (a b : Word) : (a &&& controlMask b).toNat = fieldOf a b * 2 ^ fieldPos b := by
  have := fieldEnd_le b
  apply Nat.eq_of_testBit_eq
  intro i
  rw [BitVec.testBit_toNat, BitVec.getLsbD_and, controlMask_eq, maskOf_getLsbD, Nat.testBit_mul_two_pow, fieldOf_testBit]
  by_cases hp : fieldPos b ≤ i
  · by_cases he : i < fieldEnd b
    · simp [hp, he, Nat.add_sub_cancel' hp, show i < 32 by omega]
    · simp [hp, he, Nat.add_sub_cancel' hp]
  · simp [hp]

theorem bfxN_eq (a b : Word) : bfxN a b = controlField a b fun x _ => x := by
  rw [controlField_eq]
  apply BitVec.eq_of_toNat_eq
  have hlt := ((a &&& controlMask b) >>> fieldPos b).isLt
  have hf : ((a &&& controlMask b) >>> fieldPos b).toNat = fieldOf a b := by
    rw [BitVec.toNat_ushiftRight, toNat_and_controlMask, Nat.shiftRight_eq_div_pow, Nat.mul_div_cancel _ (Nat.two_pow_pos _)]
  rw [hf] at hlt ⊢
  exact Nat.mod_eq_of_lt hlt

theorem signed_eq_toInt (n x : Nat) : signed n x = (BitVec.ofNat n x).toInt := by
  rw [BitVec.toInt_eq_toNat_cond, BitVec.toNat_ofNat]
  rfl

/-- The signed value of the low bits of a word is two shifts. -/
theorem signExtend_setWidth_eq_shifts {n : Nat} (h0 : 0 < n) (hn : n ≤ 32) (a : Word) :
    (a.setWidth n).signExtend 32 = (a <<< (32 - n)).sshiftRight (32 - n) := by
  apply BitVec.eq_of_getLsbD_eq
  intro i hi
  rw [BitVec.getLsbD_signExtend, BitVec.getLsbD_sshiftRight]
  have hi' : ¬32 ≤ i := by omega
  by_cases hin : i < n
  · have hk : 32 - n + i < 32 ∧ ¬32 - n + i < 32 - n ∧ 32 - n + i - (32 - n) = i := by omega
    simp only [hi, hi', hin, hk, if_true, BitVec.getLsbD_setWidth, BitVec.getLsbD_shiftLeft, decide_true, decide_false, Bool.not_false,
      Bool.true_and]
  · have hk : ¬32 - n + i < 32 ∧ 32 - 1 < 32 ∧ ¬32 - 1 < 32 - n ∧ 32 - 1 - (32 - n) = n - 1 ∧ n - 1 < n := by omega
    simp only [hi, hi', hin, hk, if_false, BitVec.msb_eq_getLsbD_last, BitVec.getLsbD_setWidth, BitVec.getLsbD_shiftLeft, decide_true,
      decide_false, Bool.not_false, Bool.true_and]

theorem bfxS_eq (a b : Word) :
    bfxS a b = controlField a b fun x n => if n = 0 then 0 else (x <<< (32 - n)).sshiftRight (32 - n) := by
  have hx := bfxN_eq a b
  have hn : fieldEnd b - fieldPos b ≤ 32 := Nat.le_trans (Nat.sub_le _ _) (fieldEnd_le b)
  rw [controlField_eq] at hx ⊢
  rw [← hx, bfxS, signed_eq_toInt]
  generalize fieldEnd b - fieldPos b = n at hn
  split
  case isTrue h0 => subst h0; rw [BitVec.toInt_zero_length]; rfl
  case isFalse h0 =>
    rw [← signExtend_setWidth_eq_shifts (Nat.pos_of_ne_zero h0) hn, bfxN, BitVec.setWidth_ofNat_of_le hn]
    rfl

/-- What a mask takes of one value and what it leaves of another stand side by side. -/
theorem toNat_and_or_and_not {w : Nat} (x y m : BitVec w) : (x &&& m ||| y &&& ~~~m).toNat = (x &&& m).toNat + (y &&& ~~~m).toNat := by
  have hd : x &&& m &&& (y &&& ~~~m) = 0#w := by
    ext i
    simp +contextual
  rw [← BitVec.add_eq_or_of_and_eq_zero _ _ hd, BitVec.toNat_add_of_and_eq_zero hd]

theorem and_or_and_not_self {w : Nat} (d m : BitVec w) : d &&& m ||| d &&& ~~~m = d := by
  ext i
  cases hm : m[i] <;> simp [hm]

/-- The low bits of a value, moved to the field, are the value's bits under the mask once it is moved there. -/
theorem toNat_shiftLeft_and_controlMask (a b : Word) :
    (a <<< fieldPos b &&& controlMask b).toNat = a.toNat % 2 ^ (fieldEnd b - fieldPos b) * 2 ^ fieldPos b := by
  have := fieldEnd_le b
  rw [toNat_and_controlMask]
  congr 1
  apply Nat.eq_of_testBit_eq
  intro i
  rw [fieldOf_testBit, Nat.testBit_mod_two_pow, BitVec.testBit_toNat, BitVec.getLsbD_shiftLeft]
  by_cases he : fieldPos b + i < fieldEnd b
  · simp [he, show fieldPos b + i < 32 by omega, show i < fieldEnd b - fieldPos b by omega]
  · simp [he, show ¬i < fieldEnd b - fieldPos b by omega]

theorem bfi_eq (a b d : Word) : bfi a b d = (d &&& ~~~controlMask b) ||| (a <<< (b.toNat % 32) &&& controlMask b) := by
  have hsplit := toNat_and_or_and_not d d (controlMask b)
  have hjoin := toNat_and_or_and_not (a <<< fieldPos b) d (controlMask b)
  rw [and_or_and_not_self, toNat_and_controlMask] at hsplit
  rw [toNat_shiftLeft_and_controlMask] at hjoin
  rw [BitVec.or_comm, ← fieldPos_eq]
  apply BitVec.eq_of_toNat_eq
  rw [bfi, hsplit, Nat.add_sub_cancel_left, Nat.add_comm, ← hjoin]
  exact Nat.mod_eq_of_lt (BitVec.isLt _)

/-! ## Counts, reversal and one-source arithmetic (R159) -/

theorem popc_eq (a : Word) : popc a = BitVec.ofNat 32 ((List.range 32).countP fun i => a.getLsbD i) := by
  rw [popc, lanesIn, laneOrder, List.countP_eq_length_filter]

theorem ctz_eq (a : Word) : ctz a = BitVec.ofNat 32 (((List.range 32).find? fun k => a.getLsbD k).getD 32) := by
  rw [ctz, lanesIn, laneOrder, List.headD_eq_head?_getD, List.head?_filter]

/-- The highest set lane is the first one found from the top. -/
theorem lanesIn_getLast? (a : Lanes) :
    (lanesIn a).getLast? = ((List.range 32).find? fun k => a.getLsbD (31 - k)).map (31 - ·) := by
  have hrev : (List.range 32).reverse = (List.range 32).map (31 - ·) := by decide
  rw [lanesIn, laneOrder, List.getLast?_filter, hrev, List.find?_map]
  rfl

theorem clz_eq (a : Word) : clz a = BitVec.ofNat 32 (((List.range 32).find? fun k => a.getLsbD (31 - k)).getD 32) := by
  rw [clz, lanesIn_getLast?]
  cases hf : (List.range 32).find? fun k => a.getLsbD (31 - k) with
  | none => rfl
  | some k =>
    have hk : k < 32 := List.mem_range.mp (List.mem_of_find?_eq_some hf)
    simp only [Option.map_some, Option.getD_some]
    congr 1
    omega

theorem brev_eq (a : Word) : brev a = a.reverse := by
  apply BitVec.eq_of_getLsbD_eq
  intro i hi
  rw [brev, maskOf_getLsbD, BitVec.getLsbD_reverse, BitVec.getMsbD]

theorem absS_eq (a : Word) : absS a = if a.msb then 0 - a else a := by
  simp [absS, BitVec.msb_eq_toInt]

theorem div_three_eq {w : Nat} (h3 : 3 < 2 ^ w) (a : BitVec w) : a / 3 = BitVec.ofNat w (a.toNat / 3) := by
  have hn : (3 : BitVec w).toNat = 3 := Nat.mod_eq_of_lt h3
  rw [BitVec.udiv_def, hn]

theorem mod_three_eq {w : Nat} (h3 : 3 < 2 ^ w) (a : BitVec w) : a % 3 = BitVec.ofNat w (a.toNat % 3) := by
  have hn : (3 : BitVec w).toNat = 3 := Nat.mod_eq_of_lt h3
  rw [BitVec.umod_def, hn]

theorem sxb_eq (a : Word) : sxb a = (a <<< 24).sshiftRight 24 := signExtend_setWidth_eq_shifts (n := 8) (by decide) (by decide) a
theorem sxh_eq (a : Word) : sxh a = (a <<< 16).sshiftRight 16 := signExtend_setWidth_eq_shifts (n := 16) (by decide) (by decide) a

/-! ## The tables: what form each instruction runs, and with what function (R152 to R154, R158, R159) -/

theorem integerTable_exec : ∀ e ∈ integerTable, ∀ (o : Tri) (s : State), exec (e.1 o) s = triForm e.2 o s := by
  simp only [integerTable, List.forall_mem_cons, List.not_mem_nil, false_imp_iff, implies_true, and_true, ← mulhiS_eq, ← mulhiN_eq,
    ← rotateLeft_word, ← minS_eq, ← maxS_eq, ← minN_eq, ← maxN_eq, ← clampS_eq, ← addsN_eq, ← subsN_eq, ← absdN_eq, ← bfxN_eq,
    ← bfxS_eq]
  and_intros <;> intros <;> rfl

theorem accTable_exec : ∀ e ∈ accTable, ∀ (o : Tri) (s : State), exec (e.1 o) s = triAccForm e.2 o s := by
  simp only [accTable, List.forall_mem_cons, List.not_mem_nil, false_imp_iff, implies_true, and_true, ← bfi_eq]
  and_intros <;> intros <;> rfl

theorem quadTable_exec : ∀ e ∈ quadTable, ∀ (o : Tri) (s : State), exec (e.1 o) s = quadForm e.2 o s := by
  simp only [quadTable, List.forall_mem_cons, List.not_mem_nil, false_imp_iff, implies_true, and_true]
  and_intros <;> intros <;> rfl

theorem wideTable_exec : ∀ e ∈ wideTable, ∀ (o : Tri) (s : State), exec (e.1 o) s = wideForm e.2 o s := by
  simp only [wideTable, List.forall_mem_cons, List.not_mem_nil, false_imp_iff, implies_true, and_true, ← mulwN_eq, ← mulwS_eq]
  and_intros <;> intros <;> rfl

theorem quadWordTable_exec : ∀ e ∈ quadWordTable, ∀ (o : Tri) (s : State), exec (e.1 o) s = quadWordForm e.2 o s := by
  simp only [quadWordTable, List.forall_mem_cons, List.not_mem_nil, false_imp_iff, implies_true, and_true, ← rotateLeft_quad]
  and_intros <;> intros <;> rfl

theorem immediateTable_exec : ∀ e ∈ immediateTable, ∀ (d a : BitVec 7) (p : BitVec 3) (n : BitVec 9) (s : State),
    exec (e.1 d a p n) s = immForm (fun x => e.2 x n) d a p s := by
  simp only [immediateTable, List.forall_mem_cons, List.not_mem_nil, false_imp_iff, implies_true, and_true,
    ← shiftLeft_imm, ← shiftRight_imm, ← shiftRightS_imm]
  and_intros <;> intros <;> rfl

theorem duoTable_exec : ∀ e ∈ duoTable, ∀ (o : Duo) (s : State), exec (e.1 o) s = duoForm e.2 o s := by
  simp only [duoTable, List.forall_mem_cons, List.not_mem_nil, false_imp_iff, implies_true, and_true, ← absS_eq, ← popc_eq, ← clz_eq,
    ← ctz_eq, ← brev_eq, ← sxb_eq, ← sxh_eq, ← div_three_eq (w := 32) (by decide), ← mod_three_eq (w := 32) (by decide)]
  and_intros <;> intros <;> rfl

theorem duoQuadTable_exec : ∀ e ∈ duoQuadTable, ∀ (o : Duo) (s : State), exec (e.1 o) s = duoQuadForm e.2 o s := by
  simp only [duoQuadTable, List.forall_mem_cons, List.not_mem_nil, false_imp_iff, implies_true, and_true,
    ← div_three_eq (w := 64) (by decide), ← mod_three_eq (w := 64) (by decide)]
  and_intros <;> intros <;> rfl

/-! ## The integer clauses -/

theorem integerResults : Clause.IntegerResults :=
  ⟨fun e he s _ o hi ha hb hd => (integerTable_exec e he o s).trans (triForm_done e.2 o hi ha hb hd),
   fun e he s _ o hi ha hb hd => (accTable_exec e he o s).trans (triAccForm_done e.2 o hi ha hb hd)⟩

theorem wideIntegerResults : Clause.WideIntegerResults :=
  ⟨fun e he s _ o hi ha hb hd => (quadTable_exec e he o s).trans (quadForm_done e.2 o hi ha hb hd),
   fun e he s _ o hi ha hb hd => (wideTable_exec e he o s).trans (wideForm_done e.2 o hi ha hb hd),
   fun e he s _ o hi ha hb hd => (quadWordTable_exec e he o s).trans (quadWordForm_done e.2 o hi ha hb hd)⟩

theorem oneSourceResults : Clause.OneSourceResults :=
  ⟨fun e he s _ o hi ha hd => (duoTable_exec e he o s).trans (duoForm_done e.2 o hi ha hd),
   fun e he s _ o hi ha hd => (duoQuadTable_exec e he o s).trans (duoQuadForm_done e.2 o hi ha hd)⟩

theorem execAddN64Imm_done (o : Rri) (hi : Issuing s h) (ha : h.canRead64 o.a false none) (hd : h.canWrite64 o.dst) :
    execAddN64Imm o s = .next (settle h (h.done s (h.into64 o.dst (h.perf o.p) fun i =>
      h.quad o.a false none i + o.imm.signExtend 64))) := by
  obtain ⟨x, hx, rx⟩ := src64_canRead hi ha
  refine perform_ok hi ?_
  simp only [srcOk_canRead64 ha, evenOk_canRead64 ha, dst64Ok_canWrite64 hd, Bool.and_self, orIllegal, if_true, hi.performing,
    dstN_canWrite64 hd, hx, Bind.bind, Except.bind, advance_put64 hi, map_val rx]

theorem execMovB32Imm_done (o : Ri) (hi : Issuing s h) (hd : h.canWrite o.dst) :
    execMovB32Imm o s = .next (settle h (h.done s (h.into o.dst (h.perf o.p) fun _ => o.imm.signExtend 32))) := by
  refine perform_ok hi ?_
  simp only [dstOk_canWrite hd, orIllegal, if_true, hi.performing, dst_canWrite hd, Bind.bind, Except.bind, advance_put32 hi]

/-- R150, R158: an `s` register is written once, and only when a strand performs. -/
theorem execMovB32ImmS_done (o : Ri) (hi : Issuing s h) (hd : o.dst.toNat < if h.i.sup then 16 else 64) :
    execMovB32ImmS o s =
      .next (settle h (if h.perf o.p = 0 then h.done s [] else h.doneS s o.dst.toNat (o.imm.signExtend 32))) := by
  refine perform_ok hi ?_
  simp only [Here.sregOk, hd, decide_true, orIllegal, if_true, hi.performing, Bind.bind, Except.bind]
  split
  · rfl
  · rw [advance_writeS hi]

theorem immediateResults : Clause.ImmediateResults :=
  ⟨fun e he s _ d a p n hi ha hd => (immediateTable_exec e he d a p n s).trans (immForm_done (e.2 · n) d a p hi ha hd),
   fun _ _ o => execAddN64Imm_done o, fun _ _ o => execMovB32Imm_done o, fun _ _ o => execMovB32ImmS_done o⟩

/-- Settles O1: every instruction of the tables runs a form on the table's function, and the form writes its value. -/
theorem integerArithmetic : Obligations.IntegerArithmetic :=
  ⟨integerResults, wideIntegerResults, oneSourceResults, immediateResults⟩

/-! ## `nop` and `mset` (R157, R164) -/

theorem settle_first {t : State} (hr : h.f.retry = none) : settle h t = t := if_pos hr

theorem execNop_done (p : BitVec 3) (hi : Issuing s h) : execNop p s = .next (settle h (h.done s [])) :=
  perform_ok hi (by simp only [hi.performing, Bind.bind, Except.bind]; rfl)

theorem decodeWord_nop_iff {w : Word} {q : BitVec 3} (hop : fld w 26 6 = 0x1D) (hfn : fn8 w = 7) (hq : predA w = q) :
    decodeWord w 0 = some (.nop q) ↔ dst w = 0 ∧ srcA w = 0 ∧ uA w = false := by
  have hd : decodeWord w 0 = if dst w = 0 ∧ srcA w = 0 ∧ uA w = false then some (.nop (predA w)) else none := by
    rw [decodeWord, hop]
    show decodeJump w 0 = _
    rw [decodeJump, hfn]
    rfl
  rw [hd, hq]
  simp

/-- Settles O58: an issue of `nop` only advances, and the decoder reads it where the fields it does not use are 0. -/
theorem nopRule : Obligations.NopRule :=
  ⟨fun _ _ p hi hr => (execNop_done p hi).trans (by rw [settle_first hr]), by decide,
   fun _ _ ⟨hop, hfn, hq⟩ => decodeWord_nop_iff hop hfn hq⟩

theorem decodeWord_mset {w l : Word} (hop : fld w 26 6 = 0x19) (hfn : fn8 w = 16) : decodeWord w l = some (.mset (readDuo w l)) := by
  rw [decodeWord, hop]
  show decodeDuo19 w l = _
  rw [decodeDuo19, hfn]
  rfl

theorem execMset_done (o : Duo) (hi : Issuing s h) (ha : h.canRead o.a o.u o.lit) (hd : o.dst.toNat < 8) :
    execMset o s = .next (settle h (h.doneMask s o.dst.toNat (h.perf o.p) fun i => h.word o.a o.u o.lit i != 0)) := by
  obtain ⟨x, hx, rx⟩ := srcU_canRead hi ha
  refine perform_ok hi ?_
  simp only [maskOk, hd, decide_true, srcUOk_canRead ha, Bool.and_self, orIllegal, if_true, hi.performing, hx, Bind.bind, Except.bind,
    advance_writeMask hi, rx.val]

/-- A destination beyond the eight masks is as illegal as a word that no row assigns (R141). -/
theorem execMset_illegal (o : Duo) (w : Word) (hi : Issuing s h) (hd : 8 ≤ o.dst.toNat) : execMset o s = execIllegalInstruction w s :=
  (perform_error hi (by simp only [maskOk, Nat.not_lt.mpr hd, decide_false, Bool.false_and, orIllegal, Bool.false_eq_true, if_false, Bind.bind,
    Except.bind])).trans (perform_error hi rfl).symm

/-- Settles O60: each performing strand's bit is its source's truth, and no field beyond 7 names a mask. -/
theorem maskSetRule : Obligations.MaskSetRule :=
  ⟨fun _ _ => decodeWord_mset, fun _ _ o hi hr ha hd => (execMset_done o hi ha hd).trans (by rw [settle_first hr]),
   fun _ _ _ _ _ => rfl, fun _ _ o hi _ => execMset_illegal o 0 hi⟩

end Sys2Proof.Proofs.IntegerControl
end

section
/-! PROOFS. Approximations and conversions (R175, R176), and the cross-strand instructions (R180 to R182). -/

namespace Sys2Proof.Proofs.FloatAndWave

open Sys2Proof Sys2Proof.Machine Sys2Proof.Proofs.NumberFormats Sys2Proof.Proofs.IntegerControl

variable {s : State} {h : Here}

/-! ## Approximations (R175) -/

/-- R175: every instruction of the table is the one-operand form on the function that stands beside it. -/
theorem approxTable_exec : ∀ e ∈ approxTable, ∀ (o : Duo) (s : State), exec (e.1 o) s =
    floatDuo .f32 (fun a => e.2.1 (BitVec.ofNat 32 a)) o s := by
  simp only [approxTable, List.forall_mem_cons, List.not_mem_nil, false_imp_iff, implies_true, and_true]
  and_intros <;> intros <;> rfl

/-- None of the table's points reaches a free value (log 16), so each function computes there. -/
theorem approxTable_points : ∀ e ∈ approxTable, ∀ x ∈ e.2.2, e.2.1 (BitVec.ofNat 32 x.1) = x.2 := by
  decide +kernel

/-- An FP32 function of the bits of a register is one of the register. -/
theorem lift1_f32 (f : Word → Nat) (x : Word) : lift1 .f32 (fun a => f (BitVec.ofNat 32 a)) x = BitVec.ofNat 32 (f x) := by
  simp only [lift1, BitVec.ofNat_toNat, BitVec.setWidth_eq]

theorem approximationResults : Clause.ApproximationResults := by
  refine ⟨fun e he s h o hi ha hd => ?_, approxTable_points⟩
  rw [approxTable_exec e he, floatDuo_done _ _ o hi ha hd]
  simp only [lift1_f32]

/-! ## Conversions (R176, R81) -/

theorem narrowTable_exec : ∀ e ∈ narrowTable, ∀ (o : CvtSat) (s : State), exec (e.1 o) s = narrowForm e.2 o s := by
  simp only [narrowTable, List.forall_mem_cons, List.not_mem_nil, false_imp_iff, implies_true, and_true]
  and_intros <;> intros <;> rfl

theorem widenTable_exec : ∀ e ∈ widenTable, ∀ (o : Duo) (s : State), exec (e.1 o) s = widenForm e.2 o s := by
  simp only [widenTable, List.forall_mem_cons, List.not_mem_nil, false_imp_iff, implies_true, and_true]
  and_intros <;> intros <;> rfl

theorem convert_eq (src dst : Fmt) (m : Rm) (sat : Bool) (x : Nat) : convert src dst m sat x = converted src dst m sat x := by
  unfold convert converted
  cases src.value x with
  | nan p => simp only [bitOf_eq_testBit]
  | inf | fin => rfl

theorem roundToInt_eq (m : Rm) {lo hi : Int} (hl : lo ≤ hi) (x : Word) :
    roundToInt m lo hi (Fmt.f32.value x.toNat) = toRange m lo hi x := by
  unfold roundToInt toRange
  cases Fmt.f32.value x.toNat with
  | nan | inf => rfl
  | fin neg n d => exact clampInt_eq hl _

theorem toS32_eq (m : Rm) (x : Word) : toS32 m x = BitVec.ofInt 32 (toRange m (-(2 ^ 31)) (2 ^ 31 - 1) x) := by
  rw [toS32, roundToInt_eq m (by decide)]
theorem toN32_eq (m : Rm) (x : Word) : toN32 m x = BitVec.ofInt 32 (toRange m 0 (2 ^ 32 - 1) x) := by
  rw [toN32, roundToInt_eq m (by decide)]
theorem toS64_eq (m : Rm) (x : Word) : toS64 m x = BitVec.ofInt 64 (toRange m (-(2 ^ 63)) (2 ^ 63 - 1) x) := by
  rw [toS64, roundToInt_eq m (by decide)]

theorem ofInt_natCast (n : Nat) : Exact.ofInt n = .fin false n 1 := by
  simp [Exact.ofInt]

theorem ofN32_eq (m : Rm) (x : Word) : ofN32 m x = BitVec.ofNat 32 (roundTo .f32 m false (.fin false x.toNat 1)) := by
  rw [ofN32, ofInt_natCast]

/-- R176: the values that INT8 or INT16 holds are kept, and others saturate or lose their high bits. -/
theorem narrowInt_eq (w : Nat) (sat : Bool) (x : Word) : narrowInt w sat x =
    if sat then BitVec.ofInt 32 (max (-(2 ^ (w - 1))) (min (2 ^ (w - 1) - 1) x.toInt)) else (x.setWidth w).signExtend 32 := by
  unfold narrowInt
  cases sat with
  | true =>
    have hp : (0 : Int) < 2 ^ (w - 1) := Int.pow_pos (by decide)
    exact congrArg (BitVec.ofInt 32) (clampInt_eq (by omega) x.toInt)
  | false => exact congrArg (BitVec.ofInt 32) ((signed_eq_toInt w x.toNat).trans (by rw [BitVec.ofNat_toNat]))

theorem execCvtS64F32_done (o : Flt) (hi : Issuing s h) (hr : o.rm.toNat ≤ 3) (ha : h.canRead o.a o.u o.lit) (hd : h.canWrite64 o.dst) :
    execCvtS64F32 o s = .next (settle h (h.done s (h.into64 o.dst (h.perf o.p) fun i => toS64 (h.mode o.rm) (h.word o.a o.u o.lit i)))) := by
  obtain ⟨x, hx, rx⟩ := srcU_canRead hi ha
  refine perform_ok hi ?_
  simp only [rm_mode (h := h) (by decide : 3 ≤ 4) hr, srcUOk_canRead ha, dst64Ok_canWrite64 hd, Bool.and_self, orIllegal, if_true,
    hi.performing, dstN_canWrite64 hd, hx, Bind.bind, Except.bind, advance_put64 hi, map_val rx]

theorem execCvtF32S64_done (o : Flt) (hi : Issuing s h) (hr : o.rm.toNat ≤ 3) (ha : h.canRead64 o.a o.u o.lit) (hd : h.canWrite o.dst) :
    execCvtF32S64 o s = .next (settle h (h.done s (h.into o.dst (h.perf o.p) fun i => ofS64 (h.mode o.rm) (h.quad o.a o.u o.lit i)))) := by
  obtain ⟨x, hx, rx⟩ := src64_canRead hi ha
  refine perform_ok hi ?_
  simp only [rm_mode (h := h) (by decide : 3 ≤ 4) hr, pairUOk_canRead64 ha, dstOk_canWrite hd, Bool.and_self, orIllegal, if_true,
    hi.performing, dst_canWrite hd, hx, Bind.bind, Except.bind, advance_put32 hi, map_val rx]

theorem conversionResults : Clause.ConversionResults := by
  refine ⟨fun e he s h o hi hr ha hd => ?narrow, fun e he s h o hi ha hd => ?widen,
    fun s h o hi hr ha hd => ⟨?toS32, ?toN32, cvtForm_done ofS32 o hi hr ha hd, ?ofN32⟩,
    fun s h o hi hr ha hd => ?toS64, fun s h o hi hr ha hd => execCvtF32S64_done o hi hr ha hd,
    fun s h o hi ha hd => ⟨?s8, ?s16⟩⟩
  case narrow => exact (narrowTable_exec e he o s).trans ((narrowForm_done e.2 o hi hr ha hd).trans (by simp only [convert_eq]))
  case widen => exact (widenTable_exec e he o s).trans ((widenForm_done e.2 o hi ha hd).trans (by simp only [convert_eq]))
  case toS32 => exact (cvtForm_done toS32 o hi hr ha hd).trans (by simp only [toS32_eq])
  case toN32 => exact (cvtForm_done toN32 o hi hr ha hd).trans (by simp only [toN32_eq])
  case ofN32 => exact (cvtForm_done ofN32 o hi hr ha hd).trans (by simp only [ofN32_eq])
  case toS64 => exact (execCvtS64F32_done o hi hr ha hd).trans (by simp only [toS64_eq])
  case s8 => exact (narrowIntForm_done 8 o hi ha hd).trans (by simp only [narrowInt_eq, Nat.reduceSub, Int.reducePow, Int.reduceNeg, Int.reduceSub])
  case s16 => exact (narrowIntForm_done 16 o hi ha hd).trans (by simp only [narrowInt_eq, Nat.reduceSub, Int.reducePow, Int.reduceNeg, Int.reduceSub])

/-- Settles O6: each instruction runs a form on one function of its source, which the table's points and the conversions' laws give. -/
theorem approximationsAndConversions : Obligations.ApproximationsAndConversions := ⟨approximationResults, conversionResults⟩

/-! ## Shuffles (R180) -/

theorem shuffleForm_done (from_ : Nat → Nat → Nat) (o : Tri) (hi : Issuing s h) (ha : h.canRead o.a false none)
    (hb : h.canRead o.b o.u o.lit) (hd : h.canWrite o.dst) :
    shuffleForm from_ o s = .next (settle h (h.done s (h.into o.dst (h.perf o.p) fun i =>
      let j := from_ i ((h.word o.b o.u o.lit i).toNat % 32)
      if (h.perf o.p).getLsbD j then h.word o.a false none j else h.word o.a false none i))) := by
  obtain ⟨x, hx, rx⟩ := src_canRead hi ha
  obtain ⟨y, hy, ry⟩ := srcU_canRead hi hb
  refine perform_ok hi ?_
  simp only [srcOk_canRead ha, srcUOk_canRead hb, dstOk_canWrite hd, Bool.and_self, orIllegal, if_true, hi.performing,
    dst_canWrite hd, hx, hy, Bind.bind, Except.bind, advance_put32 hi, rx.val, ry.val, apply_ite (h.word o.a false none)]

theorem shuffleResults : Clause.ShuffleResults := by
  simp only [Clause.ShuffleResults, List.forall_mem_cons, List.not_mem_nil, false_imp_iff, implies_true, and_true]
  exact ⟨fun _ _ o hi ha hb hd => shuffleForm_done (fun _ b => b) o hi ha hb hd,
    fun _ _ o hi ha hb hd => shuffleForm_done (fun i b => i ^^^ b) o hi ha hb hd⟩

/-! ## Votes and picks (R181) -/

theorem votes_getLsbD (c : Lanes) (a : Src Word) (i : Nat) : (votes c a).getLsbD i = (c.getLsbD i && a.val i != 0) := by
  rw [votes, BitVec.getLsbD_and, maskOf_getLsbD]
  cases hc : c.getLsbD i with
  | false => rfl
  | true => simp [BitVec.lt_of_getLsbD hc]

theorem votes_ne_zero (c : Lanes) (a : Src Word) : (votes c a != 0) = (List.range 32).any fun i => c.getLsbD i && a.val i != 0 := by
  rw [Bool.eq_iff_iff, bne_iff_ne, ne_eq, BitVec.eq_of_getLsbD_eq_iff, List.any_eq_true]
  simp [votes_getLsbD]

theorem votes_eq_all (c : Lanes) (a : Src Word) : (votes c a == c) = (List.range 32).all fun i => !c.getLsbD i || a.val i != 0 := by
  rw [Bool.eq_iff_iff, beq_iff_eq, BitVec.eq_of_getLsbD_eq_iff, List.all_eq_true]
  simp only [List.mem_range]
  refine forall₂_congr fun i _ => ?_
  rw [votes_getLsbD]
  cases c.getLsbD i <;> simp

theorem voteForm_done (f : Lanes → Lanes → Bool) (o : Duo) (hi : Issuing s h) (hd : o.dst.toNat < 8) (ha : h.canRead o.a o.u o.lit) :
    voteForm f o s = .next (settle h (h.doneMask s o.dst.toNat (h.perf o.p) fun _ =>
      f (votes (h.perf o.p) { val := h.word o.a o.u o.lit }) (h.perf o.p))) := by
  obtain ⟨x, hx, rx⟩ := srcU_canRead hi ha
  refine perform_ok hi ?_
  simp only [maskOk, hd, decide_true, srcUOk_canRead ha, Bool.and_self, orIllegal, if_true, hi.performing, hx, Bind.bind, Except.bind,
    advance_writeMask hi, votes, rx.val]

/-- What the cross-strand forms write (R181, R182): every performing strand takes the function of all their values. -/
theorem crossForm_done (f : Lanes → (Nat → Word) → Nat → Word) (o : Duo) (hi : Issuing s h) (ha : h.canRead o.a o.u o.lit)
    (hd : h.canWrite o.dst) :
    crossForm f o s = .next (settle h (h.done s (h.into o.dst (h.perf o.p) (f (h.perf o.p) (h.word o.a o.u o.lit))))) := by
  obtain ⟨x, hx, rx⟩ := srcU_canRead hi ha
  refine perform_ok hi ?_
  simp only [srcUOk_canRead ha, dstOk_canWrite hd, Bool.and_self, orIllegal, if_true, hi.performing, dst_canWrite hd, hx, Bind.bind,
    Except.bind, advance_put32 hi, rx.val]

theorem lowest_eq {c : Lanes} {k : Nat} (hk : c.getLsbD k = true) (hlt : ∀ i < k, c.getLsbD i = false) : lowest c = k := by
  have hfind : (List.range 32).find? c.getLsbD = some k :=
    List.find?_range_eq_some.mpr ⟨hk, List.mem_range.mpr (BitVec.lt_of_getLsbD hk), fun i hi => by simp [hlt i hi]⟩
  rw [lowest, lanesIn, laneOrder, List.headD_eq_head?_getD, List.head?_filter, hfind, Option.getD_some]

theorem execFirstB32_done (o : Duo) (hi : Issuing s h) (hd : o.dst.toNat < if h.i.sup then 16 else 64) (ha : h.canRead o.a o.u o.lit) :
    execFirstB32 o s = .next (settle h (if h.perf o.p = 0 then h.done s []
      else h.doneS s o.dst.toNat (h.word o.a o.u o.lit (lowest (h.perf o.p))))) := by
  obtain ⟨x, hx, rx⟩ := srcU_canRead hi ha
  refine perform_ok hi ?_
  simp only [Here.sregOk, hd, decide_true, srcUOk_canRead ha, Bool.and_self, orIllegal, if_true, hi.performing, hx, Bind.bind,
    Except.bind, rx.val]
  split
  case isTrue => rfl
  case isFalse => rw [advance_writeS hi]

theorem voteResults : Clause.VoteResults := by
  refine ⟨fun s h o hi hd ha => ⟨?any, ?all⟩, fun s h o hi ha hd => ⟨votes (h.perf o.p) { val := h.word o.a o.u o.lit }, ?bits, ?ballot⟩,
    fun s h o hi hd ha => ⟨fun hp => ?idle, fun k _ hk hlt => ?first⟩⟩
  case any => exact (voteForm_done (fun t _ => t != 0) o hi hd ha).trans (by simp only [votes_ne_zero])
  case all => exact (voteForm_done (fun t c => t == c) o hi hd ha).trans (by simp only [votes_eq_all])
  case bits => exact fun i _ => votes_getLsbD _ _ i
  case ballot => exact crossForm_done (fun c a _ => c &&& maskOf fun i => a i != 0) o hi ha hd
  case idle => exact (execFirstB32_done o hi hd ha).trans (by rw [if_pos hp])
  case first =>
    have hp : h.perf o.p ≠ 0 := fun hz => by simp [hz] at hk
    exact (execFirstB32_done o hi hd ha).trans (by rw [if_neg hp, lowest_eq hk hlt])

/-! ## Scans and reductions (R182) -/

section Folds

variable {f : Word → Word → Word} {a : Nat → Word} {ls : List Nat}

/-- What holds of one strand's value, and of each value with the next strand's taken in, holds of a fold over some strands. -/
theorem foldLanes_induction {motive : List Nat → Word → Prop} (one : ∀ i, motive [i] (a i))
    (more : ∀ ls x k, motive ls x → motive (ls ++ [k]) (f x (a k))) (hne : ls ≠ []) : motive ls (foldLanes f ls a) := by
  have go (t : List Nat) : ∀ ls x, motive ls x → motive (ls ++ t) (t.foldl (fun x j => f x (a j)) x) := by
    induction t with
    | nil => exact fun ls x hx => ls.append_nil.symm ▸ hx
    | cons k t ih => exact fun ls x hx => List.append_cons ls k t ▸ ih _ _ (more ls x k hx)
  cases ls with
  | nil => exact absurd rfl hne
  | cons i t => exact go t [i] _ (one i)

theorem foldLanes_add (ls : List Nat) (a : Nat → Word) : foldLanes (· + ·) ls a = BitVec.ofNat 32 (ls.map fun j => (a j).toNat).sum := by
  by_cases hne : ls = []
  · rw [hne]; rfl
  refine foldLanes_induction (motive := fun ls x => x = BitVec.ofNat 32 (ls.map fun j => (a j).toNat).sum) (fun i => ?_)
    (fun ls x k hx => ?_) hne
  · simp
  · simp [hx, BitVec.ofNat_add]

/-- A fold that takes one of its two values, one that stands in a preorder to both, takes a value that stands so to all. -/
theorem foldLanes_least {le : Word → Word → Prop} (refl : ∀ x, le x x) (trans : ∀ {x y z}, le x y → le y z → le x z)
    (hf : ∀ x y, f x y = x ∧ le x y ∨ f x y = y ∧ le y x) (hne : ls ≠ []) :
    (∃ j ∈ ls, foldLanes f ls a = a j) ∧ ∀ j ∈ ls, le (foldLanes f ls a) (a j) := by
  refine foldLanes_induction (motive := fun ls x => (∃ j ∈ ls, x = a j) ∧ ∀ j ∈ ls, le x (a j)) (fun i => ?_)
    (fun ls x k ⟨⟨j, hj, hxj⟩, hle⟩ => ?_) hne
  · exact ⟨⟨i, List.mem_singleton_self i, rfl⟩, fun j hj => List.mem_singleton.mp hj ▸ refl (a j)⟩
  · simp only [List.mem_append, List.mem_singleton]
    rcases hf x (a k) with ⟨hfx, hxk⟩ | ⟨hfk, hkx⟩
    · rw [hfx]
      exact ⟨⟨j, .inl hj, hxj⟩, fun i hi => hi.elim (hle i) fun e => e ▸ hxk⟩
    · rw [hfk]
      exact ⟨⟨k, .inr rfl, rfl⟩, fun i hi => hi.elim (fun hi => trans hkx (hle i hi)) fun e => e ▸ refl (a k)⟩

theorem foldLanes_and_getLsbD (hne : ls ≠ []) (k : Nat) : (foldLanes (· &&& ·) ls a).getLsbD k = ls.all fun j => (a j).getLsbD k :=
  foldLanes_induction (motive := fun ls x => x.getLsbD k = ls.all fun j => (a j).getLsbD k) (fun i => by simp)
    (fun ls x j hx => by simp [hx]) hne

theorem foldLanes_or_getLsbD (hne : ls ≠ []) (k : Nat) : (foldLanes (· ||| ·) ls a).getLsbD k = ls.any fun j => (a j).getLsbD k :=
  foldLanes_induction (motive := fun ls x => x.getLsbD k = ls.any fun j => (a j).getLsbD k) (fun i => by simp)
    (fun ls x j hx => by simp [hx]) hne

theorem foldLanes_xor_getLsbD (hne : ls ≠ []) (k : Nat) :
    (foldLanes (· ^^^ ·) ls a).getLsbD k = (ls.countP (fun j => (a j).getLsbD k) % 2 == 1) := by
  refine foldLanes_induction (motive := fun ls x => x.getLsbD k = (ls.countP (fun j => (a j).getLsbD k) % 2 == 1)) (fun i => ?_)
    (fun ls x j hx => ?_) hne
  · cases hk : (a i).getLsbD k <;> simp [hk]
  · rw [BitVec.getLsbD_xor, hx, List.countP_append, List.countP_singleton]
    cases (a j).getLsbD k
    · simp
    · rcases Nat.mod_two_eq_zero_or_one (ls.countP fun j => (a j).getLsbD k) with hm | hm <;> simp [Nat.add_mod, hm]

end Folds

theorem mem_lanesIn {c : Lanes} {j : Nat} : j ∈ lanesIn c ↔ j < 32 ∧ c.getLsbD j = true := by
  simp [lanesIn, laneOrder]

theorem lanesIn_ne_nil {c : Lanes} (hc : c ≠ 0) : lanesIn c ≠ [] := fun hnil =>
  hc (BitVec.eq_of_getLsbD_eq fun i hi => by
    have hni : ¬(i < 32 ∧ c.getLsbD i = true) := mt mem_lanesIn.mpr (by rw [hnil]; exact List.not_mem_nil)
    simpa [hi] using hni)

/-- The extremes of R182, over the performing strands. -/
theorem foldLanes_lanesIn_least {le : Word → Word → Prop} (refl : ∀ x, le x x) (trans : ∀ {x y z}, le x y → le y z → le x z)
    {f : Word → Word → Word} (hf : ∀ x y, f x y = x ∧ le x y ∨ f x y = y ∧ le y x) {c : Lanes} (hc : c ≠ 0) (a : Nat → Word) :
    (∃ j < 32, c.getLsbD j ∧ foldLanes f (lanesIn c) a = a j) ∧ ∀ j < 32, c.getLsbD j → le (foldLanes f (lanesIn c) a) (a j) := by
  obtain ⟨⟨j, hj, hv⟩, hle⟩ := foldLanes_least (a := a) refl trans hf (lanesIn_ne_nil hc)
  obtain ⟨hj32, hjc⟩ := mem_lanesIn.mp hj
  exact ⟨⟨j, hj32, hjc, hv⟩, fun i hi hic => hle i (mem_lanesIn.mpr ⟨hi, hic⟩)⟩

/-- Which of two values a test takes, and what is then known. -/
theorem ite_takes {p q : Prop} [Decidable p] (hq : ¬p → q) (x y : Word) :
    (if p then x else y) = x ∧ p ∨ (if p then x else y) = y ∧ q := by
  split
  case isTrue hp => exact .inl ⟨rfl, hp⟩
  case isFalse hp => exact .inr ⟨rfl, hq hp⟩

theorem minS_least (x y : Word) : minS x y = x ∧ x.toInt ≤ y.toInt ∨ minS x y = y ∧ y.toInt ≤ x.toInt :=
  ite_takes (fun hle => Int.le_of_lt (Int.not_le.mp hle)) x y
theorem maxS_greatest (x y : Word) : maxS x y = x ∧ y.toInt ≤ x.toInt ∨ maxS x y = y ∧ x.toInt ≤ y.toInt :=
  (ite_takes (fun hle => Int.le_of_lt (Int.not_le.mp hle)) y x).symm
theorem minN_least (x y : Word) : minN x y = x ∧ x.toNat ≤ y.toNat ∨ minN x y = y ∧ y.toNat ≤ x.toNat :=
  ite_takes Nat.le_of_not_le x y
theorem maxN_greatest (x y : Word) : maxN x y = x ∧ y.toNat ≤ x.toNat ∨ maxN x y = y ∧ x.toNat ≤ y.toNat :=
  (ite_takes Nat.le_of_not_le y x).symm

/-- R182: every instruction of the table folds an operation over the performing strands, with the result that the table states. The
maxima are least in the opposite order. -/
theorem reduceTable_exec : ∀ e ∈ reduceTable, ∃ f : Word → Word → Word, (∀ (o : Duo) (s : State), exec (e.1 o) s = wred f o s) ∧
    ∀ (c : Lanes) (a : Nat → Word), c ≠ 0 → e.2 c a (foldLanes f (lanesIn c) a) := by
  simp only [reduceTable, List.forall_mem_cons, List.not_mem_nil, false_imp_iff, implies_true, and_true]
  refine ⟨⟨_, fun _ _ => rfl, fun c a _ => foldLanes_add _ a⟩,
    ⟨_, fun _ _ => rfl, fun c a hc =>
      foldLanes_lanesIn_least (le := fun x y => x.toInt ≤ y.toInt) (fun _ => Int.le_refl _) Int.le_trans minS_least hc a⟩,
    ⟨_, fun _ _ => rfl, fun c a hc =>
      foldLanes_lanesIn_least (le := fun x y => y.toInt ≤ x.toInt) (fun _ => Int.le_refl _) (flip Int.le_trans) maxS_greatest hc a⟩,
    ⟨_, fun _ _ => rfl, fun c a hc =>
      foldLanes_lanesIn_least (le := fun x y => x.toNat ≤ y.toNat) (fun _ => Nat.le_refl _) Nat.le_trans minN_least hc a⟩,
    ⟨_, fun _ _ => rfl, fun c a hc =>
      foldLanes_lanesIn_least (le := fun x y => y.toNat ≤ x.toNat) (fun _ => Nat.le_refl _) (flip Nat.le_trans) maxN_greatest hc a⟩,
    ⟨_, fun _ _ => rfl, fun c a hc k _ => ?and⟩, ⟨_, fun _ _ => rfl, fun c a hc k _ => ?or⟩,
    ⟨_, fun _ _ => rfl, fun c a hc k _ => ?xor⟩⟩
  case and => rw [foldLanes_and_getLsbD (lanesIn_ne_nil hc), lanesIn, List.all_filter]; rfl
  case or => rw [foldLanes_or_getLsbD (lanesIn_ne_nil hc), lanesIn, List.any_filter]; rfl
  case xor => rw [foldLanes_xor_getLsbD (lanesIn_ne_nil hc), lanesIn, List.countP_filter]; simp only [Bool.and_comm]; rfl

/-- The performing strands below a lane are those of the mask's low bits. -/
theorem lanesIn_filter_lt (c : Lanes) (n : Nat) :
    (lanesIn c).filter (fun j => decide (j < n)) = lanesIn (c &&& BitVec.ofNat 32 (2 ^ n - 1)) := by
  rw [lanesIn, lanesIn, List.filter_filter]
  refine List.filter_congr fun j hj => ?_
  have hj : j < 32 := by simpa [laneOrder] using hj
  rw [BitVec.getLsbD_and, BitVec.getLsbD_ofNat, Nat.testBit_two_pow_sub_one, Bool.and_comm]
  simp [hj]

/-- A scan's sum at a bound is the sum of the values below it. -/
theorem foldLanes_add_below (c : Lanes) (a : Nat → Word) (n : Nat) :
    foldLanes (· + ·) ((lanesIn c).filter fun j => decide (j < n)) a = reduceTable.sumOver (c &&& BitVec.ofNat 32 (2 ^ n - 1)) a := by
  rw [lanesIn_filter_lt, foldLanes_add]
  rfl

theorem scanResults : Clause.ScanResults := by
  refine ⟨fun s h o hi ha hd => ⟨?scan, ?scanx⟩, fun e he s h o hi ha hd => ?reduce⟩
  case scan =>
    exact (crossForm_done (fun c a i => foldLanes (· + ·) ((lanesIn c).filter fun j => decide (j ≤ i)) a) o hi ha hd).trans
      (by simp only [← Nat.lt_succ_iff, foldLanes_add_below])
  case scanx =>
    exact (crossForm_done (fun c a i => foldLanes (· + ·) ((lanesIn c).filter fun j => decide (j < i)) a) o hi ha hd).trans
      (by simp only [foldLanes_add_below])
  case reduce =>
    obtain ⟨f, hexec, hf⟩ := reduceTable_exec e he
    exact ⟨foldLanes f (lanesIn (h.perf o.p)) (h.word o.a o.u o.lit), hf _ _, (hexec o s).trans (crossForm_done _ o hi ha hd)⟩

/-- Settles O7: what the cross-strand forms write, the bits of a vote, and one induction over the folds of the reductions. -/
theorem waveOperations : Obligations.WaveOperations := ⟨shuffleResults, voteResults, scanResults⟩

end Sys2Proof.Proofs.FloatAndWave
end

section
/-! PROOFS. Loads and stores of global memory (R185 to R189) and leased copies (R99, R100). -/

namespace Sys2Proof.Proofs.GlobalMemory

open Sys2Proof Sys2Proof.Machine Sys2Proof.Proofs.NumberFormats

variable {s : State} {h : Here} {o : Mem}

/-! ## Fields, addresses and data (R133, R187, R188) -/

theorem dataAligned_iff {d : BitVec 7} {sz : BitVec 3} (hz : sz ≠ 7) : dataAligned d sz = true ↔ d.toNat % memWords sz = 0 := by
  rw [dataAligned, sz_regs sz hz, beq_iff_eq]

theorem loadOk_loads (hl : h.loads o) : loadOk o false = true := by
  obtain ⟨hz, hm, hd, -⟩ := hl
  simp only [loadOk, dstOk, Bool.false_eq_true, if_false, Bool.and_eq_true, bne_iff_ne, decide_eq_true_eq]
  exact ⟨⟨hz, (dataAligned_iff hz).mpr hm⟩, hd⟩

theorem loadOk_try (hl : h.loads o) (hd : o.d.toNat ≤ 117) (h6 : o.sz ≠ 6) : loadOk o true = true := by
  obtain ⟨hz, hm, -⟩ := hl
  simp only [loadOk, if_true, Bool.and_eq_true, bne_iff_ne, decide_eq_true_eq]
  exact ⟨⟨hz, (dataAligned_iff hz).mpr hm⟩, hd, h6⟩

/-- A size that a store takes is a size, and does not sign-extend. -/
theorem size_of_stores (hs : h.stores o) : o.sz ≠ 7 ∧ szSigned o.sz = false := by
  obtain ⟨hz | hz | hz | hz | hz, -⟩ := hs <;> simp only [hz] <;> decide

theorem storeOk_stores (hs : h.stores o) : storeOk o false = true := by
  obtain ⟨hz, hu⟩ := size_of_stores hs
  obtain ⟨-, hm, hd, -⟩ := hs
  simp only [storeOk, hu, Bool.not_false, Bool.and_true, Bool.false_eq_true, if_false, Bool.and_eq_true, bne_iff_ne, decide_eq_true_eq]
  exact ⟨⟨hz, (dataAligned_iff hz).mpr hm⟩, hd⟩

theorem storeOk_try (hs : h.stores o) (hd : o.d.toNat ≤ 117) (h6 : o.sz ≠ 6) : storeOk o true = true := by
  obtain ⟨hz, hu⟩ := size_of_stores hs
  obtain ⟨-, hm, -⟩ := hs
  simp only [storeOk, hu, Bool.not_false, Bool.and_true, if_true, Bool.and_eq_true, bne_iff_ne, decide_eq_true_eq]
  exact ⟨⟨hz, (dataAligned_iff hz).mpr hm⟩, hd, h6⟩

theorem memAddr_eq (hz : o.sz ≠ 7) : (fun i => memAddr o (h.quad o.a o.u none i)) = h.memAddrAt o := by
  funext i
  rw [memAddr, sz_bytes o.sz hz, Here.memAddrAt]

theorem clean_sound {rs : List Nat} (hr : ∀ r ∈ rs, h.poisoned r = false) : h.clean rs = .ok () := by
  have hf : rs.find? h.poisoned = none := List.find?_eq_none.mpr fun r hm => by simp [hr r hm]
  simp only [Here.clean, hf]

/-- The data of a store that can be read is its number in every lane. -/
theorem storeData_stores (hs : h.stores o) : h.storeData o.d o.sz = .ok (h.datum o.d o.sz) := by
  obtain ⟨hz, -⟩ := size_of_stores hs
  obtain ⟨-, -, -, hr, hp⟩ := hs
  rw [Here.storeData, sz_regs o.sz hz, sz_bytes o.sz hz]
  by_cases h120 : o.d.toNat < 120
  · have hc : h.canWriteN o.d (memWords o.sz) := ⟨Nat.le_of_lt h120, hr⟩
    obtain ⟨ds, hds, hzip⟩ := dstN_eq hc
    have hclean : h.clean ds = .ok () := clean_sound fun r hm => by
      obtain ⟨j, hj, rfl⟩ : ∃ j < memWords o.sz, h.regOf (o.d.toNat + j) = r := by
        have he := hds.symm.trans (dstN_canWriteN hc)
        simpa [h120, Except.ok.inj he] using hm
      exact hp h120 j hj
    simp only [h120, if_true, hds, hclean, Bind.bind, Except.bind, hzip, resultRegs, List.foldl_map]
    congr 1
    funext i
    simp only [Here.datum, h120, if_true, List.sum_eq_foldl, List.foldl_map]
  · simp only [h120, if_false]
    congr 1
    funext i
    simp only [Here.datum, h120, if_false]

/-! ## Registers and statuses written (R188, R189) -/

theorem putLoad_changed (hi : Issuing s h) {c : BitVec 7} {n : Nat} {ds : List Nat} (hz : ds.zipIdx = resultRegs h c n) (t : State)
    (lanes : Lanes) (sz : BitVec 3) (x : Nat → Nat) (bad : Nat → Bool) :
    putLoad h t ds lanes sz x bad =
      h.changed t (fun w => (h.intoN c n lanes fun j i => extended sz (x i) j).foldl h.written w) fun f => f := by
  have hw := foldl_writeReg hi (h.intoN c n lanes fun j i => extended sz (x i) j) bad bad t
  rw [← hw, putLoad, hz, intoN_eq, List.foldl_map]
  simp only [loadWord_eq]

/-- The entry of a lane in a table made of accesses is that of the first access of the lane. -/
theorem byLane_found {α : Type} (gs : List (Access × Got)) (v : Access × Got → α) (d : α) (i : Nat) :
    byLane (gs.map fun g => (g.1.lane, v g)) d i = ((foundIn gs i).map v).getD d := by
  have key : get? (gs.map fun g => (g.1.lane, v g)) i = (foundIn gs i).map v := by
    induction gs with
    | nil => rfl
    | cons g gs ih =>
      by_cases hg : g.1.lane = i
      · simp [get?, foundIn, hg]
      · simpa [get?, foundIn, hg] using ih
  rw [byLane, key]

/-- The status of a lane's access, 0 where none of it failed (R94, R189). -/
def statusIn (gs : List (Access × Got)) (i : Nat) : Word :=
  match foundIn gs i with
  | some (_, .fail _ _ _ x) => BitVec.ofNat 32 x
  | _ => 0

theorem ofNat_byLane_status (gs : List (Access × Got)) (i : Nat) :
    BitVec.ofNat 32 (byLane (gs.map fun g => (g.1.lane, g.2.status)) 0 i) = statusIn gs i := by
  rw [byLane_found gs fun g => g.2.status, statusIn]
  cases foundIn gs i with
  | none => rfl
  | some g =>
    obtain ⟨u, g⟩ := g
    cases g <;> rfl

/-- What a `.try` form writes beside its data: the statuses, to register d + 2. -/
def statusWrite (h : Here) (o : Mem) (gs : List (Access × Got)) : RegWrite :=
  { reg := h.regOf (o.d.toNat + 2), lanes := h.perf o.p, val := statusIn gs }

theorem advance_putStatuses (hi : Issuing s h) (gs : List (Access × Got)) (xs : List RegWrite) (bad : Nat → Bool) (t : State) :
    advance h (putStatuses h (h.changed t (fun w => xs.foldl h.written w) fun f => f) (h.regOf (o.d.toNat + 2)) (h.perf o.p) gs bad) =
      h.done t (xs ++ [statusWrite h o gs]) := by
  simp only [putStatuses, ofNat_byLane_status, writeReg_eq hi]
  rw [changed_changed _ _ _ _ (fun _ => written_fibres _ _) (fun _ _ => written_with _ _ _), advance_changed]
  simp only [Here.done, Here.doneWith, List.foldl_append]
  rfl

/-! ## Granted loads and stores (R185, R188) -/

theorem execLdg_done {t : State} (hi : Issuing s h) (ha : h.canRead64 o.a o.u none)
    (hal : AllAligned (h.perf o.p) (memBytes o.sz) (h.memAddrAt o)) (hl : h.loads o)
    (hg : h.granted s loadKind (accessesOf (h.perf o.p) (h.memAddrAt o)) t) :
    let r := h.loaded o t ((accessesOf (h.perf o.p) (h.memAddrAt o)).map fun u => (u, .here))
    execLdg o s = .next (settle h (h.done r.1 (h.intoN o.d (memWords o.sz) (h.perf o.p) fun j i => extended o.sz (r.2 i) j))) := by
  obtain ⟨x, hx, rx⟩ := src64_canRead hi ha
  obtain ⟨ds, hds, hz⟩ := dstN_eq hl.2.2
  refine perform_ok hi ?_
  simp only [loadOk_loads hl, pairUOk_canRead64 ha, Bool.and_self, orIllegal, if_true, hi.performing, sz_regs _ hl.1, sz_bytes _ hl.1, hds, hx,
    globalLoad, hi.notScouting, Bool.false_eq_true, if_false, allLanes_and, rx.val, memAddr_eq hl.1, accesses_eq, aligned_accesses hal,
    examine_granted hg, orFail_here, Bind.bind, Except.bind, putLoad_changed hi hz, advance_changed]
  rfl

theorem execStg_ends {t : State} (hi : Issuing s h) (ha : h.canRead64 o.a o.u none)
    (hal : AllAligned (h.perf o.p) (memBytes o.sz) (h.memAddrAt o)) (hs : h.stores o)
    (hg : h.granted s storeKind (accessesOf (h.perf o.p) (h.memAddrAt o)) t) :
    execStg o s = .next (h.ends s (h.done (h.storeAll o (h.perf o.p) (h.memAddrAt o) t) [])) := by
  obtain ⟨x, hx, rx⟩ := src64_canRead hi ha
  obtain ⟨hz, -⟩ := size_of_stores hs
  refine performLate_ends hi ?_
  simp only [storeOk_stores hs, pairUOk_canRead64 ha, Bool.and_self, orIllegal, if_true, notInScout, hi.notScouting, Bool.false_eq_true,
    if_false, storeData_stores hs, hx, rx.val, sz_bytes _ hz, memAddr_eq hz, accesses_eq, aligned_accesses hal,
    examine_granted_made hg, orFail_here, Bind.bind, Except.bind, advance_done]
  simp only [accessesOf, List.map_map, List.foldl_map, Here.storeAll]
  rfl

theorem globalAccessResults : Clause.GlobalAccessResults := fun _ _ _ _ hi ha hal =>
  ⟨execLdg_done hi ha hal, execStg_ends hi ha hal⟩

/-! ## Leased copies (R99, R100) -/

/-- A state in which leases, copies and the count of the free values used may be others, and nothing else is. -/
def released (s : State) (fresh : Nat) (lines : List (Nat × LineTime)) (l1 : List (Nat × L1Copy)) : State :=
  { s with fresh, lines, l1 }

theorem translate_snd (s : State) (o : Nat) :
    (Machine.translate s o).2 = ((tlbFind s o).map Walk.page).getD (walk s o) := by
  unfold Machine.translate
  cases tlbFind s o with
  | some e => rfl
  | none => cases walk s o <;> rfl

section
variable (s : State) (fresh : Nat) (lines : List (Nat × LineTime)) (l1 : List (Nat × L1Copy))

theorem physOf_released (o : Nat) : physOf (released s fresh lines l1) o = physOf s o := by
  simp only [physOf, translate_snd]
  rfl

theorem readOwn_released (o n : Nat) : readOwn (released s fresh lines l1) o n = readOwn s o n := by
  simp only [readOwn, sectorAt, dramSector, tagKey, physOf_released]
  rfl

theorem readGlobal_released (a m : Nat) : readGlobal (released s fresh lines l1) a m = readGlobal s a m := by
  simp only [readGlobal, readOwn_released]
  rfl

end

/-- What the home slice gives to a reader: the bytes of its sector, under a lease that it grants. -/
def homeRead (h : Here) (k : Nat) (s : State) (o n : Nat) : State × Nat × Nat :=
  let y := grantLease s o h.f.time
  (keepCopy y.1 k { cluster := h.g.cluster, core := h.coreOf, bytes := readOwn y.1 (secStart s k) 48, wrote := y.2.wrote, lease := y.2.lease },
    ofBytes (readOwn y.1 o n), max h.f.time y.2.wrote)

/-- A read is the home slice's, or takes a copy that the core may read and leaves memory alone. -/
theorem readLeased_cases (h : Here) (s : State) (o n : Nat) :
    (∃ t, (t = s ∨ t = s.takeFree.1) ∧ readLeased h s o n = homeRead h (secKey s o) t o n) ∨
      ∃ c, copyFor s h.g.cluster h.coreOf (secKey s o) h.f.time = some c ∧
        readLeased h s o n = (s.takeFree.1, ofBytes ((c.bytes.drop (secOff s o)).take n), max h.f.time c.wrote) := by
  cases hc : copyFor s h.g.cluster h.coreOf (secKey s o) h.f.time with
  | none => exact .inl ⟨s, .inl rfl, by simp only [readLeased, hc]; rfl⟩
  | some c =>
    cases hb : s.takeFree.2.getLsbD 0 with
    | true => exact .inr ⟨c, rfl, by simp only [readLeased, hc, hb, if_true]⟩
    | false => exact .inl ⟨s.takeFree.1, .inr rfl, by simp only [readLeased, hc, hb, Bool.false_eq_true, if_false]; rfl⟩

theorem copyFor_some {cluster core k time : Nat} {c : L1Copy} (hc : copyFor s cluster core k time = some c) :
    (k, c) ∈ s.l1 ∧ c.cluster = cluster ∧ c.core = core ∧ time ≤ c.lease := by
  obtain ⟨⟨k', c'⟩, hf, rfl⟩ := Option.map_eq_some_iff.mp hc
  have hp := List.find?_some hf
  simp only [L1Copy.of, Bool.and_eq_true, beq_iff_eq, decide_eq_true_eq] at hp
  obtain ⟨⟨rfl, h1, h2⟩, h3⟩ := hp
  exact ⟨List.mem_of_find?_eq_some hf, h1, h2, h3⟩

theorem takeFree_released (s : State) : s.takeFree.1 = released s (s.fresh + 1) s.lines s.l1 := rfl

/-- Neither a lease nor a copy changes a byte of memory. -/
theorem homeRead_released (h : Here) (k : Nat) (s : State) (o n : Nat) :
    ∃ lines l1, (homeRead h k s o n).1 = released s s.fresh lines l1 := ⟨_, _, rfl⟩

theorem homeRead_value (h : Here) (k : Nat) (s : State) (o n : Nat) : (homeRead h k s o n).2.1 = ofBytes (readOwn s o n) :=
  congrArg ofBytes (readOwn_released s s.fresh (grantLease s o h.f.time).1.lines s.l1 o n)

theorem le_homeRead_time (h : Here) (k : Nat) (s : State) (o n : Nat) : h.f.time ≤ (homeRead h k s o n).2.2 := Nat.le_max_left _ _

theorem leasedReads : Clause.LeasedReads := by
  intro s h o n
  rcases readLeased_cases h s o n with ⟨t, ht, hr⟩ | ⟨c, hc, hr⟩
  · have ht : ∃ fresh, t = released s fresh s.lines s.l1 := by
      rcases ht with rfl | rfl
      · exact ⟨t.fresh, rfl⟩
      · exact ⟨_, takeFree_released s⟩
    obtain ⟨fresh, rfl⟩ := ht
    obtain ⟨lines, l1, hm⟩ := homeRead_released h (secKey s o) (released s fresh s.lines s.l1) o n
    simp only [hr, homeRead_value, hm, readOwn_released, readGlobal_released]
    exact ⟨.inl trivial, fun _ => trivial, le_homeRead_time _ _ _ _ _, fun _ _ => trivial⟩
  · obtain ⟨hl, hcl, hco, ht⟩ := copyFor_some hc
    simp only [hr, takeFree_released, readGlobal_released]
    exact ⟨.inr ⟨c, hl, hcl, hco, ht, Nat.le_max_right _ _, rfl⟩, fun hn => absurd ⟨hcl, hco, ht⟩ (hn c hl), Nat.le_max_left _ _,
      fun _ _ => trivial⟩

/-! ## The `.try` forms (R189) -/

/-- Poison that the checks met is logged, outside scout mode (R393). -/
theorem logMet_eq (hi : Issuing s h) (t : State) (gs : List (Access × Got)) :
    logMet h t gs = match gs.find? fun g => g.2.row == 6 with
      | some g => logPoison t (some h.g.tag) g.1.addr
      | none => t := by
  unfold logMet
  cases gs.find? fun g => g.2.row == 6 with
  | none => rfl
  | some g => exact if_neg (by simp [hi.notScouting])

theorem addPages_eq (hi : Issuing s h) (t : State) (gs : List (Access × Got)) : addPages h t gs = t := by
  simp [addPages, hi.notScouting]

section
variable {t : State} {gs : List (Access × Got)} (hi : Issuing s h) (ha : h.canRead64 o.a o.u none) (hd : o.d.toNat ≤ 117) (h6 : o.sz ≠ 6)
  (hst : h.ready (o.d.toNat + 2)) (hal : AllAligned (h.perf o.p) (memBytes o.sz) (h.memAddrAt o))
include hi ha hd h6 hst hal

theorem execLdgTry_done (hl : h.loads o)
    (hx : examine h s loadKind true (carryLoad (memBytes o.sz)) (accessesOf (h.perf o.p) (h.memAddrAt o)) = .ok (t, gs)) :
    let r := h.loaded o (logMet h t gs) gs
    execLdgTry o s = .next (settle h (h.done r.1 (h.intoN o.d (memWords o.sz) (h.perf o.p) (fun j i => extended o.sz (r.2 i) j)
      ++ [statusWrite h o gs]))) := by
  obtain ⟨x, ho, rx⟩ := src64_canRead hi ha
  obtain ⟨ds, hds, hz⟩ := dstN_eq hl.2.2
  refine perform_ok hi ?_
  simp only [loadOk_try hl hd h6, pairUOk_canRead64 ha, Bool.and_self, orIllegal, if_true, hi.performing, sz_regs _ hl.1, sz_bytes _ hl.1, hds,
    resolve_ready hst, ho, hi.notScouting, Bool.false_and, Bool.false_eq_true, if_false, allLanes_and, rx.val, memAddr_eq hl.1, accesses_eq,
    aligned_accesses hal, hx, Bind.bind, Except.bind, addPages_eq hi, putLoad_changed hi hz, advance_putStatuses hi]
  rfl

theorem execStgTry_ends (hs : h.stores o)
    (hx : examine h s storeKind true (h.carriesStore o) (accessesOf (h.perf o.p) (h.memAddrAt o)) = .ok (t, gs)) :
    execStgTry o s = .next (h.ends s (h.done (gs.foldl (fun t g => storeHere h t (memBytes o.sz) (h.datum o.d o.sz) g) (logMet h t gs))
      [statusWrite h o gs])) := by
  obtain ⟨x, ho, rx⟩ := src64_canRead hi ha
  obtain ⟨hz, -⟩ := size_of_stores hs
  have hx' : examine h s storeKind true (carryStore h.f.safe (storeAsk (memBytes o.sz) (h.datum o.d o.sz)))
      (accessesOf (h.perf o.p) (h.memAddrAt o)) = .ok (t, gs) := hx
  have hw (t : State) := advance_putStatuses (o := o) hi gs [] (fun _ => false) t
  simp only [List.foldl_nil, changed_id, List.nil_append] at hw
  refine performLate_ends hi ?_
  simp only [storeOk_try hs hd h6, pairUOk_canRead64 ha, Bool.and_self, orIllegal, if_true, notInScout, hi.notScouting, Bool.false_eq_true,
    if_false, storeData_stores hs, resolve_ready hst, ho, rx.val, sz_bytes _ hz, memAddr_eq hz, accesses_eq, aligned_accesses hal, hx',
    Bind.bind, Except.bind, hw]

end

/-- What R189 says of a load that fails in some strands: those read 0. It is the one part of the obligation that does not follow from what
the instructions do. -/
def FailedLoadsReadZero : Prop :=
  ∀ (s t : State) (h : Here) (o : Mem) (gs : List (Access × Got)), Issuing s h → h.canRead64 o.a o.u none →
    o.d.toNat ≤ 117 → o.sz ≠ 6 → h.ready (o.d.toNat + 2) → AllAligned (h.perf o.p) (memBytes o.sz) (h.memAddrAt o) → h.loads o →
    examine h s loadKind true (carryLoad (memBytes o.sz)) (accessesOf (h.perf o.p) (h.memAddrAt o)) = .ok (t, gs) →
    ∀ g ∈ gs, g.2.failed = true → (h.loaded o (logMet h t gs) gs).2 g.1.lane = 0

theorem tryAccessResults_iff : Clause.TryAccessResults ↔ FailedLoadsReadZero := by
  constructor
  · intro hc s t h o gs hi ha hd h6 hst hal hl hx
    rw [logMet_eq hi]
    exact ((hc s t h o gs hi ha hd h6 hst hal).1 hl hx).2
  · intro hz s t h o gs hi ha hd h6 hst hal
    have hload := fun hl hx => execLdgTry_done (t := t) (gs := gs) hi ha hd h6 hst hal hl hx
    have hstore := fun hs hx => execStgTry_ends (t := t) (gs := gs) hi ha hd h6 hst hal hs hx
    have hzero := hz s t h o gs hi ha hd h6 hst hal
    rw [logMet_eq hi] at hload hstore hzero
    exact ⟨fun hl hx => ⟨hload hl hx, hzero hl hx⟩, hstore⟩

/-- The obligation comes down to that part: every other one holds. -/
theorem globalAccess_iff : Obligations.GlobalAccess ↔ FailedLoadsReadZero :=
  ⟨fun ⟨_, _, ht⟩ => tryAccessResults_iff.mp ht, fun hz => ⟨globalAccessResults, leasedReads, tryAccessResults_iff.mpr hz⟩⟩

/-! ## One address that is good for a strand and bad for a later one

Two pages name frame 1: byte 49152 of the page of 192 MiB from offset 0 on, and the page of 48 KiB at 192 MiB, which is migrating there
from frame 2 (R345, R348). Line 0 of frame 2 is poisoned and has still to be pulled. Lanes 0 and 2 load from the first page, lane 1 from
the other: its check pulls the line, and its poison comes with it (R276), so that lane 0 passes and lane 2 meets row 6. Lane 2 takes the
value that lane 0 has read at the same address (`loadLanes`). -/

/-- Root entry 1, the table at its place, the leaf with MIG, the migration entry with OLDFRAME 2, and a byte of the old frame. -/
def sharedFrameDram (m : Memory) : Memory :=
  let table := 4097 * 49152
  let entries : List (Nat × Nat × Nat) := [
    (4096 * 49152 + 8, 8, 1 + 2 ^ 16 * 4097),
    (table, 8, 1 + 2 ^ 6 * 1 + 2 ^ 16 * 4097),
    (table + 512, 8, 1 + 2 + 4 + 2 ^ 5 + 2 ^ 16 * 1),
    (4098 * 49152, 4, 2),
    (2 * 49152, 1, 1)]
  entries.foldl (fun m e => m.writeN e.1 (toBytes e.2.1 e.2.2)) m

def sharedFrame : State :=
  let s := State.reset.withFetchWord 32 0
  { s with
    dram := sharedFrameDram s.dram
    ptLen := 2
    migFrame := 4098
    migCount := 1
    poison := [(2 * 49152, 0)]
    contexts := upd s.contexts 0 fun c => { c with rights := [{ start := 0, pages := 8192, bits := 7 }] }
    waves := upd s.waves 0 fun w => { w with alloc := setAt w.alloc 2 (rowOf fun i => if i = 1 then 0x0C000000 else 49152) }
    issue := some (issueAt 0 0 7 false 192) }

def sharedFrameSeen : Here := (hereOf sharedFrame).get (by decide +kernel)

/-- `ldg.try` of a word at the address in `v2` and `v3`, to `v100`; its status goes to `v102`. -/
def wordTry : Mem := { d := 100, a := 2, p := 0, u := false, sz := 4, off := 0 }

theorem issuing_sharedFrame : Issuing sharedFrame sharedFrameSeen := ⟨(Option.some_get _).symm, by decide +kernel⟩

theorem ready_sharedFrame {c : Nat} (hc : c < 128) : sharedFrameSeen.ready c := by
  have hp : sharedFrameSeen.w.pending = [] := by decide +kernel
  have hm : sharedFrameSeen.i.sup = false := by decide +kernel
  have hb : sharedFrameSeen.f.wbase = 0 := by decide +kernel
  have hw : (sharedFrameSeen.g.hdr.winOf sharedFrameSeen.i.fibre).2 = 128 := by decide +kernel
  refine ⟨?_, fun p hm => by simp [hp] at hm⟩
  simp only [hm, hb, hw, Bool.false_eq_true, if_false]
  omega

theorem sound_sharedFrame (c : Nat) : sharedFrameSeen.sound c := by
  have hb : sharedFrameSeen.w.bad = [] := by decide +kernel
  simp [Here.sound, Here.poisoned, hb, get?]

theorem canRead64_sharedFrame : sharedFrameSeen.canRead64 wordTry.a wordTry.u none :=
  ⟨.inl ⟨by decide, rfl⟩, fun _ => ⟨by decide, ready_sharedFrame (by decide), ready_sharedFrame (by decide), sound_sharedFrame _,
    sound_sharedFrame _⟩⟩

theorem loads_sharedFrame : sharedFrameSeen.loads wordTry :=
  ⟨by decide, by decide, by decide, fun _ j hj => ready_sharedFrame (show 100 + j < 128 by have : j < 1 := hj; omega)⟩

theorem aligned_sharedFrame : AllAligned (sharedFrameSeen.perf wordTry.p) (memBytes wordTry.sz) (sharedFrameSeen.memAddrAt wordTry) := by
  unfold AllAligned
  decide +kernel

/-- The checks end, and a strand whose access failed has not read 0. -/
theorem failed_reads_sharedFrame : ∃ t gs,
    examine sharedFrameSeen sharedFrame loadKind true (carryLoad 4)
      (accessesOf (sharedFrameSeen.perf 0) (sharedFrameSeen.memAddrAt wordTry)) = .ok (t, gs) ∧
    ∃ g ∈ gs, g.2.failed = true ∧ (sharedFrameSeen.loaded wordTry (logMet sharedFrameSeen t gs) gs).2 g.1.lane ≠ 0 := by
  have run : (examine sharedFrameSeen sharedFrame loadKind true (carryLoad 4)
      (accessesOf (sharedFrameSeen.perf 0) (sharedFrameSeen.memAddrAt wordTry))).toOption.any (fun r =>
        r.2.any fun g => g.2.failed && (sharedFrameSeen.loaded wordTry (logMet sharedFrameSeen r.1 r.2) r.2).2 g.1.lane != 0) = true := by
    decide +kernel
  cases he : examine sharedFrameSeen sharedFrame loadKind true (carryLoad 4)
      (accessesOf (sharedFrameSeen.perf 0) (sharedFrameSeen.memAddrAt wordTry)) with
  | error e => rw [he] at run; exact absurd run Bool.false_ne_true
  | ok r =>
    rw [he] at run
    obtain ⟨g, hg, hf⟩ := List.any_eq_true.mp run
    simp only [Bool.and_eq_true, bne_iff_ne] at hf
    exact ⟨r.1, r.2, rfl, g, hg, hf⟩

/-- Refutes O9: a strand of `ldg.try` whose access meets poison is given what an earlier strand has read at its address. -/
theorem not_globalAccess : ¬ Obligations.GlobalAccess := by
  intro hO
  obtain ⟨t, gs, hx, g, hg, hf, hne⟩ := failed_reads_sharedFrame
  exact hne (globalAccess_iff.mp hO _ _ _ wordTry gs issuing_sharedFrame canRead64_sharedFrame (by decide) (by decide)
    (ready_sharedFrame (by decide)) aligned_sharedFrame loads_sharedFrame hx g hg hf)

end Sys2Proof.Proofs.GlobalMemory
end

section
/-! PROOFS. System instructions: taking an exception and returning from it (R248 to R250, R252), the precise stops (R253, R304 to R306),
and the marks (R253, R299, R310). -/

namespace Sys2Proof.Proofs.SystemInstructions

open Sys2Proof Sys2Proof.Machine

variable {s : State} {h : Here}

/-! ## What an issue sees -/

/-- The parts that an issue names in the state, each found where it is kept. -/
structure Sees (s : State) (h : Here) : Prop where
  wave    : get? s.waves h.i.wave = some h.w
  gang    : get? s.gangs h.w.gang = some h.g
  launch  : get? s.launches h.g.launch = some h.l
  context : get? s.contexts h.g.tag = some h.c

theorem sees_of_hereOf (hh : hereOf s = some h) : Sees s h := by
  simp only [hereOf, Option.bind_eq_bind, Option.bind_eq_some_iff, Option.ite_none_right_eq_some, Option.some.injEq] at hh
  obtain ⟨i, -, w, hw, f, -, g, hg, l, hl, c, hc, -, rfl⟩ := hh
  exact ⟨hw, hg, hl, hc⟩

/-- The wave of an issue, after its fibre has gone on. -/
theorem get?_waves_done (hs : Sees s h) : ∃ w, get? (h.done s []).waves h.i.wave = some w ∧ w.gang = h.w.gang := by
  simp only [Here.done, Here.doneWith, Here.changed, get?_upd_self, hs.wave, Option.map_some]
  exact ⟨_, rfl, rfl⟩

/-- An instruction that ends scout mode (R38, R254) acts at an issue outside it. -/
theorem perform_notInScout_ok (hi : Issuing s h) {k : Here → Except Stop State} {t : State} (hk : k h = .ok t) :
    perform s (fun h => do notInScout h; k h) = .next (settle h t) :=
  perform_ok hi (by rw [notInScout, hi.notScouting]; exact hk)

/-- And stops there as it would without regard to scout mode. -/
theorem perform_notInScout_error (hi : Issuing s h) {k : Here → Except Stop State} {e : Stop} (hk : k h = .error e) :
    perform s (fun h => do notInScout h; k h) = .next (refrain h s e) :=
  perform_error hi (by rw [notInScout, hi.notScouting]; exact hk)

/-- The group goes on, and its fibre is changed after that. -/
theorem modFibre_advance (t : State) (f : Fibre → Fibre) : modFibre (advance h t) h.i.wave h.i.fibre f = h.doneWith t f [] := by
  rw [advance_eq, modFibre_changed]
  rfl

/-! ## Taking an exception (R248 to R250) -/

/-- The record of the model is the one that the statements name (R350). -/
theorem record_eq (t : State) (code : Nat) (info : Quad) : h.record t code info = h.report t code info := rfl

/-- R38: in scout mode an exception only ends the run. -/
theorem takeTrap_scouting {c : Scout} (hc : h.f.scout = some c) (t : State) (cause : Nat) (info ret : Quad) :
    takeTrap h t cause info ret =
      h.changed t (fun w => w) fun f => { f with scout := f.scout.map fun c => { c with ended := true } } := by
  have hsc : h.scouting = true := by simp [Here.scouting, hc]
  simp only [takeTrap, hsc, if_true, modFibre_eq]

/-- R250: in supervisor mode it ends the context, whose record has code 16 and names the cause. -/
theorem takeTrap_supervisor (hs : h.f.scout = none) (hm : h.i.sup = true) (t : State) (cause : Nat) (info ret : Quad) :
    takeTrap h t cause info ret =
      endContextByDevice t h.g.tag (.core h.g.cluster (h.g.core + h.w.member)) { h.report t 16 info with xkind := cause } := by
  simp only [takeTrap, Here.scouting, hs, Option.isSome_none, Bool.false_eq_true, if_false, hm, if_true, record_eq]
  rfl

/-- R248, R249: in kernel mode the group enters the handler, and causes 6 to 8 post a record. -/
theorem takeTrap_kernel (hs : h.f.scout = none) (hm : h.i.sup = false) (t : State) (cause : Nat) (info ret : Quad) :
    takeTrap h t cause info ret =
      if cause = 6 ∨ cause = 7 ∨ cause = 8 then
        postRecord (h.entered t cause info ret) (.core h.g.cluster (h.g.core + h.w.member)) (h.report t cause info)
      else h.entered t cause info ret := by
  simp only [takeTrap, Here.scouting, hs, Option.isSome_none, Bool.false_eq_true, if_false, hm, record_eq, Bool.or_eq_true,
    decide_eq_true_eq, or_assoc]
  rfl

/-- A cause without a record of its own only enters the handler. -/
theorem takeTrap_unrecorded (hs : h.f.scout = none) (hm : h.i.sup = false) (t : State) {cause : Nat}
    (hc : ¬(cause = 6 ∨ cause = 7 ∨ cause = 8)) (info ret : Quad) :
    takeTrap h t cause info ret = h.entered t cause info ret := by
  rw [takeTrap_kernel hs hm, if_neg hc]

theorem trapEntry : Clause.TrapEntry := by
  intro s h cause info ret _
  refine ⟨fun hs hm hc => takeTrap_unrecorded hs hm s hc info ret, fun hs hm hc => ?_,
    fun hs hm => takeTrap_supervisor hs hm s cause info ret, fun _ hc => takeTrap_scouting hc s cause info ret⟩
  rw [takeTrap_kernel hs hm, if_pos hc]

/-! ## The software trap and `tret` (R249, R252) -/

theorem execTrap_entered (n : BitVec 6) (hi : Issuing s h) (hm : h.i.sup = false) :
    execTrap n s = .next (settle h (h.entered s 10 (n.setWidth 64) h.i.next)) :=
  perform_notInScout_ok hi (congrArg _ (takeTrap_unrecorded hi.noScout hm s (by decide) _ _))

/-- A stop by a trap whose report is complete: the trap is taken, and the instruction is done with. -/
theorem refrain_trap {cause : Nat} (h1 : cause ≠ 1) (h7 : cause ≠ 7) (info : Quad) :
    refrain h s (.trap cause info) = settle h (takeTrap h s cause info h.i.pc) := by
  rw [refrain_eq (reported_trap h1) rfl]
  simp only [stopped, h7, decide_false, Bool.false_and, Bool.false_eq_true, if_false]

theorem execTret_kernel (hi : Issuing s h) (hm : h.i.sup = false) : execTret s = .next (settle h (h.entered s 12 0 h.i.pc)) := by
  have hstop : execTret s = .next (refrain h s (.trap 12 0)) :=
    perform_notInScout_error hi (by rw [orTrap, hm]; rfl)
  rw [hstop, refrain_trap (by decide) (by decide), takeTrap_unrecorded hi.noScout hm s (by decide)]

theorem execTret_odd (hi : Issuing s h) (hm : h.i.sup = true) (hr : h.f.trap.ret.getLsbD 0 = true) :
    execTret s = .next (settle h (takeTrap h s 3 h.f.trap.ret h.i.pc)) := by
  have hstop : execTret s = .next (refrain h s (.trap 3 h.f.trap.ret)) :=
    perform_notInScout_error hi (by rw [orTrap, hm, orTrap, hr]; rfl)
  rw [hstop, refrain_trap (by decide) (by decide)]

/-- The fibre that `tret` leaves: some strands back in kernel mode at an address, and out of TRAP once no live strand is in supervisor
mode (R252). -/
def returned (back : Lanes) (ret : Quad) (f : Fibre) : Fibre :=
  let sup := f.sup &&& ~~~back
  { f.standsAt back fun _ => ret with sup, state := if sup &&& ~~~f.exited = 0 then .holding else f.state }

theorem returnFromTrap_advance (t : State) :
    returnFromTrap h (advance h t) = h.doneWith t (returned (h.i.lanes &&& h.f.sup &&& h.f.trap.lanes) h.f.trap.ret) [] := by
  rw [returnFromTrap, modFibre_advance]
  congr 1
  funext f
  simp only [returned, Fibre.inTrap, Fibre.setPcs, bne_iff_ne, ne_eq, ite_not]
  split <;> rfl

theorem execTret_returned (hi : Issuing s h) (hm : h.i.sup = true) (hr : h.f.trap.ret.getLsbD 0 = false) :
    execTret s = .next (settle h (h.doneWith s (returned (h.i.lanes &&& h.f.sup &&& h.f.trap.lanes) h.f.trap.ret) [])) :=
  perform_notInScout_ok hi (by rw [orTrap, hm, orTrap, hr, returnFromTrap_advance]; rfl)

theorem softwareTrapAndReturn : Clause.SoftwareTrapAndReturn :=
  ⟨fun _ _ n hi hm => execTrap_entered n hi hm, fun _ _ hi hm hr => execTret_returned hi hm hr,
   fun _ _ hi => ⟨execTret_kernel hi, execTret_odd hi⟩⟩

/-- Settles O26: a trap is taken by the mode of its group, and `tret` undoes the entry for the strands it names. -/
theorem trapEntryAndReturn : Obligations.TrapEntryAndReturn := ⟨trapEntry, softwareTrapAndReturn⟩

/-! ## `halt` and `brk` (R253, R304 to R306) -/

theorem stopRecord_eq (hs : Sees s h) (addr : Quad) (n : Nat) :
    stopRecord s h.i.wave h.i.fibre h.f addr n h.i.lanes = h.stopReport s addr n := by
  simp only [stopRecord, fibreRecord, hs.wave, hs.gang, hs.launch, Option.bind_some, Option.map_some, Option.getD_some]
  rfl

theorem haltFibre_advance (t : State) : haltFibre (advance h t) h.i.wave h.i.fibre h.i.hint = h.halted t := by
  rw [haltFibre, modFibre_advance, Here.halted]

theorem preciseStop_eq (hs : Sees s h) (addr : Quad) (n : Nat) :
    preciseStop h s addr n = postRecord (h.halted s) (.core h.g.cluster (h.g.core + h.w.member)) (h.stopReport s addr n) := by
  simp only [preciseStop, haltFibre_advance, stopRecord_eq hs]
  rfl

theorem execHalt_debugged (hi : Issuing s h) (hd : h.c.dbg = true) : execHalt s =
    .next (settle h (postRecord (h.halted s) (.core h.g.cluster (h.g.core + h.w.member)) (h.stopReport s h.i.next 0))) :=
  perform_notInScout_ok hi (by rw [if_pos hd, preciseStop_eq (sees_of_hereOf hi.here)])

theorem execHalt_undebugged (hi : Issuing s h) (hd : h.c.dbg = false) : execHalt s =
    .next (settle h (endContextByDevice s h.g.tag (.core h.g.cluster (h.g.core + h.w.member)) (h.stopReport s h.i.next 0))) :=
  perform_notInScout_ok hi (by rw [if_neg (by simp [hd]), stopRecord_eq (sees_of_hereOf hi.here)]; rfl)

theorem execBrk_debugged (n : BitVec 6) (hi : Issuing s h) (hd : h.c.dbg = true) : execBrk n s =
    .next (settle h (postRecord (h.halted s) (.core h.g.cluster (h.g.core + h.w.member)) (h.stopReport s h.i.pc n.toNat))) :=
  perform_notInScout_ok hi (by rw [if_pos hd, preciseStop_eq (sees_of_hereOf hi.here)])

theorem execBrk_undebugged (n : BitVec 6) (hi : Issuing s h) (hd : h.c.dbg = false) :
    execBrk n s = .next (settle h (takeTrap h s 11 (n.setWidth 64) h.i.next)) :=
  perform_notInScout_ok hi (if_neg (by simp [hd]))

theorem preciseStopResults : Clause.PreciseStopResults := by
  refine ⟨fun s h hi hd => ⟨execHalt_debugged hi hd, fun n => execBrk_debugged n hi hd⟩,
    fun s h hi hd => ⟨execHalt_undebugged hi hd, fun n hm => ?_, fun n _ => execBrk_undebugged n hi hd⟩⟩
  rw [← takeTrap_unrecorded hi.noScout hm s (cause := 11) (by decide)]
  exact execBrk_undebugged n hi hd

/-! ## `prog` and `ckmark` (R253, R299, R310) -/

theorem execProg_counting (n : BitVec 2) (hi : Issuing s h) : execProg n s =
    .next (settle h (modContext (h.done s []) h.g.tag fun c => c.counting n.toNat (c.progs.getD n.toNat 0 + 1))) :=
  perform_notInScout_ok hi rfl

theorem execCkmark_supervisor (n : BitVec 6) (hi : Issuing s h) (hm : h.i.sup = true) :
    execCkmark n s = .next (settle h (h.done s [])) :=
  perform_notInScout_ok hi (if_pos hm)

theorem execCkmark_kernel (n : BitVec 6) (hi : Issuing s h) (hm : h.i.sup = false) :
    execCkmark n s = .next (settle h (vigilRecord (h.done s []) h.i.wave h.i.fibre 3 n.toNat h.i.pc)) :=
  perform_notInScout_ok hi (if_neg (by simp [hm]))

/-- R299: no record is made of a launch outside replay mode, nor for a context without a control block. -/
theorem vigilRecord_unlogged (hs : Sees s h) (hu : h.unlogged) (k kind tag : Nat) (addr : Quad) :
    vigilRecord (h.done s []) h.i.wave k kind tag addr = h.done s [] := by
  obtain ⟨w, hw, hwg⟩ := get?_waves_done hs
  have hg : get? (h.done s []).gangs w.gang = some h.g := by rw [hwg]; exact hs.gang
  have hl : get? (h.done s []).launches h.g.launch = some h.l := hs.launch
  have hc : get? (h.done s []).contexts h.g.tag = some h.c := hs.context
  have hn : (h.l.replay && h.c.vigil != 0) = false := by
    rcases hu with hr | hv
    · simp [hr]
    · simp [hv]
  simp only [vigilRecord, hw, hg, hl, hc, Option.bind_some, Option.any_some, hn, Bool.not_false, if_true]

theorem markResults : Clause.MarkResults := by
  refine ⟨fun s h n hi => execProg_counting n hi, fun s h n hi => ⟨fun hq => ?_, execCkmark_kernel n hi⟩⟩
  cases hm : h.i.sup with
  | true => exact execCkmark_supervisor n hi hm
  | false =>
    have hu : h.unlogged := hq.resolve_left (by simp [hm])
    exact (execCkmark_kernel n hi hm).trans (by rw [vigilRecord_unlogged (sees_of_hereOf hi.here) hu])

/-- Settles O29: a debugger's stop is precise, and the marks change only the counter or the log that they are for. -/
theorem stopsAndMarks : Obligations.StopsAndMarks := ⟨preciseStopResults, markResults⟩

end Sys2Proof.Proofs.SystemInstructions
end
